-- ==== Sys2Proof/Word.lean ====
section
/-! DEFINITION. The word types of Ralre: a byte, a 32-bit lane word, a 64-bit scalar and a 96-bit instruction word. -/

namespace Sys2Proof

/-- One byte of memory (R6: memory is little-endian and byte-addressed). -/
abbrev Byte := BitVec 8

/-- The value of one lane of a vector register (R164). -/
abbrev LaneWord := BitVec 32

/-- The value of a scalar register (R120). -/
abbrev Scalar := BitVec 64

/-- One Ralre instruction word (R118). -/
abbrev InstrWord := BitVec 96

end Sys2Proof
end

