-- ==== Sys2Proof/Machine/Bits.lean ====
section
/-! DEFINITION. Bit fields, sign extension, lane sets and byte order: the helpers every other file of the machine uses. -/

namespace Sys2Proof.Machine

/-- Bits [lo+w-1 : lo] of a natural number. -/
def field (x lo w : Nat) : Nat := (x >>> lo) % 2 ^ w

/-- The two's-complement value of the low `w` bits of `x` (R170). -/
def signed (w x : Nat) : Int :=
  let y := x % 2 ^ w
  if 2 * y < 2 ^ w then (y : Int) else (y : Int) - (2 ^ w : Nat)

/-- The low `w` bits of an exact integer result (R170: bits [w-1:0] are kept). -/
def wrapInt (w : Nat) (i : Int) : Nat := (i % ((2 ^ w : Nat) : Int)).toNat

/-- Sign extension of the low `w` bits of `x` to `v` bits. -/
def signExtendTo (w v x : Nat) : Nat := wrapInt v (signed w x)

/-- The lanes of a lane set in ascending order. -/
def lanesOf (m : BitVec 64) : List Nat := (List.range 64).filter (fun i => m.getLsbD i)

/-- The lane set with exactly the listed lanes. -/
def laneSet : List Nat → BitVec 64
  | [] => 0
  | l :: ls => laneSet ls ||| BitVec.ofNat 64 (2 ^ l)

/-- The lane set of lanes 0 to n - 1. -/
def lowLanes (n : Nat) : BitVec 64 := BitVec.ofNat 64 (2 ^ n - 1)

/-- `x` with bit `i` set to `b`. -/
def setBit (x : BitVec 64) (i : Nat) (b : Bool) : BitVec 64 :=
  if b then x ||| BitVec.ofNat 64 (2 ^ i) else x &&& ~~~ (BitVec.ofNat 64 (2 ^ i))

/-- The `n` bytes of `x` in memory order (R6: the least significant byte first). -/
def toBytes : Nat → Nat → List Byte
  | 0, _ => []
  | n + 1, x => BitVec.ofNat 8 x :: toBytes n (x / 256)

/-- The number whose bytes in memory order are `bs` (R6). -/
def ofBytes : List Byte → Nat
  | [] => 0
  | b :: bs => b.toNat + 256 * ofBytes bs

/-- The number of one bits among the low `w` bits. -/
def popCount : Nat → Nat → Nat
  | 0, _ => 0
  | w + 1, x => x % 2 + popCount w (x / 2)

/-- The lowest set bit below `w`, or `w` when none is set. -/
def lowestSet (w x : Nat) : Nat := ((List.range w).find? (fun i => x.testBit i)).getD w

/-- Whether `x` is a multiple of `a`. -/
def aligned (a x : Nat) : Bool := x % a == 0

/-- Membership in a list of numbers. -/
def memb (x : Nat) (xs : List Nat) : Bool := xs.any (· == x)

/-- A sorted list of numbers without repeats, with one number more. -/
def insertNum (x : Nat) : List Nat → List Nat
  | [] => [x]
  | y :: ys => if x < y then x :: y :: ys else if x == y then y :: ys else y :: insertNum x ys

/-- The numbers of a list in ascending order, without repeats. -/
def sortNums (xs : List Nat) : List Nat := xs.foldr insertNum []

/-- A list without the number `x`. -/
def removeNum (x : Nat) (ys : List Nat) : List Nat := ys.filter (· != x)

/-- Insert or remove according to a flag. -/
def putNum (b : Bool) (x : Nat) (ys : List Nat) : List Nat :=
  if b then insertNum x ys else removeNum x ys

end Sys2Proof.Machine
end

