-- ==== Sys2Proof/Syntax.lean ====
section
/-! DEFINITION. The abstract form of every Ralre word and of every step of the part: one constructor per row of the
opcode table (R118, R119, R126, R130, R134, R135). -/

namespace Sys2Proof

/-- The class field of an operand (R120). -/
inductive OpClass where
  | vec
  | scl
  | prd
  | imm
  deriving DecidableEq, Repr

/-- The fields of a single word and of a system word besides class and opcode (R119). -/
structure SFields where
  gs : Bool
  guard : BitVec 4
  dc : OpClass
  dst : BitVec 11
  ac : OpClass
  a : BitVec 11
  bc : OpClass
  b : BitVec 11
  ae : Bool
  be : Bool
  mod : BitVec 12
  hints : BitVec 6
  imm : BitVec 22
  deriving DecidableEq, Repr

/-- The half opcodes of R127 that are defined. -/
inductive HalfOp where
  | fadd | fsub | fmul | fma | fmin | fmax | fabs | iadd | isub | imul | imad | imin | imax | umin | umax
  | and | or | xor | shl | shr | sar | mov | fneg | fexp2 | flog2 | frcp | frsq | fsin | fcos | fsqrt
  deriving DecidableEq, Repr

/-- One half of a pair word (R126). -/
structure Half where
  op : HalfOp
  guard : BitVec 4
  dst : BitVec 11
  a : BitVec 11
  b : BitVec 11
  mod : BitVec 5
  deriving DecidableEq, Repr

/-- What a request of another package carries of time and order: the core's logical time, and one more than the word's SC ticket, or 0
where it has none (R252, R359, R368). -/
structure ReqStamp where
  cts : Nat
  ticket : Nat
  deriving DecidableEq, Repr

/-- Every word of the instruction set and every step of the part that no word causes. -/
inductive Instr where
  /-- R195. Adds source A and source B element by element, keeping the low e bits of each sum. -/
  | iadd (f : SFields)
  /-- R195. Subtracts B from A element by element, keeping the low e bits. -/
  | isub (f : SFields)
  /-- R195. Multiplies A by B and keeps the low e bits of the product. -/
  | imul (f : SFields)
  /-- R195. Returns the high e bits of the signed product of A and B. -/
  | imulh (f : SFields)
  /-- R195. Returns the high e bits of the unsigned product of A and B. -/
  | umulh (f : SFields)
  /-- R196. Adds the signed product of A and B to the old destination, keeping e bits. -/
  | imad (f : SFields)
  /-- R197. Long-latency signed division that truncates toward zero and raises DZ for a zero divisor. -/
  | idiv (f : SFields)
  /-- R197. Long-latency unsigned division that raises DZ for a zero divisor. -/
  | udiv (f : SFields)
  /-- R197. Long-latency signed remainder that takes the sign of the dividend. -/
  | irem (f : SFields)
  /-- R197. Long-latency unsigned remainder. -/
  | urem (f : SFields)
  /-- R195. Negates A with a wrap. -/
  | ineg (f : SFields)
  /-- R195. Returns the absolute value of A; the most negative value returns itself. -/
  | iabs (f : SFields)
  /-- R195. Returns the signed minimum of A and B. -/
  | imin (f : SFields)
  /-- R195. Returns the signed maximum of A and B. -/
  | imax (f : SFields)
  /-- R195. Returns the unsigned minimum of A and B. -/
  | umin (f : SFields)
  /-- R195. Returns the unsigned maximum of A and B. -/
  | umax (f : SFields)
  /-- R195. Adds with signed saturation, setting SAT on each clamp. -/
  | iadds (f : SFields)
  /-- R195. Subtracts with signed saturation, setting SAT on each clamp. -/
  | isubs (f : SFields)
  /-- R195. Adds with unsigned saturation, setting SAT on each clamp. -/
  | uadds (f : SFields)
  /-- R195. Subtracts with unsigned saturation, setting SAT on each clamp. -/
  | usubs (f : SFields)
  /-- R200. Bitwise AND of A and B. -/
  | and (f : SFields)
  /-- R200. Bitwise OR of A and B. -/
  | or (f : SFields)
  /-- R200. Bitwise XOR of A and B. -/
  | xor (f : SFields)
  /-- R200. Bitwise complement of A. -/
  | not (f : SFields)
  /-- R200. Returns A AND NOT B. -/
  | andn (f : SFields)
  /-- R200. Shifts left with zero fill by the count of R172. -/
  | shl (f : SFields)
  /-- R200. Shifts right with zero fill by the count of R172. -/
  | shr (f : SFields)
  /-- R200. Shifts right with sign fill by the count of R172. -/
  | sar (f : SFields)
  /-- R200. Rotates left by the count modulo the element width. -/
  | rol (f : SFields)
  /-- R200. Rotates right by the count modulo the element width. -/
  | ror (f : SFields)
  /-- R201. Funnel-shifts left the double-width value A:d and returns the high half. -/
  | fshl (f : SFields)
  /-- R201. Funnel-shifts right the double-width value A:d and returns the low half. -/
  | fshr (f : SFields)
  /-- R202. Extracts an unsigned bit field of A at the position and length given by B. -/
  | bfx (f : SFields)
  /-- R202. Extracts a sign-extended bit field of A. -/
  | bfxs (f : SFields)
  /-- R202. Inserts the low bits of A into a field of the old destination. -/
  | bfi (f : SFields)
  /-- R203. Counts the one bits of each element. -/
  | popc (f : SFields)
  /-- R203. Counts the leading zero bits of each element. -/
  | clz (f : SFields)
  /-- R203. Counts the trailing zero bits of each element. -/
  | ctz (f : SFields)
  /-- R203. Reverses the bit order of each element. -/
  | brev (f : SFields)
  /-- R203. Reverses the byte order of each element. -/
  | bswap (f : SFields)
  /-- R204. Sign-extends A from bit n−1, or widens a 32-bit source under .W. -/
  | sext (f : SFields)
  /-- R204. Zero-extends A above bit n−1. -/
  | zext (f : SFields)
  /-- R198. Adds with carry in and carry out through a predicate. -/
  | iaddc (f : SFields)
  /-- R198. Subtracts with borrow in and borrow out through a predicate. -/
  | isubb (f : SFields)
  /-- R199. Adds the dot product of four packed 8-bit elements to a 32-bit accumulator, optionally with saturation. -/
  | idp4 (f : SFields)
  /-- R199. Adds the dot product of two packed 16-bit elements to a 32-bit accumulator. -/
  | idp2 (f : SFields)
  /-- R205. Compares signed values and writes a predicate, scalar or vector mask. -/
  | icmp (f : SFields)
  /-- R205. Compares unsigned values and writes a predicate, scalar or vector mask. -/
  | ucmp (f : SFields)
  /-- R206. Combines two predicates through a 4-bit truth table. -/
  | plop (f : SFields)
  /-- R207. Sets a predicate from a vector's non-zero lanes or from the bits of a scalar. -/
  | pset (f : SFields)
  /-- R207. Copies a predicate's lane bits into a scalar or a vector. -/
  | pget (f : SFields)
  /-- R208. Copies source B into the destination. -/
  | mov (f : SFields)
  /-- R209. Selects A or B per lane according to a predicate. -/
  | sel (f : SFields)
  /-- R211. Reads a special register into a scalar or vector destination. -/
  | movsRead (f : SFields)
  /-- R212. Writes a special register from a scalar, an immediate or a literal, taking effect from the next word. -/
  | movsWrite (f : SFields)
  /-- R210. Forms a 64-bit address from a base, a scaled index and an offset, without translation. -/
  | lea (f : SFields)
  /-- R213. Reads a 64-bit word of the capability list into a scalar, returning zero for an absent index. -/
  | capq (f : SFields)
  /-- R214. Reports the binding and header fields of a format slot. -/
  | fmtq (f : SFields)
  /-- R218. Computes the FP32 sum of A and B, rounded once. -/
  | fadd (f : SFields)
  /-- R218. Computes the FP32 difference of A and B, rounded once. -/
  | fsub (f : SFields)
  /-- R218. Computes the FP32 product of A and B, rounded once. -/
  | fmul (f : SFields)
  /-- R218. Computes the fused A×B+d into the destination, with one rounding. -/
  | fma (f : SFields)
  /-- R218. Computes the fused A×B−d, with one rounding. -/
  | fms (f : SFields)
  /-- R218. Computes the fused −(A×B)+d, with one rounding. -/
  | fnma (f : SFields)
  /-- R221. Returns the smaller FP32 operand, with −0 below +0 and NaN ignored. -/
  | fmin (f : SFields)
  /-- R221. Returns the larger FP32 operand, with NaN ignored. -/
  | fmax (f : SFields)
  /-- R221. Clears the sign bit. -/
  | fabs (f : SFields)
  /-- R221. Inverts the sign bit. -/
  | fneg (f : SFields)
  /-- R218. Long-latency FP32 division, rounded once. -/
  | fdiv (f : SFields)
  /-- R218. Long-latency FP32 square root, rounded once. -/
  | fsqrt (f : SFields)
  /-- R219. Correctly rounded reciprocal, with long latency. -/
  | frcp (f : SFields)
  /-- R219. Correctly rounded reciprocal square root, with long latency. -/
  | frsq (f : SFields)
  /-- R219. Correctly rounded 2 to the power A. -/
  | fexp2 (f : SFields)
  /-- R219. Correctly rounded base-2 logarithm. -/
  | flog2 (f : SFields)
  /-- R219. Correctly rounded sin(π·A). -/
  | fsin (f : SFields)
  /-- R219. Correctly rounded cos(π·A). -/
  | fcos (f : SFields)
  /-- R219. Correctly rounded hyperbolic tangent. -/
  | ftanh (f : SFields)
  /-- R222. Compares FP32 values under an ordered or unordered condition. -/
  | fcmp (f : SFields)
  /-- R223. Classifies A into one of nine classes, as a one-hot value or a masked predicate. -/
  | fclass (f : SFields)
  /-- R220. Rounds A to an integral FP32 value by the mode. -/
  | frnd (f : SFields)
  /-- R220. Computes A × 2^S(B), rounded once. -/
  | fldexp (f : SFields)
  /-- R221. Returns A with the sign bit of B. -/
  | fsgn (f : SFields)
  /-- R225. Converts elements from slot fa to slot fd with one rounding, optionally capturing the absolute maximum. -/
  | cvt (f : SFields)
  /-- R225. Converts elements from slot fa to slot fd scaled by an FP32 operand, with one rounding. -/
  | cvts (f : SFields)
  /-- R229. Packs N W-bit fields from consecutive registers into one lane value. -/
  | pack (f : SFields)
  /-- R229. Unpacks N W-bit fields of one register into consecutive registers. -/
  | unpack (f : SFields)
  /-- R227. Turns a maximum and emax into an E8M0 scale code, or its FP32 inverse. -/
  | scaleb (f : SFields)
  /-- R231. Each participant reads vA from lane d. -/
  | shfl (f : SFields)
  /-- R231. Each participant reads vA from lane L−d. -/
  | shflu (f : SFields)
  /-- R231. Each participant reads vA from lane L+d. -/
  | shfld (f : SFields)
  /-- R231. Each participant reads vA from lane L XOR d. -/
  | shflx (f : SFields)
  /-- R232. Copies one lane's value to every participant or to a scalar. -/
  | bcst (f : SFields)
  /-- R233. Computes ALL, ANY, UNI or BALLOT of a predicate over the participants. -/
  | vote (f : SFields)
  /-- R234. Selects the lowest participant of each logical rod. -/
  | elect (f : SFields)
  /-- R235. Computes exclusive or inclusive running combinations over the participants. -/
  | pscan (f : SFields)
  /-- R236. Reduces the participants by a fixed log-step tree. -/
  | lred (f : SFields)
  /-- R278. Loads 1 to 16 bytes per lane from the global, pane or per-thread space into a register. -/
  | ld (f : SFields)
  /-- R278. Stores 1 to 16 bytes per lane to the global, pane or per-thread space. -/
  | st (f : SFields)
  /-- R279. Loads one packed W-bit element per lane. -/
  | lde (f : SFields)
  /-- R279. Stores one packed W-bit element per lane as a masked update. -/
  | ste (f : SFields)
  /-- R280. Prefetches lines into their home slice, and into L1 under .L1, with the claim of code k. -/
  | pf (f : SFields)
  /-- R281. Drops the named line from the instruction caches in the given scope. -/
  | cctlIinv (f : SFields)
  /-- R281. Drops the issuing core's L1 copy of the named line. -/
  | cctlL1inv (f : SFields)
  /-- R282. Performs an atomic update at the home slice or the pane and returns the old value. -/
  | atom (f : SFields)
  /-- R282. Atomic compare-and-swap that returns the old value. -/
  | atomc (f : SFields)
  /-- R282. Atomic reduction that returns no value. -/
  | red (f : SFields)
  /-- R285. Delivers pending flags and faults, then orders the rod's memory words by its order and scope. -/
  | fence (f : SFields)
  /-- R314. Queues a 32×32 matrix multiply-accumulate of two operand blocks into a board tile. -/
  | mma (f : SFields)
  /-- R315. Takes a fetch entry and pins the 32 rows of a global operand block for n uses. -/
  | tfetch (f : SFields)
  /-- R317. Adds the row sums of a block times z into a tile. -/
  | sumsR (f : SFields)
  /-- R317. Adds the column sums of a block times z into a tile. -/
  | sumsC (f : SFields)
  /-- R318. Sets every element of a tile to a value. -/
  | aclr (f : SFields)
  /-- R318. Loads 32 rows of memory into a tile as a job. -/
  | ald (f : SFields)
  /-- R318. Moves a tile into vector registers. -/
  | amovTov (f : SFields)
  /-- R318. Moves vector registers into a tile. -/
  | amovTob (f : SFields)
  /-- R319. Converts a tile through a slot with a scale and writes it to memory, optionally adding to it and capturing a maximum. -/
  | drain (f : SFields)
  /-- R334. Issues a copy job, plain or converting, from a pane descriptor to the shutter. -/
  | copy (f : SFields)
  /-- R335. Issues a job that gathers table elements by an index list. -/
  | gather (f : SFields)
  /-- R335. Issues a job that scatters elements into a table by an index list. -/
  | scatter (f : SFields)
  /-- R346. Initialises a latch's count, sectors and phase and clears its registrations. -/
  | linit (f : SFields)
  /-- R347. Arrives on a latch with a count and reports acceptance in a predicate. -/
  | larr (f : SFields)
  /-- R348. Registers the logical rod as a waiter of a latch. -/
  | lreg (f : SFields)
  /-- R348. Withdraws the logical rod's registration from a latch. -/
  | lregD (f : SFields)
  /-- R349. Blocks the rod until a latch leaves phase q, then delivers pending faults and flags and returns the phase. -/
  | lwait (f : SFields)
  /-- R347. Adds expected sectors to a latch and reports acceptance in a predicate. -/
  | lexp (f : SFields)
  /-- R350. Delivers pending faults and flags, arrives on a latch and waits for the phase to complete. -/
  | bar (f : SFields)
  /-- R353. Removes the hardware rod from rotation for n rotations. -/
  | pause (f : SFields)
  /-- R150. Moves the active lanes to a target word index and priority. -/
  | bra (f : SFields)
  /-- R150. Writes a return link into v1 and moves the active lanes to a target. -/
  | call (f : SFields)
  /-- R151. Calls through checked function-table entries per lane. -/
  | callt (f : SFields)
  /-- R152. Moves each active lane to the index and priority held in its return link. -/
  | ret (f : SFields)
  /-- R153. Ends the active lanes' threads and removes them from the frontier. -/
  | exit (f : SFields)
  /-- R154. Releases and appends node records to the bay's device queue, reporting per lane in a predicate. -/
  | launch (f : SFields)
  /-- R155. Raises the cause given in its immediate. -/
  | trap (f : SFields)
  /-- R135. Has no effect. -/
  | nop (f : SFields)
  /-- R128. Issues two vector half-operations in one turn, reading every source before either write. -/
  | pairWord (h0 h1 : Half)
  /-- R131. Transom that supplies a 64-bit literal as source B of the next word. -/
  | lit (rsv : BitVec 28) (payload : BitVec 64)
  /-- R131. Transom that supplies a branch target and priority to the next BRA or CALL. -/
  | lbr (rsv : BitVec 28) (payload : BitVec 64)
  /-- R131. Transom that overrides the rounding, saturation and slot controls of the next word. -/
  | ovr (rsv : BitVec 28) (payload : BitVec 64)
  /-- R386. Returns from the handler to TPC, or past it under .SK, restoring the held frontier and EXM. -/
  | tret (f : SFields)
  /-- R397. Reads a privileged register into a scalar. -/
  | movpRead (f : SFields)
  /-- R397. Writes a privileged register from a scalar. -/
  | movpWrite (f : SFields)
  /-- R398. Discards every cached translation of a page that holds the given address. -/
  | tlbi (f : SFields)
  /-- R398. Discards every cached translation of the target. -/
  | tlbiAll (f : SFields)
  /-- R398. Sets a bay's, or the steward core's, translation root and invalidates its translations. -/
  | ptroot (f : SFields)
  /-- R399. Submits a format image to the loader for checking, logging and storing. -/
  | imgsub (f : SFields)
  /-- R399. Withdraws an image from the bay's store. -/
  | imgwd (f : SFields)
  /-- R401. Ends every context of a bay without a save. -/
  | bayrst (f : SFields)
  /-- R400. Reads a configuration block and configures a bay after the checks of R95. -/
  | baycfg (f : SFields)
  /-- R400. Moves a bay from CONFIGURED to RESERVED, starting its clocks and turns, opening its queues, and importing if IMPORT is set. -/
  | baystRsv (f : SFields)
  /-- R400. Moves an idle bay from RESERVED to CONFIGURED and makes its lines DEAD. -/
  | baystUnr (f : SFields)
  /-- R400. Moves a bay from CONFIGURED to FREE and frees all its resources. -/
  | baystRel (f : SFields)
  /-- R400. Writes a slice group's turn table. -/
  | turnw (f : SFields)
  /-- R402. Writes back and drops the lines of a key identifier, then loads a fresh key. -/
  | keyset (f : SFields)
  /-- R402. Writes an ownership entry to a range of granules. -/
  | ownset (f : SFields)
  /-- R402. Enrolls an ML-DSA public key for a bay. -/
  | keyenr (f : SFields)
  /-- R402. Withdraws an enrolled key selected by its digest head. -/
  | keyenrWd (f : SFields)
  /-- R403. Sets a stack's read-to-write lane ratio. -/
  | ratio (f : SFields)
  /-- R403. Records a core pair for retirement at the next package reset. -/
  | retirePair (f : SFields)
  /-- R403. Records an L2 slice for retirement at the next package reset. -/
  | retireSlice (f : SFields)
  /-- R403. Records a pseudo-channel for retirement at the next package reset. -/
  | retirePch (f : SFields)
  /-- R376. Returns a report of an HBM line's sill. -/
  | sillrd (f : SFields)
  /-- R403. Returns the ownership entry of the granule that holds an address. -/
  | sillrdOwn (f : SFields)
  /-- R377. Writes back a quarantined set's dirty ways, invalidates the set and ends its quarantine. -/
  | sillclr (f : SFields)
  /-- R403. Returns a word of a machine-check log entry, or the log header. -/
  | mcrd (f : SFields)
  /-- R399. Returns a word of an attestation log entry. -/
  | attrd (f : SFields)
  /-- R401. Stops a bay's placement and saves all its resident frames. -/
  | preempt (f : SFields)
  /-- R401. Restarts a bay's placement, placing its saved frames first. -/
  | preemptGo (f : SFields)
  /-- R399. Returns an entry of the bay's refusal log. -/
  | logrd (f : SFields)
  /-- R27. On power-on or PERST#, regenerates keys, clears bays and halt, and starts bring-up from stage 0x00. -/
  | coldReset
  /-- R27. On FLR of the physical function, ends every bay without a save and restarts bring-up from stage 0x01, unless halted. -/
  | packageReset
  /-- R417. On FLR of a virtual function, ends every context of its bound bay and its launch state. -/
  | vfReset (fn : Nat)
  /-- R28. Stage 0x00 completes: the root of trust has started from ROM and bring-up moves to the image check. -/
  | rootOfTrustStart
  /-- R25. Stage 0x01: the stored image is checked, and accepted or sent to recovery. -/
  | imageCheck
  /-- R26. A write of 1 to IMGSET in recovery checks the window image and either stays in recovery or writes flash and continues at stage 0x02. -/
  | bootstImgset (v : BitVec 64)
  /-- R28. Stage 0x02 completes: the management processor has started and the physical function answers configuration requests. -/
  | managementStart
  /-- R28. Stage 0x03 completes: HBM, links and CXL ports are trained. -/
  | hbmTraining (failed routes : List Nat)
  /-- R28. Stage 0x04 completes: HBM in service has been written at ratio 1:7 and the stacks are returned to 4:4. -/
  | hbmScrub
  /-- R28. Stage 0x05 completes: the remap table is built and the vendor images are placed in the strips. -/
  | remapBuild
  /-- R28. Stage 0x06 completes: the steward bring-up program has run and the part becomes ready. -/
  | stewardBringup
  /-- R23. A die reaches 110 °C: the clocks stop, HALT is set, a 0x3F8 record is written and every bay is abandoned. -/
  | thermalTrip
  /-- R76. A write of QTAIL posts records, and faults the queue when more records are posted than the ring holds. -/
  | queueTailWrite (bay queue : Nat) (v : BitVec 64)
  /-- R76. A write of QCTL enables or disables the queue, and faults it when EN is set with an invalid LOG2N. -/
  | queueControlWrite (bay queue : Nat) (v : BitVec 64)
  /-- R77. The bay's pipeline takes the next pending record in rotation, checks it, and accepts or refuses it. -/
  | nodeAccept (bay : Nat) (readError : Bool)
  /-- R87. The grid at the head of the ready pool enters dispatching and takes a dispatch number. -/
  | gridDispatch (bay : Nat)
  /-- R87. A copy node at the head of the pool is handed to the copy unit. -/
  | copyNodeStart (bay : Nat)
  /-- R80. The copy unit finishes writing a copy node, or stops it at a fault. -/
  | copyNodeComplete (node : Nat)
  /-- R87. A node's ageing period in the pool expires and it moves up one class. -/
  | poolAgeing (node : Nat)
  /-- R86. A draining node whose jobs have completed retires: it releases, decrements its successors, and writes its completion pair and interrupt. -/
  | nodeRetire (node : Nat)
  /-- R112. The dispatcher places the next frame indivisibly on the first core from the cursor on which it fits. -/
  | framePlace (bay : Nat)
  /-- R72. A customer image position finishes reconfiguring, 40 µs after it started, and fences. -/
  | imagePositionReconfig (core pos : Nat)
  /-- R153. A frame whose threads have all exited and whose pane and board jobs have completed exits and frees its allocations. -/
  | frameExit (frame : Nat)
  /-- R104. A slice-group turn expires: the outgoing bay is pre-empted, its image positions are freed and the clocks are set for the incoming bay. -/
  | turnEnd (group : Nat)
  /-- R167. A paused rod's count of rotations expires and the rod takes its next turn. -/
  | pauseEnd (frame unit : Nat)
  /-- R144. A missing instruction line arrives from its home slice and becomes present. -/
  | icacheFill (core line : Nat)
  /-- R165. A long-latency producer completes, writing its active lanes and marking its destination full, or faulting and restoring it. -/
  | longLatencyComplete (producer : Nat)
  /-- R382. A fault that a remote home or a failed path returns is taken at the rod's next selected word. -/
  | lateFaultTrap (frame unit : Nat)
  /-- R259. A resident frame's hidden count reaches 1024 core cycles and TICKS rises by one. -/
  | rclkTick (frame : Nat)
  /-- R260. A bay reuse clock advances by one every 1024 cycles while its bay runs. -/
  | brcTick (bay : Nat)
  /-- R265. The BRC reaches a TIMED line's STAMP and the line becomes DUE. -/
  | lineClaimDue (line : Nat)
  /-- R265. A DUE line passes its grace period and becomes LAPSED, counting BROKEN if declared. -/
  | lineClaimLapse (line : Nat)
  /-- R269. A bay's epoch ends, CRED is adjusted from KEPT and BROKEN, and both are cleared. -/
  | credEpochEnd (bay : Nat)
  /-- R255. 4 µs pass without a congestion mark and the core's throttle level falls by one. -/
  | throttleDecay (core : Nat)
  /-- R252. A read request reaches its home slice, which applies the claim, extends the lease and returns data and stamps. -/
  | homeRead (op piece : Nat)
  /-- R252. A write or atomic reaches its home slice and is applied past any outstanding lease, returning the new WTS. -/
  | homeWrite (op piece : Nat)
  /-- R252. A line arrives from HBM or the tier into its home slice, evicting a victim and taking fresh stamps. -/
  | homeRefill (line : Nat) (congested sillError : Bool)
  /-- R284. The ticket sequencer grants an SC word its ticket in the bay's or channel's rotation. -/
  | ticketGrant (op : Nat)
  /-- R366. A remote read arrives at the home package and is served by the sill transitions. -/
  | remoteReadRequest (pkg line req key k ch : Nat) (cts : ReqStamp)
  /-- R366. A remote write miss, upgrade or atomic arrives at the home and obtains ownership. -/
  | ownershipRequest (pkg line req key k ch : Nat) (cts : ReqStamp)
  /-- R362. A forward from the home reaches the owning package, which sends the line to the requester. -/
  | forward (home line requester : Nat) (keep : Bool) (ch : Nat)
  /-- R362. A recall reaches the owning package, which returns the line and keeps or drops its copy. -/
  | recall (home line : Nat) (keep : Bool) (ch : Nat)
  /-- R362. An invalidation reaches a package, which drops its S copy and acknowledges. -/
  | invalidation (home line ch : Nat)
  /-- R366. An acknowledgement reaches the home, which completes the transaction once all have arrived. -/
  | invalidationAck (pkg line : Nat) (dirty : Option (BitVec 1024 × Bool))
  /-- R366. A write-back or clean eviction notice from the owner reaches the home and is applied. -/
  | writeBack (pkg line : Nat) (dirty : Option (BitVec 1024 × Bool))
  /-- R360. Data, an acknowledgement or a failure cause from the home reaches the requester. -/
  | remoteResponse (op piece cause perm : Nat) (bytes : BitVec 1024) (poison : Bool) (wts rts : Nat)
  /-- R370. No route remains to a package, or a request to it has waited 1 ms: waiting accesses fault and a record is written. -/
  | pathFailure (pkg : Nat)
  /-- R358. A write of DOMCTL sets the package number, sequencer and mode, or is refused with ERR. -/
  | domctlWrite (v : BitVec 64)
  /-- R358. A change of MODE finishes its write-backs and HBM rewrite and BUSY clears. -/
  | modeChangeComplete
  /-- R430. A write of VFBIND binds or unbinds a virtual function, or is ignored. -/
  | vfbindWrite (fn : Nat) (v : BitVec 64)
  /-- R404. A write to a bay's save control block is taken, or refused with ERR 0x05 or 0x01. -/
  | saveControlWrite (bay offset : Nat) (v : BitVec 64)
  /-- R421. A write of CLR sets every counter, and every held event, to zero. -/
  | counterClear (bay : Nat)
  /-- R421. A write of FREEZE holds the counters, or releases them and adds the held events. -/
  | counterFreeze (bay : Nat) (v : Bool)
  /-- R7. A write to a register without a row of its own sets its RW fields and clears its W1C bits. -/
  | registerWrite (space offset : Nat) (v : BitVec 128)
  /-- R311. The matrix engine starts the next queued operation once its tiles and operand lines allow. -/
  | matrixOpStart (core : Nat)
  /-- R305. A matrix operation completes, writes its tile, merges its flags and arrives on its latch. -/
  | matrixOpComplete (core : Nat)
  /-- R315. A tile fetch's line is answered at its home and pinned when allocated. -/
  | fetchLineArrival (core : Nat)
  /-- R329. A shutter job starts once every overlapping earlier job is complete and a copy engine is free. -/
  | jobStart (job : Nat)
  /-- R334. A job's last write is performed and its flags and counts are merged. -/
  | jobComplete (job : Nat)
  /-- R337. A job tries its arrival on its latch each cycle until it is accepted. -/
  | latchArrival (job : Nat)
  /-- R349. A change to a waited latch is judged, and a wait whose phase has been left returns. -/
  | lwaitWake (frame unit : Nat)
  /-- R350. A BAR whose arrival was refused retries it each core cycle. -/
  | barRetry (frame unit : Nat)
  /-- R406. A unit whose single frontier entry stands at a listed point halts before issuing it. -/
  | unitHalt (frame unit : Nat)
  /-- R408. A frame's timer reaches PTO and every unhalted unit stops for a full save. -/
  | forcedSave (frame : Nat)
  /-- R411. A quiescent frame's image is written and published by raising COUNT, or the frame is terminated with 0x3E0. -/
  | imagePublish (frame : Nat)
  /-- R412. A saved frame's image is checked and restored on its bay core, and the frame restarts. -/
  | frameResume (bay : Nat)
  /-- R399. The format loader finishes checking, logging and storing a submitted image and writes the status. -/
  | imageLoadComplete (load : Nat)
  /-- R256. An ECC error is detected: it is corrected and counted, or poison is created and a record written. -/
  | memoryError (kind place : Nat) (bits : BitVec 32)
  /-- R136. A word whose class and opcode name no instruction (opcode 0x00, an undefined or reserved opcode, an undefined half opcode or a reserved transom kind) is selected and traps with 0x001, 0x002, 0x009 or 0x006. -/
  | undefinedEncoding (w : InstrWord)
  /-- R156. A rod selects an entry whose PC has fallen through to CODEWORDS, or whose word fetch faulted, and traps at that PC with 0x080 or the fetch's translation cause without issuing any word. -/
  | fetchFault (frame unit : Nat)
  /-- R252. A core's L1 drops a leased copy of its own accord, so that the next read renews it at the home slice. -/
  | l1CopyDrop (core line : Nat)
  deriving DecidableEq, Repr

end Sys2Proof
end

