-- ==== Sys2Proof/Machine/Forms.lean ====
section
/-! DEFINITION. What every word form accepts: the data behind checks 4 to 7, 9, 11 and 12 of R136. -/

namespace Sys2Proof

/-- mod[hi:lo] by its low bit and width. -/
def SFields.m (f : SFields) (lo w : Nat) : Nat := Machine.field f.mod.toNat lo w
/-- imm bits by low bit and width. -/
def SFields.i (f : SFields) (lo w : Nat) : Nat := Machine.field f.imm.toNat lo w
/-- imm sign-extended to 64 bits. -/
def SFields.simm (f : SFields) : BitVec 64 := f.imm.signExtend 64
/-- imm zero-extended to 64 bits. -/
def SFields.zimm (f : SFields) : BitVec 64 := f.imm.setWidth 64
/-- mod[5:4]: the element form (R192). -/
def SFields.ew (f : SFields) : Nat := f.m 4 2
/-- The .D element form. -/
def SFields.isD (f : SFields) : Bool := f.ew == 3
/-- W of PACK and UNPACK (R229). -/
def SFields.packW (f : SFields) : Nat := f.i 0 6
/-- N of PACK and UNPACK (R229). -/
def SFields.packN (f : SFields) : Nat := f.i 8 4 + 1

end Sys2Proof

namespace Sys2Proof.Machine

/-- One use of registers by an operand position: `count` registers from `num` on. -/
structure RegUse where
  /-- 1 for source A, 2 for source B, 3 for the destination, 4 for a predicate or scalar named in mod or imm. -/
  pos : Nat
  cls : OpClass
  num : Nat
  count : Nat := 1
  /-- The first number must be a multiple of this (R120, R274). -/
  align : Nat := 1
  /-- A 64-bit vector operand: an even-odd pair (R120). -/
  pair : Bool := false
  rd : Bool := false
  wr : Bool := false
  /-- Empty behaviour 1: a read of the empty register traps (R122). -/
  nb : Bool := false
  deriving DecidableEq, Repr

/-- The first and the last register number of a use. -/
def RegUse.last (u : RegUse) : Nat := u.num + (if u.pair then 2 else u.count) - 1

/-- The register numbers of a use. -/
def RegUse.nums (u : RegUse) : List Nat := (List.range (u.last + 1 - u.num)).map (· + u.num)

/-- What a word form accepts and names. -/
structure Form where
  /-- Check 4 for a context level: no reserved bit, unused field or undefined modifier bit is set. -/
  ok4 : Nat → SFields → Bool
  /-- The word takes the rounding control in mod[2:0] (check 5). -/
  rounds : SFields → Bool := fun _ => false
  /-- Check 6: every operand class is accepted; the flag tells whether a LIT is pending. -/
  ok6 : Bool → SFields → Bool
  /-- Feature bits needed besides bit 4 for SR (R137). -/
  feats : List Nat := []
  /-- Feature bits that the fields of the word need (R413: bit 9 for SCOPE .SYS). -/
  featsOf : SFields → List Nat := fun _ => []
  /-- The lowest level that may execute the word (R134): 0 frame, 1 bay supervisor, 2 steward. -/
  level : SFields → Nat := fun _ => 0
  /-- The word can take a LIT (R131). -/
  takesLit : SFields → Bool := fun f => f.bc == .imm
  /-- The word can take an LBR (R131). -/
  takesLbr : Bool := false
  takesRm : SFields → Bool := fun _ => false
  takesSat : SFields → Bool := fun _ => false
  takesFa : Bool := false
  takesFd : Bool := false
  /-- A word of rows 0x4 to 0x6 for which R217 and R237 name cause 0x006 for a slot override it does not take. -/
  fpGroup : Bool := false
  /-- The registers named (checks 11 and 12, and R166). -/
  regs : SFields → List RegUse
  /-- Registers judged by R166 that check 11 does not see, for the frame's width (AMOV, R318). -/
  moreRegs : Nat → SFields → List RegUse := fun _ _ => []
  /-- Check 12 beyond predicates named where only p0 to p15 stand. -/
  ok12 : SFields → Bool := fun _ => true
  /-- The word may name special registers (MOVS). -/
  special : Bool := false
  /-- A scalar or uniform word (R147). -/
  uniform : SFields → Bool := fun f => f.dc == .scl

/-- The reserved hint bits [25:22] are zero (R125). -/
def hintsOk (f : SFields) : Bool := f.hints.toNat % 16 == 0

/-- Position D holds zero. -/
def noD (f : SFields) : Bool := f.dc == .vec && f.dst == 0

/-- Position A holds zero. -/
def noA (f : SFields) : Bool := f.ac == .vec && f.a == 0 && !f.ae

/-- Position B holds zero. -/
def noB (f : SFields) : Bool := f.bc == .vec && f.b == 0 && !f.be

/-- The empty bit of A is set only where A has a full/empty bit (R122). -/
def emptyAOk (f : SFields) : Bool := !f.ae || f.ac == .vec || f.ac == .scl || (f.ac == .prd && decide (f.a.toNat < 16))

/-- The same for B; with the immediate, B's number is zero (R120). -/
def emptyBOk (f : SFields) : Bool :=
  (!f.be || f.bc == .vec || f.bc == .scl || (f.bc == .prd && decide (f.b.toNat < 16))) && (f.bc != .imm || f.b == 0)

/-- imm is zero unless it is source B (R123). -/
def immOnlyB (f : SFields) : Bool := f.bc == .imm || f.imm == 0

/-- Only the modifier bits of `mask` may be set (R124). -/
def modWithin (mask : BitVec 12) (f : SFields) : Bool := (f.mod &&& ~~~ mask) == 0

/-- A vector operand or a scalar one. -/
def vecOrScl (c : OpClass) : Bool := c == .vec || c == .scl

/-- Use of source A. -/
def useA (f : SFields) (pair : Bool := false) (count : Nat := 1) : RegUse :=
  { pos := 1, cls := f.ac, num := f.a.toNat, count := count, pair := pair && f.ac == .vec, rd := true, nb := f.ae }

/-- Use of source B; nothing when B is the immediate. -/
def useB (f : SFields) (pair : Bool := false) : List RegUse :=
  if f.bc == .imm then [] else
    [{ pos := 2, cls := f.bc, num := f.b.toNat, pair := pair && f.bc == .vec, rd := true, nb := f.be }]

/-- Use of the destination, read too when it is an addend. -/
def useD (f : SFields) (pair : Bool := false) (addend : Bool := false) (count : Nat := 1) : RegUse :=
  { pos := 3, cls := f.dc, num := f.dst.toNat, count := count, pair := pair && f.dc == .vec, rd := addend, wr := true }

/-- Use of a predicate named in mod. -/
def useP (n : Nat) (rd wr : Bool) : RegUse := { pos := 4, cls := .prd, num := n, rd := rd, wr := wr }

/-! ## Integer words (chapter 10) -/

/-- A word of R194: accepted element forms, which positions it reads, and whether dst is an addend. -/
def intForm (ews : List Nat) (a b addend : Bool) (extra : BitVec 12 := 0) (extraOk : SFields → Bool := fun _ => true) : Form where
  ok4 := fun _ f => hintsOk f && (if a then emptyAOk f else noA f) && (if b then emptyBOk f else noB f) && immOnlyB f &&
    modWithin (0x030 ||| extra) f && memb f.ew ews && (f.dc != .scl || f.ew == 0) && extraOk f
  ok6 := fun _ f => vecOrScl f.dc && (!a || vecOrScl f.ac) && (!b || f.bc != .prd) &&
    (f.dc != .scl || ((!a || f.ac == .scl) && (!b || f.bc == .scl || f.bc == .imm)))
  regs := fun f => (if a then [useA f f.isD] else []) ++ (if b then useB f f.isD else []) ++ [useD f f.isD addend]

/-- All four element forms. -/
def allEw : List Nat := [0, 1, 2, 3]
/-- The 32-bit and the .D form. -/
def wideEw : List Nat := [0, 3]

/-- Two-source words of R195 and R200. -/
def formInt2 : Form := intForm allEw true true false
/-- One-source words of R195, R200 and R203. -/
def formInt1 : Form := intForm allEw true false false
/-- IMAD (R196). -/
def formImad : Form := intForm allEw true true true
/-- Division words (R197). -/
def formIdiv : Form := { intForm wideEw true true false with feats := [2] }
/-- FSHL, FSHR and BFI (R201, R202). -/
def formInt3Wide : Form := intForm wideEw true true true
/-- BFX and BFXS (R202). -/
def formInt2Wide : Form := intForm wideEw true true false
/-- SEXT and ZEXT (R204): .W only with .D; under .W source A is a single register. -/
def formExt : Form :=
  { intForm wideEw true true false 0x040 (fun f => f.m 6 1 == 0 || f.isD) with
    regs := fun f => [useA f (f.isD && f.m 6 1 == 0)] ++ useB f f.isD ++ [useD f f.isD] }
/-- IADDC and ISUBB (R198). -/
def formCarry : Form :=
  { intForm wideEw true true false 0x3C0 (fun f => f.m 6 4 != 0) with
    ok6 := fun _ f => f.dc == .vec && vecOrScl f.ac && f.bc != .prd
    regs := fun f => [useA f f.isD] ++ useB f f.isD ++ [useD f f.isD, useP (f.m 6 4) true true] }
/-- IDP4 and IDP2 (R199).
Marked: DEDUCED, not safe, log 106. -/
def formDot : Form :=
  { intForm [0] true true true 0x0C8 with ok6 := fun _ f => f.dc == .vec && vecOrScl f.ac && f.bc != .prd }
/-- ICMP and UCMP (R205). -/
def formCmp : Form :=
  { intForm allEw true true false 0x3C0 (fun f => decide (f.m 6 3 < 6) &&
      (f.m 9 1 == 0 || (f.dc == .prd && (f.ew == 1 || f.ew == 2)))) with
    ok6 := fun _ f => f.dc != .imm && vecOrScl f.ac && f.bc != .prd &&
      (f.dc != .scl || (f.ac == .scl && (f.bc == .scl || f.bc == .imm))) }
/-- PLOP (R206). -/
def formPlop : Form where
  ok4 := fun _ f => hintsOk f && emptyAOk f && emptyBOk f && f.imm == 0 && modWithin 0x00F f
  ok6 := fun _ f => f.dc == .prd && f.ac == .prd && f.bc == .prd
  regs := fun f => [useA f] ++ useB f ++ [useD f]
/-- PSET (R207). -/
def formPset : Form where
  ok4 := fun _ f => hintsOk f && emptyAOk f && noB f && f.imm == 0 && modWithin 0 f
  ok6 := fun _ f => f.dc == .prd && vecOrScl f.ac
  regs := fun f => [useA f, useD f]
/-- PGET (R207). -/
def formPget : Form where
  ok4 := fun _ f => hintsOk f && emptyAOk f && noB f && f.imm == 0 && modWithin 0 f
  ok6 := fun _ f => vecOrScl f.dc && f.ac == .prd
  regs := fun f => [useA f, useD f]
  uniform := fun _ => false
/-- MOV (R208). -/
def formMov : Form := intForm wideEw false true false
/-- SEL (R209). -/
def formSel : Form :=
  { intForm wideEw true true false 0x3C0 with
    regs := fun f => [useA f f.isD] ++ useB f f.isD ++ [useD f f.isD, useP (f.m 6 4) true false] }
/-- LEA (R210).
Marked: DEDUCED, not safe, log 103. -/
def formLea : Form where
  ok4 := fun _ f => hintsOk f && emptyAOk f && emptyBOk f && modWithin 0x3C0 f && (f.m 9 1 == 0 || f.bc == .vec)
  ok6 := fun _ f => vecOrScl f.dc && vecOrScl f.ac && f.bc != .prd &&
    (f.dc != .scl || (f.ac == .scl && (f.bc == .scl || f.bc == .imm)))
  regs := fun f => [useA f true] ++ useB f ++ [useD f true]
/-- MOVS reading a special register (R211).
Marked: DEDUCED, not safe, log 33. -/
def formMovsRead : Form where
  ok4 := fun _ f => hintsOk f && emptyAOk f && noB f && f.imm == 0 && modWithin 0x030 f && memb f.ew wideEw &&
    (f.dc != .scl || f.ew == 0)
  ok6 := fun _ f => vecOrScl f.dc && f.ac == .prd && decide (16 ≤ f.a.toNat)
  regs := fun f => [useA f, useD f f.isD]
  special := true
  ok12 := fun f => !(f.dc == .scl && f.a.toNat == 0x10)
/-- MOVS writing a special register (R212).
Marked: DEDUCED, not safe, log 33. -/
def formMovsWrite : Form where
  ok4 := fun _ f => hintsOk f && noA f && emptyBOk f && immOnlyB f && modWithin 0 f
  ok6 := fun _ f => f.dc == .prd && decide (16 ≤ f.dst.toNat) && (f.bc == .scl || f.bc == .imm)
  regs := fun f => useB f ++ [useD f]
  special := true
  ok12 := fun f => memb f.dst.toNat [0x1A, 0x1B, 0x1D, 0x1E, 0x1F]
  uniform := fun _ => true
/-- CAPQ (R213). -/
def formCapq : Form where
  ok4 := fun _ f => hintsOk f && noA f && emptyBOk f && immOnlyB f && modWithin 0 f
  ok6 := fun _ f => f.dc == .scl && (f.bc == .scl || f.bc == .imm)
  regs := fun f => useB f ++ [useD f]
/-- FMTQ (R214). -/
def formFmtq : Form :=
  { formCapq with ok4 := fun _ f => hintsOk f && noA f && emptyBOk f && immOnlyB f && modWithin 0x0C0 f }

/-! ## FP32 and conversion words (chapter 11) -/

/-- A word of R217: does it round, does it read B, and is dst an addend. -/
def fpForm (rnd b addend : Bool) (extra : BitVec 12 := 0) : Form where
  ok4 := fun _ f => hintsOk f && emptyAOk f && (if b then emptyBOk f else noB f) && immOnlyB f &&
    modWithin ((if rnd then 0x00F else 0) ||| extra) f
  rounds := fun _ => rnd
  ok6 := fun _ f => vecOrScl f.dc && vecOrScl f.ac && (!b || f.bc != .prd) &&
    (f.dc != .scl || (f.ac == .scl && (!b || f.bc == .scl || f.bc == .imm)))
  takesRm := fun _ => rnd
  takesSat := fun _ => rnd
  fpGroup := true
  regs := fun f => [useA f] ++ (if b then useB f else []) ++ [useD f false addend]

/-- FADD, FSUB, FMUL and FLDEXP (R218, R220). -/
def formFp2 : Form := fpForm true true false
/-- FMA, FMS and FNMA (R218). -/
def formFma : Form := fpForm true true true
/-- FMIN, FMAX and FSGN (R221). -/
def formFp2Exact : Form := fpForm false true false
/-- FABS and FNEG (R221). -/
def formFp1Exact : Form := fpForm false false false
/-- FDIV (R218). -/
def formFdiv : Form := { fpForm true true false with feats := [2] }
/-- FSQRT, FRND and the words of R219. -/
def formFp1 : Form := fpForm true false false
/-- FCMP (R222). -/
def formFcmp : Form :=
  { fpForm false true false 0x1C0 with
    ok6 := fun _ f => f.dc != .imm && vecOrScl f.ac && f.bc != .prd &&
      (f.dc != .scl || (f.ac == .scl && (f.bc == .scl || f.bc == .imm))) }
/-- FCLASS (R223). -/
def formFclass : Form where
  ok4 := fun _ f => hintsOk f && emptyAOk f && modWithin 0 f &&
    (if f.dc == .prd then emptyBOk f && decide (f.i 9 13 = 0) && immOnlyB f else noB f && f.imm == 0)
  ok6 := fun _ f => vecOrScl f.ac && f.dc != .imm && (if f.dc == .prd then f.bc == .imm else true) &&
    (f.dc != .scl || f.ac == .scl)
  fpGroup := true
  regs := fun f => [useA f, useD f]
/-- CVT (R224). -/
def formCvt : Form where
  ok4 := fun _ f => hintsOk f && emptyAOk f && noB f && decide (f.i 0 13 = 0) && (f.i 21 1 == 1 || f.i 13 8 == 0)
  rounds := fun _ => true
  ok6 := fun _ f => vecOrScl f.dc && vecOrScl f.ac && (f.dc != .scl || f.ac == .scl)
  takesRm := fun _ => true
  takesSat := fun _ => true
  takesFa := true
  takesFd := true
  fpGroup := true
  regs := fun f => [useA f, useD f] ++
    (if f.i 21 1 == 1 then [{ pos := 4, cls := .scl, num := f.i 13 8, rd := true, wr := true }] else [])
/-- CVTS (R224): bc 0b11 only as the consumer of a LIT. -/
def formCvts : Form :=
  { formCvt with
    ok4 := fun _ f => hintsOk f && emptyAOk f && emptyBOk f && decide (f.i 0 13 = 0) && (f.i 21 1 == 1 || f.i 13 8 == 0)
    ok6 := fun lit f => vecOrScl f.dc && vecOrScl f.ac && f.bc != .prd && (f.bc != .imm || lit) &&
      (f.dc != .scl || (f.ac == .scl && f.bc != .vec))
    regs := fun f => [useA f] ++ useB f ++ [useD f] ++
      (if f.i 21 1 == 1 then [{ pos := 4, cls := .scl, num := f.i 13 8, rd := true, wr := true }] else []) }
/-- PACK and UNPACK (R229). -/
def packForm (un : Bool) : Form where
  ok4 := fun _ f => hintsOk f && emptyAOk f && noB f && modWithin (if un then 0x040 else 0) f && f.i 6 2 == 0 && f.i 12 10 == 0 &&
    decide (2 ≤ f.packW) && decide (f.packW ≤ 32) && decide (f.packN * f.packW ≤ 32)
  ok6 := fun _ f => f.dc == .vec && f.ac == .vec
  fpGroup := true
  regs := fun f => if un then [useA f, useD f false false f.packN] else [useA f false f.packN, useD f]
/-- SCALEB (R227). -/
def formScaleb : Form := { fpForm false true false 0x040 with fpGroup := true }

/-! ## Cross-lane words (chapter 11) -/

/-- SHFL to SHFLX (R231). -/
def formShfl : Form where
  ok4 := fun _ f => hintsOk f && emptyAOk f && emptyBOk f && immOnlyB f && modWithin 0x7F0 f && memb f.ew wideEw
  ok6 := fun _ f => f.dc == .vec && f.ac == .vec && f.bc != .prd
  fpGroup := true
  regs := fun f => [useA f f.isD] ++ useB f ++ [useD f f.isD, useP (f.m 6 4) false true]
  uniform := fun _ => false
/-- BCST (R232). -/
def formBcst : Form where
  ok4 := fun _ f => hintsOk f && emptyAOk f && emptyBOk f && immOnlyB f && modWithin 0x3F0 f && memb f.ew wideEw &&
    (f.dc != .scl || f.m 6 4 == 0)
  ok6 := fun _ f => vecOrScl f.dc && f.ac == .vec && (f.bc == .scl || f.bc == .imm)
  fpGroup := true
  regs := fun f => [useA f f.isD] ++ useB f ++ [useD f f.isD, useP (f.m 6 4) false true]
  uniform := fun _ => false
/-- VOTE (R233). -/
def formVote : Form where
  ok4 := fun _ f => hintsOk f && emptyAOk f && noB f && f.imm == 0 && modWithin 0x0C0 f && !(f.dc == .prd && f.m 6 2 == 3)
  ok6 := fun _ f => (f.dc == .prd || f.dc == .scl) && f.ac == .prd
  fpGroup := true
  regs := fun f => [useA f, useD f]
  uniform := fun _ => false
/-- ELECT (R234). -/
def formElect : Form where
  ok4 := fun _ f => hintsOk f && noA f && noB f && f.imm == 0 && modWithin 0 f
  ok6 := fun _ f => f.dc == .prd || f.dc == .scl
  fpGroup := true
  regs := fun f => [useD f]
  uniform := fun _ => false
/-- PSCAN (R235). -/
def formPscan : Form where
  ok4 := fun _ f => hintsOk f && emptyAOk f && noB f && f.imm == 0 && modWithin 0x3C0 f
  ok6 := fun _ f => f.dc == .vec && f.ac == .vec
  fpGroup := true
  regs := fun f => [useA f, useD f]
  uniform := fun _ => false
/-- LRED (R236): op FADD is 5. -/
def formLred : Form where
  ok4 := fun _ f => hintsOk f && emptyAOk f && noB f && f.imm == 0 && modWithin 0x1C7 f && (f.m 6 3 == 5 || f.m 0 3 == 0)
  rounds := fun f => f.m 6 3 == 5
  ok6 := fun _ f => vecOrScl f.dc && f.ac == .vec
  takesRm := fun f => f.m 6 3 == 5
  fpGroup := true
  regs := fun f => [useA f, useD f]
  uniform := fun _ => false

end Sys2Proof.Machine
end

