-- ==== Sys2Proof/Machine/FormsMem.lean ====
section
/-! DEFINITION. The forms of the memory, matrix, job, latch, control and system words (chapters 7, 14, 16 to 18 and 20). -/

namespace Sys2Proof

/-- SPACE of a row-0x8 word (R272): 0 global, 1 pane, 2 per-thread. -/
def SFields.space (f : SFields) : Nat := f.m 0 2
/-- SIZE of LD and ST (R272). -/
def SFields.size (f : SFields) : Nat := f.m 2 3
/-- The distance code k in mod[11:7] (R124, R272). -/
def SFields.dist (f : SFields) : Nat := f.m 7 5
/-- SCOPE (R272): 0 FRAME, 1 CLUSTER, 2 DEV, 3 SYS. -/
def SFields.scope (f : SFields) : Nat := f.i 20 2
/-- ORDER (R272): 0 RLX, 1 ACQ, 2 REL, 3 AR, 4 SC. -/
def SFields.order (f : SFields) : Nat := f.i 17 3
/-- OFF, the signed byte offset (R272). -/
def SFields.off (f : SFields) : BitVec 64 := (f.imm.setWidth 17).signExtend 64
/-- IZ (R272). -/
def SFields.iz (f : SFields) : Bool := f.m 6 1 == 1
/-- The number of bytes of a SIZE (R272). -/
def SFields.bytes (f : SFields) : Nat :=
  match f.size with
  | 0 => 1
  | 1 => 1
  | 2 => 2
  | 3 => 2
  | 4 => 4
  | 5 => 8
  | _ => 16
/-- SEL of a system word (R393). -/
def SFields.sel (f : SFields) : Bool := f.i 20 1 == 1
/-- The bay of the selector (R393). -/
def SFields.selBay (f : SFields) : Nat := f.i 16 4

end Sys2Proof

namespace Sys2Proof.Machine

/-! ## Row 0x8 (chapter 14) -/

/-- Order and scope limits shared by the row (R273). -/
def orderScopeOk (orders spaces : List Nat) (f : SFields) : Bool :=
  memb f.order orders && memb f.space spaces && (f.order != 4 || decide (2 ≤ f.scope)) &&
  (f.space != 1 || decide (f.scope ≤ 1))

/-- Base classes by space (R274). -/
def baseClassOk (f : SFields) : Bool := if f.space = 2 then f.ac == .scl else vecOrScl f.ac

/-- Use of the base: an even pair in the global space, one register in the pane (R274). -/
def useBase (f : SFields) : RegUse := { useA f (f.space == 0) with align := if f.space == 0 && f.ac == .vec then 2 else 1 }

/-- Data or destination registers of LD and ST (R274). -/
def useData (f : SFields) (rd wr : Bool) : RegUse :=
  let quad := f.size == 6 && f.dc == .vec
  { pos := 3, cls := f.dc, num := f.dst.toNat, count := if quad then 4 else 1, align := if quad then 4 else 1,
    pair := f.size == 5 && f.dc == .vec, rd := rd, wr := wr }

/-- IZ stands only with a vector index (R274). -/
def izOk (f : SFields) : Bool := !f.iz || f.bc != .scl

/-- Memory words of SCOPE .SYS need feature bit 9 (R413). -/
def sysFeature (f : SFields) : List Nat := if f.scope = 3 then [9] else []

/-- LD (R272 to R275, R278). -/
def formLd : Form where
  ok4 := fun _ f => hintsOk f && emptyAOk f && emptyBOk f && decide (f.size ≤ 6) && orderScopeOk [0, 1, 4] [0, 1, 2] f && izOk f
  ok6 := fun _ f => vecOrScl f.dc && (f.size != 6 || f.dc == .vec) && baseClassOk f && vecOrScl f.bc &&
    (f.dc != .scl || (f.ac == .scl && f.bc == .scl))
  featsOf := sysFeature
  takesLit := fun _ => false
  regs := fun f => [useBase f] ++ useB f ++ [useData f false true]
/-- ST (R272 to R275, R278). -/
def formSt : Form where
  ok4 := fun _ f => hintsOk f && emptyAOk f && emptyBOk f && decide (f.size ≤ 6) && f.size != 1 && f.size != 3 &&
    orderScopeOk [0, 2, 4] [0, 1, 2] f && izOk f
  ok6 := fun _ f => vecOrScl f.dc && (f.size != 6 || f.dc == .vec) && baseClassOk f && vecOrScl f.bc
  featsOf := sysFeature
  takesLit := fun _ => false
  regs := fun f => [useBase f] ++ useB f ++ [useData f true false]
  uniform := fun f => f.dc == .scl && f.ac == .scl && f.bc == .scl
/-- LDE (R279). -/
def formLde : Form where
  ok4 := fun _ f => hintsOk f && emptyAOk f && emptyBOk f && f.m 2 5 != 0 && orderScopeOk [0, 1] [0, 1] f
  ok6 := fun _ f => vecOrScl f.dc && vecOrScl f.ac && vecOrScl f.bc && (f.dc != .scl || (f.ac == .scl && f.bc == .scl))
  featsOf := sysFeature
  takesLit := fun _ => false
  regs := fun f => [useBase f] ++ useB f ++ [useD f]
/-- STE (R279). -/
def formSte : Form where
  ok4 := fun _ f => hintsOk f && emptyAOk f && emptyBOk f && f.m 2 5 != 0 && orderScopeOk [0, 2] [0, 1] f
  ok6 := fun _ f => vecOrScl f.dc && vecOrScl f.ac && vecOrScl f.bc
  featsOf := sysFeature
  takesLit := fun _ => false
  regs := fun f => [useBase f] ++ useB f ++ [{ useD f with rd := true, wr := false }]
  uniform := fun f => f.dc == .scl && f.ac == .scl && f.bc == .scl
/-- PF (R280). -/
def formPf : Form where
  ok4 := fun _ f => hintsOk f && noD f && emptyAOk f && emptyBOk f && modWithin 0xFC4 f && orderScopeOk [0] [0] f &&
    f.scope == 0 && izOk f
  ok6 := fun _ f => vecOrScl f.ac && vecOrScl f.bc
  takesLit := fun _ => false
  regs := fun f => [useBase f] ++ useB f
  uniform := fun f => f.ac == .scl && f.bc == .scl
/-- CCTL (R281): OP 0b00 IINV, OP 0b01 L1INV. -/
def formCctl : Form where
  ok4 := fun _ f => hintsOk f && noD f && emptyAOk f && emptyBOk f && modWithin 0x058 f && orderScopeOk [0] [0] f && izOk f &&
    (match f.m 3 2 with
      | 0 => decide (f.scope ≤ 2)
      | 1 => f.scope == 0
      | _ => false)
  ok6 := fun _ f => vecOrScl f.ac && vecOrScl f.bc
  takesLit := fun _ => false
  regs := fun f => [useBase f] ++ useB f
  uniform := fun f => f.ac == .scl && f.bc == .scl
/-- .B64 of an atomic (R272). -/
def atomWide (f : SFields) : Bool := f.m 2 1 == 1
/-- ATOM (R282). -/
def formAtom : Form where
  ok4 := fun _ f => hintsOk f && emptyAOk f && emptyBOk f && orderScopeOk [0, 1, 2, 3, 4] [0, 1] f && decide (f.m 3 4 ≤ 11) &&
    (!atomWide f || decide (f.m 3 4 ≤ 8))
  ok6 := fun _ f => vecOrScl f.dc && vecOrScl f.ac && vecOrScl f.bc && (f.dc != .scl || (f.ac == .scl && f.bc == .scl))
  featsOf := sysFeature
  takesLit := fun _ => false
  regs := fun f => [useBase f] ++ useB f (atomWide f) ++ [useD f (atomWide f)]
/-- ATOMC (R282): dst holds the compare value and is read as an addend. -/
def formAtomc : Form where
  ok4 := fun _ f => hintsOk f && emptyAOk f && emptyBOk f && orderScopeOk [0, 1, 2, 3, 4] [0, 1] f && f.m 3 4 == 0
  ok6 := fun _ f => vecOrScl f.dc && vecOrScl f.ac && vecOrScl f.bc && (f.dc != .scl || (f.ac == .scl && f.bc == .scl))
  featsOf := sysFeature
  takesLit := fun _ => false
  regs := fun f => [useBase f] ++ useB f (atomWide f) ++ [useD f (atomWide f) true]
/-- RED (R282). -/
def formRed : Form where
  ok4 := fun _ f => hintsOk f && noD f && emptyAOk f && emptyBOk f && orderScopeOk [0, 2] [0, 1] f && decide (f.m 3 4 ≤ 11) &&
    f.m 3 4 != 8 && (!atomWide f || decide (f.m 3 4 ≤ 8))
  ok6 := fun _ f => vecOrScl f.ac && vecOrScl f.bc
  featsOf := sysFeature
  takesLit := fun _ => false
  regs := fun f => [useBase f] ++ useB f (atomWide f)
  uniform := fun f => f.ac == .scl && f.bc == .scl
/-- Every hint bit is zero: R149's table lists no hint, NOP accepts only the guard fields (R135), and of FENCE every field
but the guard, SCOPE and ORDER is zero (R285), so KEEPA and KEEPB must be zero too.
Marked: DEDUCED, not safe, log 102. -/
def noHints (f : SFields) : Bool := f.hints == 0

/-- FENCE (R285).
Marked: DEDUCED, not safe, log 102. -/
def formFence : Form where
  ok4 := fun _ f => noHints f && noD f && noA f && noB f && modWithin 0 f && f.i 0 17 == 0 && memb f.order [1, 2, 3, 4] &&
    (f.order != 4 || decide (2 ≤ f.scope))
  ok6 := fun _ _ => true
  featsOf := sysFeature
  takesLit := fun _ => false
  regs := fun _ => []
  uniform := fun _ => true

/-! ## Row 0xA (R313) -/

/-- The scalar operands a matrix or job word names, and fixed zero fields. -/
def sclForm (d a b : Bool) (feats : List Nat) (mask : BitVec 12) (immOk : SFields → Bool) : Form where
  ok4 := fun _ f => hintsOk f && (if d then true else noD f) && (if a then emptyAOk f else noA f) &&
    (if b then emptyBOk f else noB f) && modWithin mask f && immOk f
  ok6 := fun _ f => (!d || f.dc == .scl) && (!a || f.ac == .scl) && (!b || f.bc == .scl)
  feats := feats
  takesLit := fun _ => false
  regs := fun f => (if a then [useA f] else []) ++ (if b then useB f else []) ++
    (if d then [{ useD f with rd := true, wr := false }] else [])
  uniform := fun _ => false

/-- MMA.
Marked: DESIGN CHOICE, not safe, log 116. -/
def formMma : Form := sclForm true true true [3] 0xFF0 (fun f => f.i 7 15 == 0)
/-- TFETCH. -/
def formTfetch : Form := sclForm false true true [3] 0xF80 (fun f => f.i 12 10 == 0 && f.i 2 6 == 0)
/-- SUMS.
Marked: DESIGN CHOICE, not safe, log 116. -/
def formSums : Form := sclForm true true true [3] 0xF10 (fun f => f.i 6 16 == 0)
/-- ACLR. -/
def formAclr : Form where
  ok4 := fun _ f => hintsOk f && noD f && noA f && emptyBOk f && modWithin 0x07F f && immOnlyB f
  ok6 := fun _ f => f.bc == .scl || f.bc == .imm
  feats := [3]
  regs := fun f => useB f
  uniform := fun _ => false
/-- ALD. -/
def formAld : Form := sclForm true true true [3] 0x800 (fun f => f.i 13 9 == 0 && f.i 6 2 == 0)
/-- AMOV: `tob` for .TOB. -/
def formAmov (tob : Bool) : Form where
  ok4 := fun _ f => hintsOk f && noB f && modWithin 0x040 f && f.i 6 16 == 0 &&
    (if tob then noD f && emptyAOk f else noA f)
  ok6 := fun _ f => if tob then f.ac == .vec else f.dc == .vec
  feats := [3]
  takesLit := fun _ => false
  regs := fun f => if tob then [useA f] else [useD f]
  moreRegs := fun width f => if tob then [useA f false (1024 / width)] else [useD f false false (1024 / width)]
  uniform := fun _ => false
/-- DRAIN.
Marked: DESIGN CHOICE, not safe, log 116. -/
def formDrain : Form :=
  { sclForm true true true [3] 0xBFF (fun f => f.i 6 2 == 0 && (f.i 21 1 == 1 || f.i 13 8 == 0)) with
    rounds := fun _ => true
    takesRm := fun _ => true
    takesSat := fun _ => true
    takesFd := true
    regs := fun f => [useA f] ++ useB f ++ [{ useD f with rd := true, wr := false }] ++
      (if f.i 21 1 == 1 then [{ pos := 4, cls := .scl, num := f.i 13 8, rd := true, wr := true }] else []) }

/-! ## Row 0xB (R332, R344) -/

/-- COPY, GATHER and SCATTER. -/
def formJob : Form := { sclForm false true false [6] 0xF80 (fun f => f.imm == 0) with uniform := fun _ => true }

/-- A latch word: destination class, whether B stands, whether imm has a role, and .D or .R in mod[6]. -/
def latchForm (dst : Option OpClass) (a b : Bool) (flag : Bool) : Form where
  ok4 := fun _ f => hintsOk f && (if dst.isSome then true else noD f) && (if a then emptyAOk f else noA f) &&
    (if b then emptyBOk f && immOnlyB f else noB f && f.imm == 0) && modWithin (if flag then 0x040 else 0) f
  ok6 := fun _ f => (match dst with
      | some c => f.dc == c
      | none => true) && (!a || f.ac == .scl) && (!b || f.bc == .scl || f.bc == .imm)
  takesLit := fun f => b && f.bc == .imm
  regs := fun f => (if a then [useA f] else []) ++ (if b then useB f else []) ++ (if dst.isSome then [useD f] else [])
  uniform := fun _ => true

/-- LINIT: bc 0b11 only as the consumer of a LIT.
Marked: DEDUCED, not safe, log 36. -/
def formLinit : Form :=
  { latchForm none true true false with
    ok4 := fun _ f => hintsOk f && noD f && emptyAOk f && emptyBOk f && f.imm == 0 && modWithin 0 f
    ok6 := fun lit f => f.ac == .scl && (f.bc == .scl || (f.bc == .imm && lit)) }
/-- LARR and LEXP. -/
def formLarr : Form := latchForm (some .prd) true true false
/-- LREG. -/
def formLreg : Form := latchForm none true false true
/-- LWAIT. -/
def formLwait : Form := latchForm (some .scl) true true true
/-- BAR. -/
def formBar : Form := latchForm (some .scl) true false true
/-- PAUSE. -/
def formPause : Form := latchForm none false true false

/-! ## Row 0xC (R149) -/

/-- The link register v1 as a register that CALL and CALLT write. -/
def useLink : RegUse := { pos := 3, cls := .vec, num := 1, wr := true }

/-- BRA: only mod[7:0] and imm have a role.
Marked: DEDUCED, not safe, log 102. -/
def formBra : Form where
  ok4 := fun _ f => noHints f && noD f && noA f && noB f && modWithin 0x0FF f
  ok6 := fun _ _ => true
  takesLit := fun _ => false
  takesLbr := true
  regs := fun _ => []
  uniform := fun _ => false
/-- CALL. -/
def formCall : Form := { formBra with regs := fun _ => [useLink] }
/-- CALLT.
Marked: DEDUCED, not safe, log 102. -/
def formCallt : Form where
  ok4 := fun _ f => noHints f && noD f && emptyAOk f && emptyBOk f && immOnlyB f && modWithin 0 f
  ok6 := fun _ f => vecOrScl f.ac && (f.bc == .scl || f.bc == .imm)
  regs := fun f => [useA f] ++ useB f ++ [useLink]
  uniform := fun _ => false
/-- RET. -/
def formRet : Form where
  ok4 := fun _ f => noHints f && noD f && emptyAOk f && noB f && f.imm == 0 && modWithin 0 f
  ok6 := fun _ f => f.ac == .vec
  takesLit := fun _ => false
  regs := fun f => [useA f]
  uniform := fun _ => false
/-- EXIT and NOP: only the guard fields may be set (R135, R149).
Marked: DEDUCED, not safe, log 102. -/
def formBare : Form where
  ok4 := fun _ f => noHints f && noD f && noA f && noB f && f.imm == 0 && modWithin 0 f
  ok6 := fun _ _ => true
  takesLit := fun _ => false
  regs := fun _ => []
  uniform := fun _ => false
/-- LAUNCH. -/
def formLaunch : Form where
  ok4 := fun _ f => noHints f && emptyAOk f && noB f && f.imm == 0 && modWithin 0 f
  ok6 := fun _ f => f.dc == .prd && vecOrScl f.ac
  feats := [5]
  takesLit := fun _ => false
  regs := fun f => [useA f true, useD f]
  uniform := fun _ => false
/-- TRAP. -/
def formTrap : Form :=
  { formBare with ok4 := fun _ f => noHints f && noD f && noA f && noB f && f.i 10 12 == 0 && modWithin 0 f }

/-! ## System words (R134, R393, R395) -/

/-- The selector imm[20:16]: only where the word accepts it, and not at supervisor level (R393).
Marked: DEDUCED, not safe, log 37. -/
def selOk (accepts : Bool) (lvl : Nat) (f : SFields) : Bool :=
  if f.sel then accepts && lvl != 1 else f.selBay == 0

/-- A system word: operands used, modifier bits, imm bits below the selector, selector, level. -/
def sysForm (d a b : Bool) (mask : BitVec 12) (immOk : SFields → Bool) (sel : Bool) (lvl : Nat) : Form where
  ok4 := fun l f => hintsOk f && (if d then true else noD f) && (if a then emptyAOk f else noA f) &&
    (if b then emptyBOk f else noB f) && modWithin mask f && immOk f && f.i 21 1 == 0 && selOk sel l f
  ok6 := fun _ f => (!d || f.dc == .scl) && (!a || f.ac == .scl) && (!b || f.bc == .scl)
  level := fun _ => lvl
  takesLit := fun _ => false
  regs := fun f => (if a then [useA f] else []) ++ (if b then useB f else []) ++ (if d then [useD f] else [])
  uniform := fun _ => true

/-- imm[15:0] holds zero. -/
def imm16Zero (f : SFields) : Bool := f.i 0 16 == 0

/-- TRET. -/
def formTret : Form := sysForm false false false 0x040 imm16Zero false 1
/-- The privileged registers (R384). -/
def privRegs : List Nat := [0x00, 0x01, 0x02, 0x03, 0x04, 0x05, 0x08, 0x09, 0x0A, 0x10]
/-- MOVP's register number. -/
def movpNum (f : SFields) : Nat := f.i 0 8
/-- Whether MOVP is the write form. -/
def movpWrites (f : SFields) : Bool := f.i 8 1 == 1
/-- imm of MOVP: a defined register, and SEL only for registers 0x08 to 0x0A of a bay up to 11 (R397). -/
def movpImmOk (f : SFields) : Bool :=
  f.i 9 7 == 0 && memb (movpNum f) privRegs &&
  (!f.sel || (memb (movpNum f) [0x08, 0x09, 0x0A] && decide (f.selBay ≤ 11)))
/-- MOVP reading. -/
def formMovpRead : Form :=
  { sysForm true false false 0 movpImmOk true 1 with level := fun f => if movpNum f = 0x10 then 2 else 1 }
/-- MOVP writing. -/
def formMovpWrite : Form :=
  { sysForm false false true 0 movpImmOk true 1 with
    level := fun f => if movpNum f = 0x10 then 2 else 1
    ok12 := fun _ => true }
/-- MOVP writing inside a handler: a write to a read-only register traps with 0x103; outside one it is ignored (R384, R397). -/
def formMovpWriteIn : Form := { formMovpWrite with ok12 := fun f => !memb (movpNum f) [0x00, 0x01, 0x03] }
/-- TLBI. -/
def formTlbi : Form := sysForm true true false 0x040 imm16Zero true 1
/-- TLBI.ALL. -/
def formTlbiAll : Form := sysForm true false false 0x040 imm16Zero true 1
/-- PTROOT and IMGWD. -/
def formSelA : Form := sysForm true true false 0 imm16Zero true 1
/-- IMGSUB and ATTRD. -/
def formSelAB : Form := sysForm true true true 0 imm16Zero true 1
/-- LOGRD. -/
def formLogrd : Form := formSelA
/-- Steward words with one operand and no modifier: BAYRST, KEYSET, SILLCLR. -/
def formStewA : Form := sysForm true true false 0 imm16Zero false 2
/-- Steward words with two operands and no modifier: BAYCFG, TURNW, RATIO. -/
def formStewAB : Form := sysForm true true true 0 imm16Zero false 2
/-- BAYST and RETIRE: mod[7:6] below 0b11. -/
def formStewOp : Form :=
  { sysForm true true false 0x0C0 imm16Zero false 2 with
    ok4 := fun _ f => hintsOk f && emptyAOk f && noB f && modWithin 0x0C0 f && f.m 6 2 != 3 && f.imm == 0 }
/-- OWNSET: imm[15:0] is the entry. -/
def formOwnset : Form := sysForm true true true 0 (fun _ => true) false 2
/-- KEYENR: mod[6] .WD. -/
def formKeyenr : Form := sysForm true true true 0x040 imm16Zero false 2
/-- SILLRD, MCRD and PREEMPT: one operand and mod[6]. -/
def formStewFlag : Form := sysForm true true false 0x040 imm16Zero false 2

end Sys2Proof.Machine
end

