-- ==== Sys2Proof/Machine/InstrForm.lean ====
section
/-! DEFINITION. The form, opcode and class of every word constructor (R134, R135), and which row of an opcode a word is. -/

namespace Sys2Proof.Machine

/-- The form of a single or system word with its fields (R119); none for pairs, transoms, undefined words and events. -/
def formOf : Instr → Option (Form × SFields)
  | .iadd f => some (formInt2, f)
  | .isub f => some (formInt2, f)
  | .imul f => some (formInt2, f)
  | .imulh f => some (formInt2, f)
  | .umulh f => some (formInt2, f)
  | .imad f => some (formImad, f)
  | .idiv f => some (formIdiv, f)
  | .udiv f => some (formIdiv, f)
  | .irem f => some (formIdiv, f)
  | .urem f => some (formIdiv, f)
  | .ineg f => some (formInt1, f)
  | .iabs f => some (formInt1, f)
  | .imin f => some (formInt2, f)
  | .imax f => some (formInt2, f)
  | .umin f => some (formInt2, f)
  | .umax f => some (formInt2, f)
  | .iadds f => some (formInt2, f)
  | .isubs f => some (formInt2, f)
  | .uadds f => some (formInt2, f)
  | .usubs f => some (formInt2, f)
  | .and f => some (formInt2, f)
  | .or f => some (formInt2, f)
  | .xor f => some (formInt2, f)
  | .not f => some (formInt1, f)
  | .andn f => some (formInt2, f)
  | .shl f => some (formInt2, f)
  | .shr f => some (formInt2, f)
  | .sar f => some (formInt2, f)
  | .rol f => some (formInt2, f)
  | .ror f => some (formInt2, f)
  | .fshl f => some (formInt3Wide, f)
  | .fshr f => some (formInt3Wide, f)
  | .bfx f => some (formInt2Wide, f)
  | .bfxs f => some (formInt2Wide, f)
  | .bfi f => some (formInt3Wide, f)
  | .popc f => some (formInt1, f)
  | .clz f => some (formInt1, f)
  | .ctz f => some (formInt1, f)
  | .brev f => some (formInt1, f)
  | .bswap f => some (formInt1, f)
  | .sext f => some (formExt, f)
  | .zext f => some (formExt, f)
  | .iaddc f => some (formCarry, f)
  | .isubb f => some (formCarry, f)
  | .idp4 f => some (formDot, f)
  | .idp2 f => some (formDot, f)
  | .icmp f => some (formCmp, f)
  | .ucmp f => some (formCmp, f)
  | .plop f => some (formPlop, f)
  | .pset f => some (formPset, f)
  | .pget f => some (formPget, f)
  | .mov f => some (formMov, f)
  | .sel f => some (formSel, f)
  | .movsRead f => some (formMovsRead, f)
  | .movsWrite f => some (formMovsWrite, f)
  | .lea f => some (formLea, f)
  | .capq f => some (formCapq, f)
  | .fmtq f => some (formFmtq, f)
  | .fadd f => some (formFp2, f)
  | .fsub f => some (formFp2, f)
  | .fmul f => some (formFp2, f)
  | .fma f => some (formFma, f)
  | .fms f => some (formFma, f)
  | .fnma f => some (formFma, f)
  | .fmin f => some (formFp2Exact, f)
  | .fmax f => some (formFp2Exact, f)
  | .fabs f => some (formFp1Exact, f)
  | .fneg f => some (formFp1Exact, f)
  | .fdiv f => some (formFdiv, f)
  | .fsqrt f => some (formFp1, f)
  | .frcp f => some (formFp1, f)
  | .frsq f => some (formFp1, f)
  | .fexp2 f => some (formFp1, f)
  | .flog2 f => some (formFp1, f)
  | .fsin f => some (formFp1, f)
  | .fcos f => some (formFp1, f)
  | .ftanh f => some (formFp1, f)
  | .fcmp f => some (formFcmp, f)
  | .fclass f => some (formFclass, f)
  | .frnd f => some (formFp1, f)
  | .fldexp f => some (formFp2, f)
  | .fsgn f => some (formFp2Exact, f)
  | .cvt f => some (formCvt, f)
  | .cvts f => some (formCvts, f)
  | .pack f => some ((packForm false), f)
  | .unpack f => some ((packForm true), f)
  | .scaleb f => some (formScaleb, f)
  | .shfl f => some (formShfl, f)
  | .shflu f => some (formShfl, f)
  | .shfld f => some (formShfl, f)
  | .shflx f => some (formShfl, f)
  | .bcst f => some (formBcst, f)
  | .vote f => some (formVote, f)
  | .elect f => some (formElect, f)
  | .pscan f => some (formPscan, f)
  | .lred f => some (formLred, f)
  | .ld f => some (formLd, f)
  | .st f => some (formSt, f)
  | .lde f => some (formLde, f)
  | .ste f => some (formSte, f)
  | .pf f => some (formPf, f)
  | .cctlIinv f => some (formCctl, f)
  | .cctlL1inv f => some (formCctl, f)
  | .atom f => some (formAtom, f)
  | .atomc f => some (formAtomc, f)
  | .red f => some (formRed, f)
  | .fence f => some (formFence, f)
  | .mma f => some (formMma, f)
  | .tfetch f => some (formTfetch, f)
  | .sumsR f => some (formSums, f)
  | .sumsC f => some (formSums, f)
  | .aclr f => some (formAclr, f)
  | .ald f => some (formAld, f)
  | .amovTov f => some ((formAmov false), f)
  | .amovTob f => some ((formAmov true), f)
  | .drain f => some (formDrain, f)
  | .copy f => some (formJob, f)
  | .gather f => some (formJob, f)
  | .scatter f => some (formJob, f)
  | .linit f => some (formLinit, f)
  | .larr f => some (formLarr, f)
  | .lreg f => some (formLreg, f)
  | .lregD f => some (formLreg, f)
  | .lwait f => some (formLwait, f)
  | .lexp f => some (formLarr, f)
  | .bar f => some (formBar, f)
  | .pause f => some (formPause, f)
  | .bra f => some (formBra, f)
  | .call f => some (formCall, f)
  | .callt f => some (formCallt, f)
  | .ret f => some (formRet, f)
  | .exit f => some (formBare, f)
  | .launch f => some (formLaunch, f)
  | .trap f => some (formTrap, f)
  | .nop f => some (formBare, f)
  | .tret f => some (formTret, f)
  | .movpRead f => some (formMovpRead, f)
  | .movpWrite f => some (formMovpWrite, f)
  | .tlbi f => some (formTlbi, f)
  | .tlbiAll f => some (formTlbiAll, f)
  | .ptroot f => some (formSelA, f)
  | .imgsub f => some (formSelAB, f)
  | .imgwd f => some (formSelA, f)
  | .bayrst f => some (formStewA, f)
  | .baycfg f => some (formStewAB, f)
  | .baystRsv f => some (formStewOp, f)
  | .baystUnr f => some (formStewOp, f)
  | .baystRel f => some (formStewOp, f)
  | .turnw f => some (formStewAB, f)
  | .keyset f => some (formStewA, f)
  | .ownset f => some (formOwnset, f)
  | .keyenr f => some (formKeyenr, f)
  | .keyenrWd f => some (formKeyenr, f)
  | .ratio f => some (formStewAB, f)
  | .retirePair f => some (formStewOp, f)
  | .retireSlice f => some (formStewOp, f)
  | .retirePch f => some (formStewOp, f)
  | .sillrd f => some (formStewFlag, f)
  | .sillrdOwn f => some (formStewFlag, f)
  | .sillclr f => some (formStewA, f)
  | .mcrd f => some (formStewFlag, f)
  | .attrd f => some (formSelAB, f)
  | .preempt f => some (formStewFlag, f)
  | .preemptGo f => some (formStewFlag, f)
  | .logrd f => some (formLogrd, f)
  | _ => none

/-- Class bit (false single, true system) and opcode of a word constructor (R118, R134, R135). -/
def opcodeOf : Instr → Option (Bool × BitVec 8)
  | .iadd _ => some (false, 0x01)
  | .isub _ => some (false, 0x02)
  | .imul _ => some (false, 0x03)
  | .imulh _ => some (false, 0x04)
  | .umulh _ => some (false, 0x05)
  | .imad _ => some (false, 0x06)
  | .idiv _ => some (false, 0x07)
  | .udiv _ => some (false, 0x08)
  | .irem _ => some (false, 0x09)
  | .urem _ => some (false, 0x0A)
  | .ineg _ => some (false, 0x0B)
  | .iabs _ => some (false, 0x0C)
  | .imin _ => some (false, 0x0D)
  | .imax _ => some (false, 0x0E)
  | .umin _ => some (false, 0x0F)
  | .umax _ => some (false, 0x10)
  | .iadds _ => some (false, 0x11)
  | .isubs _ => some (false, 0x12)
  | .uadds _ => some (false, 0x13)
  | .usubs _ => some (false, 0x14)
  | .and _ => some (false, 0x15)
  | .or _ => some (false, 0x16)
  | .xor _ => some (false, 0x17)
  | .not _ => some (false, 0x18)
  | .andn _ => some (false, 0x19)
  | .shl _ => some (false, 0x1A)
  | .shr _ => some (false, 0x1B)
  | .sar _ => some (false, 0x1C)
  | .rol _ => some (false, 0x1D)
  | .ror _ => some (false, 0x1E)
  | .fshl _ => some (false, 0x1F)
  | .fshr _ => some (false, 0x20)
  | .bfx _ => some (false, 0x21)
  | .bfxs _ => some (false, 0x22)
  | .bfi _ => some (false, 0x23)
  | .popc _ => some (false, 0x24)
  | .clz _ => some (false, 0x25)
  | .ctz _ => some (false, 0x26)
  | .brev _ => some (false, 0x27)
  | .bswap _ => some (false, 0x28)
  | .sext _ => some (false, 0x30)
  | .zext _ => some (false, 0x31)
  | .iaddc _ => some (false, 0x32)
  | .isubb _ => some (false, 0x33)
  | .idp4 _ => some (false, 0x36)
  | .idp2 _ => some (false, 0x37)
  | .icmp _ => some (false, 0x29)
  | .ucmp _ => some (false, 0x2A)
  | .plop _ => some (false, 0x2B)
  | .pset _ => some (false, 0x34)
  | .pget _ => some (false, 0x35)
  | .mov _ => some (false, 0x2C)
  | .sel _ => some (false, 0x2D)
  | .movsRead _ => some (false, 0x2E)
  | .movsWrite _ => some (false, 0x2E)
  | .lea _ => some (false, 0x2F)
  | .capq _ => some (false, 0xE0)
  | .fmtq _ => some (false, 0xE1)
  | .fadd _ => some (false, 0x40)
  | .fsub _ => some (false, 0x41)
  | .fmul _ => some (false, 0x42)
  | .fma _ => some (false, 0x43)
  | .fms _ => some (false, 0x44)
  | .fnma _ => some (false, 0x45)
  | .fmin _ => some (false, 0x46)
  | .fmax _ => some (false, 0x47)
  | .fabs _ => some (false, 0x48)
  | .fneg _ => some (false, 0x49)
  | .fdiv _ => some (false, 0x4A)
  | .fsqrt _ => some (false, 0x4B)
  | .frcp _ => some (false, 0x4C)
  | .frsq _ => some (false, 0x4D)
  | .fexp2 _ => some (false, 0x4E)
  | .flog2 _ => some (false, 0x4F)
  | .fsin _ => some (false, 0x50)
  | .fcos _ => some (false, 0x51)
  | .ftanh _ => some (false, 0x52)
  | .fcmp _ => some (false, 0x53)
  | .fclass _ => some (false, 0x54)
  | .frnd _ => some (false, 0x55)
  | .fldexp _ => some (false, 0x56)
  | .fsgn _ => some (false, 0x57)
  | .cvt _ => some (false, 0x58)
  | .cvts _ => some (false, 0x59)
  | .pack _ => some (false, 0x5A)
  | .unpack _ => some (false, 0x5B)
  | .scaleb _ => some (false, 0x5C)
  | .shfl _ => some (false, 0x60)
  | .shflu _ => some (false, 0x61)
  | .shfld _ => some (false, 0x62)
  | .shflx _ => some (false, 0x63)
  | .bcst _ => some (false, 0x64)
  | .vote _ => some (false, 0x65)
  | .elect _ => some (false, 0x66)
  | .pscan _ => some (false, 0x67)
  | .lred _ => some (false, 0x68)
  | .ld _ => some (false, 0x80)
  | .st _ => some (false, 0x81)
  | .lde _ => some (false, 0x82)
  | .ste _ => some (false, 0x83)
  | .pf _ => some (false, 0x84)
  | .cctlIinv _ => some (false, 0x85)
  | .cctlL1inv _ => some (false, 0x85)
  | .atom _ => some (false, 0x86)
  | .atomc _ => some (false, 0x87)
  | .red _ => some (false, 0x88)
  | .fence _ => some (false, 0x89)
  | .mma _ => some (false, 0xA0)
  | .tfetch _ => some (false, 0xA1)
  | .sumsR _ => some (false, 0xA2)
  | .sumsC _ => some (false, 0xA2)
  | .aclr _ => some (false, 0xA3)
  | .ald _ => some (false, 0xA4)
  | .amovTov _ => some (false, 0xA5)
  | .amovTob _ => some (false, 0xA5)
  | .drain _ => some (false, 0xA6)
  | .copy _ => some (false, 0xB0)
  | .gather _ => some (false, 0xB1)
  | .scatter _ => some (false, 0xB2)
  | .linit _ => some (false, 0xB3)
  | .larr _ => some (false, 0xB4)
  | .lreg _ => some (false, 0xB5)
  | .lregD _ => some (false, 0xB5)
  | .lwait _ => some (false, 0xB6)
  | .lexp _ => some (false, 0xB7)
  | .bar _ => some (false, 0xB8)
  | .pause _ => some (false, 0xB9)
  | .bra _ => some (false, 0xC0)
  | .call _ => some (false, 0xC1)
  | .callt _ => some (false, 0xC2)
  | .ret _ => some (false, 0xC3)
  | .exit _ => some (false, 0xC4)
  | .launch _ => some (false, 0xC5)
  | .trap _ => some (false, 0xC6)
  | .nop _ => some (false, 0xC7)
  | .tret _ => some (true, 0x01)
  | .movpRead _ => some (true, 0x02)
  | .movpWrite _ => some (true, 0x02)
  | .tlbi _ => some (true, 0x03)
  | .tlbiAll _ => some (true, 0x03)
  | .ptroot _ => some (true, 0x04)
  | .imgsub _ => some (true, 0x05)
  | .imgwd _ => some (true, 0x06)
  | .bayrst _ => some (true, 0x07)
  | .baycfg _ => some (true, 0x08)
  | .baystRsv _ => some (true, 0x09)
  | .baystUnr _ => some (true, 0x09)
  | .baystRel _ => some (true, 0x09)
  | .turnw _ => some (true, 0x0A)
  | .keyset _ => some (true, 0x0B)
  | .ownset _ => some (true, 0x0C)
  | .keyenr _ => some (true, 0x0D)
  | .keyenrWd _ => some (true, 0x0D)
  | .ratio _ => some (true, 0x0E)
  | .retirePair _ => some (true, 0x0F)
  | .retireSlice _ => some (true, 0x0F)
  | .retirePch _ => some (true, 0x0F)
  | .sillrd _ => some (true, 0x10)
  | .sillrdOwn _ => some (true, 0x10)
  | .sillclr _ => some (true, 0x11)
  | .mcrd _ => some (true, 0x12)
  | .attrd _ => some (true, 0x13)
  | .preempt _ => some (true, 0x14)
  | .preemptGo _ => some (true, 0x14)
  | .logrd _ => some (true, 0x15)
  | _ => none

/-- For an opcode that several rows of the table share, the field that selects the row. -/
def rowOk : Instr → Bool
  | .movsRead f => !(f.dc == .prd)
  | .movsWrite f => f.dc == .prd
  | .cctlIinv f => !(f.m 3 2 == 1)
  | .cctlL1inv f => f.m 3 2 == 1
  | .sumsR f => !(f.m 4 1 == 1)
  | .sumsC f => f.m 4 1 == 1
  | .amovTov f => !(f.m 6 1 == 1)
  | .amovTob f => f.m 6 1 == 1
  | .lreg f => !(f.m 6 1 == 1)
  | .lregD f => f.m 6 1 == 1
  | .movpRead f => !(f.i 8 1 == 1)
  | .movpWrite f => f.i 8 1 == 1
  | .tlbi f => !(f.m 6 1 == 1)
  | .tlbiAll f => f.m 6 1 == 1
  | .baystRsv f => !(f.m 6 2 == 1) && !(f.m 6 2 == 2)
  | .baystUnr f => f.m 6 2 == 1
  | .baystRel f => f.m 6 2 == 2
  | .keyenr f => !(f.m 6 1 == 1)
  | .keyenrWd f => f.m 6 1 == 1
  | .retirePair f => !(f.m 6 2 == 1) && !(f.m 6 2 == 2)
  | .retireSlice f => f.m 6 2 == 1
  | .retirePch f => f.m 6 2 == 2
  | .sillrd f => !(f.m 6 1 == 1)
  | .sillrdOwn f => f.m 6 1 == 1
  | .preempt f => !(f.m 6 1 == 1)
  | .preemptGo f => f.m 6 1 == 1
  | _ => true

end Sys2Proof.Machine
end

