-- ==== Sys2Proof/Machine/Checks.lean ====
section
/-! DEFINITION. The checks of R136 on a word, in their order, and what R131 lets a consumer take. -/

namespace Sys2Proof.Machine

/-- What a failed check or a trap reports besides the place of the word (R384, R435). -/
structure TrapInfo where
  cause : Nat
  /-- The lowest unit lane concerned, which gives TCAUSE.LANE and the trapping logical rod; none for every lane of the entry. -/
  lane : Option Nat := none
  taddr : BitVec 64 := 0
  imp : Bool := false
  byTrap : Bool := false
  more : Bool := false
  half : Bool := false
  opnd : Nat := 0
  inner : Nat := 0
  /-- The word index to report in WIDX when it is not the reported word itself (deferred and late, R382). -/
  widx : Option Nat := none
  /-- The word at which it is taken is itself a transom (NXT, R384). -/
  atTransom : Bool := false
  deriving DecidableEq, Repr

/-- A trap with a cause alone. -/
def trapOf (cause : Nat) : TrapInfo := { cause := cause }

/-- A transom word: class 0b10 (R119, R130). -/
def isTransom (w : InstrWord) : Bool := w.extractLsb' 94 2 == 2

/-- The kinds of transom words (R130). -/
inductive TransomKind where
  | lit
  | lbr
  | ovr
  deriving DecidableEq, Repr

/-- A transom that has issued and waits for its consumer (R131, R133): its word index, kind and payload. -/
structure Transom where
  pc : Nat
  kind : TransomKind
  payload : BitVec 64
  deriving DecidableEq, Repr

/-- RMV of an OVR payload (R130). -/
def ovrRmv (p : BitVec 64) : Bool := p.getLsbD 47
/-- RM of an OVR payload. -/
def ovrRm (p : BitVec 64) : BitVec 3 := p.extractLsb' 44 3
/-- SATV of an OVR payload. -/
def ovrSatv (p : BitVec 64) : Bool := p.getLsbD 43
/-- SAT of an OVR payload. -/
def ovrSat (p : BitVec 64) : Bool := p.getLsbD 42
/-- FAV of an OVR payload. -/
def ovrFav (p : BitVec 64) : Bool := p.getLsbD 41
/-- FA of an OVR payload. -/
def ovrFa (p : BitVec 64) : BitVec 4 := p.extractLsb' 37 4
/-- FDV of an OVR payload. -/
def ovrFdv (p : BitVec 64) : Bool := p.getLsbD 36
/-- FD of an OVR payload. -/
def ovrFd (p : BitVec 64) : BitVec 4 := p.extractLsb' 32 4

/-- The consumer's fields with the controls an OVR replaces (R131): RM in mod[2:0], SAT in mod[3], FD in mod[7:4] and FA in
mod[11:8]. -/
def withOverride (t : Option Transom) (f : SFields) : SFields :=
  match t with
  | some { kind := .ovr, payload := p, .. } =>
    let fa := if ovrFav p then ovrFa p else f.mod.extractLsb' 8 4
    let fd := if ovrFdv p then ovrFd p else f.mod.extractLsb' 4 4
    let sat := if ovrSatv p then BitVec.ofBool (ovrSat p) else f.mod.extractLsb' 3 1
    let rm := if ovrRmv p then ovrRm p else f.mod.extractLsb' 0 3
    { f with mod := fa ++ fd ++ sat ++ rm }
  | _ => f

/-- The literal a consumer takes (R131). -/
def litOf (t : Option Transom) : Option (BitVec 64) :=
  match t with
  | some { kind := .lit, payload := p, .. } => some p
  | _ => none

/-- Check 9: the cause when a consumer does not take its transom (R131): 0x005 for an orphan, 0x006 otherwise.
Marked: DEDUCED, not safe, log 34. -/
def payloadCause (fm : Form) (t : Option Transom) (f : SFields) : Option Nat :=
  match t with
  | none => none
  | some { kind := .lit, .. } =>
    if !fm.takesLit f then some 0x005 else if f.imm != 0 then some 0x006 else none
  | some { kind := .lbr, .. } =>
    if !fm.takesLbr then some 0x005 else if f.imm != 0 || f.m 0 8 != 0 then some 0x006 else none
  | some { kind := .ovr, payload := p, .. } =>
    let missing := (ovrRmv p && !fm.takesRm f) || (ovrSatv p && !fm.takesSat f) || (ovrFav p && !fm.takesFa) ||
      (ovrFdv p && !fm.takesFd)
    let takesSome := fm.takesRm f || fm.takesSat f || fm.takesFa || fm.takesFd
    if !missing then none
    else if takesSome || (fm.fpGroup && (ovrFav p || ovrFdv p)) then some 0x006 else some 0x005

/-- What a check needs to know of the context: level, width, VGRAN and the feature vector (R36, R137, R378). -/
structure CheckCtx where
  level : Nat
  width : Nat
  vgran : Nat
  features : BitVec 128
  deriving DecidableEq, Repr

/-- Check 11 on one register use: the number's range by R121, the even or aligned number (R120, R274), then the range of what follows.
Marked: DEDUCED, not safe, log 32. -/
def RegUse.numberCause (vgran : Nat) (u : RegUse) : Option Nat :=
  match u.cls with
  | .vec => if 32 * vgran ≤ u.num then some 0x100
      else if u.num % (if u.pair then 2 else u.align) ≠ 0 then some 0x104
      else if 32 * vgran ≤ u.last then some 0x100 else none
  | .scl => if 255 < u.num then some 0x101 else none
  | .prd => if 0x1F < u.num then some 0x102 else none
  | .imm => none

/-- The register uses in the order in which check 11 judges them: destination, A, B, then registers named in mod or imm.
Marked: DEDUCED, not safe, log 32. -/
def inCheckOrder (us : List RegUse) : List RegUse :=
  us.filter (·.pos == 3) ++ us.filter (·.pos == 1) ++ us.filter (·.pos == 2) ++ us.filter (·.pos == 4)

/-- A predicate or special number above p15 where only predicates stand (check 12). -/
def namesSpecial (us : List RegUse) : Bool := us.any (fun u => u.cls == .prd && decide (16 ≤ u.num))

/-- The feature bits a word needs beyond bit 0, with bit 4 for the rounding code SR that takes effect (R137). -/
def neededFeatures (fm : Form) (t : Option Transom) (f : SFields) : List Nat :=
  fm.feats ++ fm.featsOf f ++ (if fm.rounds f && (withOverride t f).m 0 3 == 4 then [4] else [])

/-- The lowest needed feature bit that the context lacks (R390). -/
def missingFeature (c : CheckCtx) (needed : List Nat) : Option Nat :=
  (List.range 128).find? (fun b => memb b needed && !c.features.getLsbD b)

/-- Checks 4 to 12 of R136 for a single or system word.
Marked: DEDUCED, not safe, log 32 and 34. -/
def checkWord (c : CheckCtx) (fm : Form) (t : Option Transom) (f : SFields) : Option TrapInfo :=
  if !fm.ok4 c.level f then some (trapOf 0x003)
  else if fm.rounds f && decide (5 ≤ f.m 0 3) then some (trapOf 0x343)
  else if !fm.ok6 (litOf t).isSome f then some (trapOf 0x004)
  else match missingFeature c (neededFeatures fm t f) with
  | some b => some { cause := 0x00A, taddr := BitVec.ofNat 64 b }
  | none =>
    if c.level < fm.level f then some (trapOf 0x3C1)
    else match payloadCause fm t f with
    | some k => some (trapOf k)
    | none => match (inCheckOrder (fm.regs f)).findSome? (RegUse.numberCause c.vgran) with
      | some k => some (trapOf k)
      | none => if (namesSpecial (fm.regs f) && !fm.special) || !fm.ok12 f then some (trapOf 0x103) else none

/-! ## Pair words (R126 to R129) -/

/-- Halves that round (R126). -/
def HalfOp.rounds : HalfOp → Bool
  | .fadd => true
  | .fsub => true
  | .fmul => true
  | .fma => true
  | .fexp2 => true
  | .flog2 => true
  | .frcp => true
  | .frsq => true
  | .fsin => true
  | .fcos => true
  | .fsqrt => true
  | _ => false

/-- Transcendental halves, marked T in R127. -/
def HalfOp.isT : HalfOp → Bool
  | .fexp2 => true
  | .flog2 => true
  | .frcp => true
  | .frsq => true
  | .fsin => true
  | .fcos => true
  | .fsqrt => true
  | _ => false

/-- Halves that take one source (R127). -/
def HalfOp.oneSource : HalfOp → Bool
  | .fabs => true
  | .mov => true
  | .fneg => true
  | .fexp2 => true
  | .flog2 => true
  | .frcp => true
  | .frsq => true
  | .fsin => true
  | .fcos => true
  | .fsqrt => true
  | _ => false

/-- Halves that read their destination as an addend (R127). -/
def HalfOp.addend : HalfOp → Bool
  | .fma => true
  | .imad => true
  | _ => false

/-- hmod[4]: A empty behaviour (R126). -/
def halfAe (h : Half) : Bool := h.mod.getLsbD 4
/-- hmod[3]: B empty behaviour (R126). -/
def halfBe (h : Half) : Bool := h.mod.getLsbD 3
/-- hmod[2:0]: the rounding code of a half that rounds (R126). -/
def halfRm (h : Half) : Nat := h.mod.toNat % 8

/-- Check 4 on a half (R126). -/
def halfOk4 (h : Half) : Bool :=
  (HalfOp.rounds h.op || halfRm h == 0) && (!HalfOp.oneSource h.op || (h.b == 0 && !halfBe h))

/-- The registers a half reads, each with its empty behaviour; an addend blocks (R122, R129). -/
def halfReads (h : Half) : List (Nat × Bool) :=
  (h.a.toNat, halfAe h) :: ((if HalfOp.oneSource h.op then [] else [(h.b.toNat, halfBe h)]) ++
    (if HalfOp.addend h.op then [(h.dst.toNat, false)] else []))

/-- Rules 1 and 2 of R129: a register read twice has one behaviour, and distinct registers lie in distinct banks. -/
def banksOk : List (Nat × Bool) → Bool
  | [] => true
  | (r, e) :: rs => rs.all (fun p => if p.1 = r then p.2 == e else p.1 % 8 != r % 8) && banksOk rs

/-- R129, check 10. -/
def pairOk (h0 h1 : Half) : Bool :=
  banksOk (halfReads h0 ++ halfReads h1) && !(HalfOp.isT h0.op && HalfOp.isT h1.op) && h0.dst != h1.dst

/-- The register uses of a half (R166): `pos` 1 and 2 for its sources. -/
def halfUses (h : Half) : List RegUse :=
  { pos := 1, cls := .vec, num := h.a.toNat, rd := true, nb := halfAe h } ::
  ((if HalfOp.oneSource h.op then [] else [{ pos := 2, cls := .vec, num := h.b.toNat, rd := true, nb := halfBe h }]) ++
    [{ pos := 3, cls := .vec, num := h.dst.toNat, rd := HalfOp.addend h.op, wr := true }])

/-- A check made on the first half, then on the second (R128).
Marked: DEDUCED, not safe, log 87. -/
def eitherHalf (bad : Half → Bool) (cause : Nat) (h0 h1 : Half) : Option TrapInfo :=
  if bad h0 then some (trapOf cause) else if bad h1 then some { cause := cause, half := true } else none

/-- Checks 4 to 12 of R136 for a pair word. -/
def checkPair (c : CheckCtx) (t : Option Transom) (h0 h1 : Half) : Option TrapInfo :=
  (eitherHalf (fun h => !halfOk4 h) 0x003 h0 h1).orElse fun _ =>
  (eitherHalf (fun h => HalfOp.rounds h.op && decide (5 ≤ halfRm h)) 0x343 h0 h1).orElse fun _ =>
  (if !c.features.getLsbD 1 then some { cause := 0x00A, taddr := 1 } else none).orElse fun _ =>
  (if c.features.getLsbD 4 then none else
    (eitherHalf (fun h => HalfOp.rounds h.op && halfRm h == 4) 0x00A h0 h1).map ({ · with taddr := 4 })).orElse fun _ =>
  (if t.isSome then some (trapOf 0x005) else none).orElse fun _ =>
  (if pairOk h0 h1 then none else some (trapOf 0x008)).orElse fun _ =>
  eitherHalf (fun h => (halfUses h).any (fun u => (u.numberCause c.vgran).isSome)) 0x100 h0 h1

/-! ## Transom words (R130) -/

/-- Checks 3 and 4 on a transom word; a transom that consumes a transom is an orphan (R131, check 9). -/
def checkTransom (t : Option Transom) (kind : TransomKind) (rsv : BitVec 28) (p : BitVec 64) : Option TrapInfo :=
  let badOvr := kind == .ovr &&
    (!(ovrRmv p || ovrSatv p || ovrFav p || ovrFdv p) || (ovrRmv p && decide (5 ≤ (ovrRm p).toNat)))
  let badRsv := rsv != 0 || (match kind with
    | .lit => false
    | .lbr => p.extractLsb' 32 32 != 0
    | .ovr => p.extractLsb' 48 16 != 0 || p.extractLsb' 0 32 != 0)
  if badOvr then some (trapOf 0x006)
  else if badRsv then some (trapOf 0x003)
  else if t.isSome then some (trapOf 0x005)
  else none

/-- Checks 1 to 3 on a word that names no instruction (R118, R134, R135, R127, R130). -/
def undefinedCause (w : InstrWord) : TrapInfo :=
  let cls := w.extractLsb' 94 2
  let opcode := w.extractLsb' 86 8
  if cls = 0 then (if opcode = 0 then trapOf 0x001 else trapOf 0x002)
  else if cls = 1 then
    let bad (h : BitVec 5) : Bool := h == 0 || h == 0x1F
    { cause := 0x009, half := !bad (w.extractLsb' 89 5) }
  else if cls = 2 then trapOf 0x006
  else trapOf 0x002

end Sys2Proof.Machine
end

