-- ==== Sys2Proof/WellFormed.lean ====
section
/-! DEFINITION. Which instructions are well formed: those whose words pass every check of R136 that does not depend on the
context that runs them (level, features, VGRAN). -/

namespace Sys2Proof

/-- The check context of a context that lacks nothing: steward level, every feature, 2048 vector registers. -/
def fullCtx : Machine.CheckCtx := { level := 2, width := 32, vgran := 64, features := BitVec.allOnes 128 }

/-- A single or system word whose fields pass checks 4 to 6, 11 and 12; a LIT may stand before it. -/
def fieldsOk (fm : Machine.Form) (f : SFields) : Bool :=
  fm.ok4 2 f && !(fm.rounds f && decide (5 ≤ f.m 0 3)) && fm.ok6 true f &&
  ((Machine.inCheckOrder (fm.regs f)).findSome? (Machine.RegUse.numberCause 64)).isNone &&
  (!Machine.namesSpecial (fm.regs f) || fm.special) && fm.ok12 f

/-- A word that names no instruction (checks 1 to 3). -/
def isUndefined (w : InstrWord) : Bool :=
  let cls := w.extractLsb' 94 2
  let opcode := (w.extractLsb' 86 8).toNat
  if cls = 0 then !(decide (1 ≤ opcode ∧ opcode ≤ 0x37) || decide (0x40 ≤ opcode ∧ opcode ≤ 0x5C) ||
    decide (0x60 ≤ opcode ∧ opcode ≤ 0x68) || decide (0x80 ≤ opcode ∧ opcode ≤ 0x89) || decide (0xA0 ≤ opcode ∧ opcode ≤ 0xA6) ||
    decide (0xB0 ≤ opcode ∧ opcode ≤ 0xB9) || decide (0xC0 ≤ opcode ∧ opcode ≤ 0xC7) || decide (0xE0 ≤ opcode ∧ opcode ≤ 0xE1))
  else if cls = 1 then
    let bad (h : BitVec 5) : Bool := h == 0 || h == 0x1F
    bad (w.extractLsb' 89 5) || bad (w.extractLsb' 42 5)
  else if cls = 2 then w.extractLsb' 92 2 == 3
  else !decide (1 ≤ opcode ∧ opcode ≤ 0x15)

/-- Well-formed instructions. Steps of the part that no word causes are well formed as they stand. -/
def WellFormed (i : Instr) : Bool :=
  match i with
  | .pairWord h0 h1 => (Machine.checkPair fullCtx none h0 h1).isNone
  | .lit r p => (Machine.checkTransom none .lit r p).isNone
  | .lbr r p => (Machine.checkTransom none .lbr r p).isNone
  | .ovr r p => (Machine.checkTransom none .ovr r p).isNone
  | .undefinedEncoding w => isUndefined w
  | i => match Machine.formOf i with
    | some (fm, f) => Machine.rowOk i && fieldsOk fm f
    | none => true

end Sys2Proof
end

