-- ==== Sys2Proof/Decode.lean ====
section
/-! DEFINITION. Decoding of instruction words (chapter 6), total on any bits, and the encoder written from the same tables. -/

namespace Sys2Proof

/-- The operand class of two bits (R120). -/
def OpClass.ofBits (b : BitVec 2) : OpClass :=
  if b = 0 then .vec else if b = 1 then .scl else if b = 2 then .prd else .imm

/-- The two bits of an operand class (R120). -/
def OpClass.toBits : OpClass → BitVec 2
  | .vec => 0
  | .scl => 1
  | .prd => 2
  | .imm => 3

/-- The fields of a single or system word (R119). -/
def decodeFields (w : InstrWord) : SFields where
  gs := w.getLsbD 85
  guard := w.extractLsb' 81 4
  dc := OpClass.ofBits (w.extractLsb' 79 2)
  dst := w.extractLsb' 68 11
  ac := OpClass.ofBits (w.extractLsb' 66 2)
  a := w.extractLsb' 55 11
  bc := OpClass.ofBits (w.extractLsb' 53 2)
  b := w.extractLsb' 42 11
  ae := w.getLsbD 41
  be := w.getLsbD 40
  mod := w.extractLsb' 28 12
  hints := w.extractLsb' 22 6
  imm := w.extractLsb' 0 22

/-- A word from its class, opcode and fields (R119). -/
def encodeFields (cls : BitVec 2) (opcode : BitVec 8) (f : SFields) : InstrWord :=
  cls ++ opcode ++ BitVec.ofBool f.gs ++ f.guard ++ f.dc.toBits ++ f.dst ++ f.ac.toBits ++ f.a ++ f.bc.toBits ++ f.b ++
    BitVec.ofBool f.ae ++ BitVec.ofBool f.be ++ f.mod ++ f.hints ++ f.imm

/-- The half opcodes of R127; 0x00 and 0x1F are undefined. -/
def HalfOp.ofBits (b : BitVec 5) : Option HalfOp :=
  match b with
  | 0x01#5 => some .fadd
  | 0x02#5 => some .fsub
  | 0x03#5 => some .fmul
  | 0x04#5 => some .fma
  | 0x05#5 => some .fmin
  | 0x06#5 => some .fmax
  | 0x07#5 => some .fabs
  | 0x08#5 => some .iadd
  | 0x09#5 => some .isub
  | 0x0A#5 => some .imul
  | 0x0B#5 => some .imad
  | 0x0C#5 => some .imin
  | 0x0D#5 => some .imax
  | 0x0E#5 => some .umin
  | 0x0F#5 => some .umax
  | 0x10#5 => some .and
  | 0x11#5 => some .or
  | 0x12#5 => some .xor
  | 0x13#5 => some .shl
  | 0x14#5 => some .shr
  | 0x15#5 => some .sar
  | 0x16#5 => some .mov
  | 0x17#5 => some .fneg
  | 0x18#5 => some .fexp2
  | 0x19#5 => some .flog2
  | 0x1A#5 => some .frcp
  | 0x1B#5 => some .frsq
  | 0x1C#5 => some .fsin
  | 0x1D#5 => some .fcos
  | 0x1E#5 => some .fsqrt
  | _ => none

/-- The code of a half opcode (R127). -/
def HalfOp.toBits : HalfOp → BitVec 5
  | .fadd => 0x01#5
  | .fsub => 0x02#5
  | .fmul => 0x03#5
  | .fma => 0x04#5
  | .fmin => 0x05#5
  | .fmax => 0x06#5
  | .fabs => 0x07#5
  | .iadd => 0x08#5
  | .isub => 0x09#5
  | .imul => 0x0A#5
  | .imad => 0x0B#5
  | .imin => 0x0C#5
  | .imax => 0x0D#5
  | .umin => 0x0E#5
  | .umax => 0x0F#5
  | .and => 0x10#5
  | .or => 0x11#5
  | .xor => 0x12#5
  | .shl => 0x13#5
  | .shr => 0x14#5
  | .sar => 0x15#5
  | .mov => 0x16#5
  | .fneg => 0x17#5
  | .fexp2 => 0x18#5
  | .flog2 => 0x19#5
  | .frcp => 0x1A#5
  | .frsq => 0x1B#5
  | .fsin => 0x1C#5
  | .fcos => 0x1D#5
  | .fsqrt => 0x1E#5

/-- One half of a pair word (R126); none when its half opcode is undefined. -/
def decodeHalf (h : BitVec 47) : Option Half :=
  (HalfOp.ofBits (h.extractLsb' 42 5)).map fun op =>
    { op := op, guard := h.extractLsb' 38 4, dst := h.extractLsb' 27 11, a := h.extractLsb' 16 11,
      b := h.extractLsb' 5 11, mod := h.extractLsb' 0 5 }

/-- The 47 bits of a half (R126). -/
def encodeHalf (h : Half) : BitVec 47 := h.op.toBits ++ h.guard ++ h.dst ++ h.a ++ h.b ++ h.mod

/-- The single words by opcode (R135); an opcode without a row stays undefined. -/
def decodeSingle (w : InstrWord) (opcode : BitVec 8) (f : SFields) : Instr :=
  match opcode with
  | 0x01#8 => .iadd f
  | 0x02#8 => .isub f
  | 0x03#8 => .imul f
  | 0x04#8 => .imulh f
  | 0x05#8 => .umulh f
  | 0x06#8 => .imad f
  | 0x07#8 => .idiv f
  | 0x08#8 => .udiv f
  | 0x09#8 => .irem f
  | 0x0A#8 => .urem f
  | 0x0B#8 => .ineg f
  | 0x0C#8 => .iabs f
  | 0x0D#8 => .imin f
  | 0x0E#8 => .imax f
  | 0x0F#8 => .umin f
  | 0x10#8 => .umax f
  | 0x11#8 => .iadds f
  | 0x12#8 => .isubs f
  | 0x13#8 => .uadds f
  | 0x14#8 => .usubs f
  | 0x15#8 => .and f
  | 0x16#8 => .or f
  | 0x17#8 => .xor f
  | 0x18#8 => .not f
  | 0x19#8 => .andn f
  | 0x1A#8 => .shl f
  | 0x1B#8 => .shr f
  | 0x1C#8 => .sar f
  | 0x1D#8 => .rol f
  | 0x1E#8 => .ror f
  | 0x1F#8 => .fshl f
  | 0x20#8 => .fshr f
  | 0x21#8 => .bfx f
  | 0x22#8 => .bfxs f
  | 0x23#8 => .bfi f
  | 0x24#8 => .popc f
  | 0x25#8 => .clz f
  | 0x26#8 => .ctz f
  | 0x27#8 => .brev f
  | 0x28#8 => .bswap f
  | 0x29#8 => .icmp f
  | 0x2A#8 => .ucmp f
  | 0x2B#8 => .plop f
  | 0x2C#8 => .mov f
  | 0x2D#8 => .sel f
  | 0x2E#8 => if f.dc == .prd then .movsWrite f else .movsRead f
  | 0x2F#8 => .lea f
  | 0x30#8 => .sext f
  | 0x31#8 => .zext f
  | 0x32#8 => .iaddc f
  | 0x33#8 => .isubb f
  | 0x34#8 => .pset f
  | 0x35#8 => .pget f
  | 0x36#8 => .idp4 f
  | 0x37#8 => .idp2 f
  | 0x40#8 => .fadd f
  | 0x41#8 => .fsub f
  | 0x42#8 => .fmul f
  | 0x43#8 => .fma f
  | 0x44#8 => .fms f
  | 0x45#8 => .fnma f
  | 0x46#8 => .fmin f
  | 0x47#8 => .fmax f
  | 0x48#8 => .fabs f
  | 0x49#8 => .fneg f
  | 0x4A#8 => .fdiv f
  | 0x4B#8 => .fsqrt f
  | 0x4C#8 => .frcp f
  | 0x4D#8 => .frsq f
  | 0x4E#8 => .fexp2 f
  | 0x4F#8 => .flog2 f
  | 0x50#8 => .fsin f
  | 0x51#8 => .fcos f
  | 0x52#8 => .ftanh f
  | 0x53#8 => .fcmp f
  | 0x54#8 => .fclass f
  | 0x55#8 => .frnd f
  | 0x56#8 => .fldexp f
  | 0x57#8 => .fsgn f
  | 0x58#8 => .cvt f
  | 0x59#8 => .cvts f
  | 0x5A#8 => .pack f
  | 0x5B#8 => .unpack f
  | 0x5C#8 => .scaleb f
  | 0x60#8 => .shfl f
  | 0x61#8 => .shflu f
  | 0x62#8 => .shfld f
  | 0x63#8 => .shflx f
  | 0x64#8 => .bcst f
  | 0x65#8 => .vote f
  | 0x66#8 => .elect f
  | 0x67#8 => .pscan f
  | 0x68#8 => .lred f
  | 0x80#8 => .ld f
  | 0x81#8 => .st f
  | 0x82#8 => .lde f
  | 0x83#8 => .ste f
  | 0x84#8 => .pf f
  | 0x85#8 => if f.m 3 2 == 1 then .cctlL1inv f else .cctlIinv f
  | 0x86#8 => .atom f
  | 0x87#8 => .atomc f
  | 0x88#8 => .red f
  | 0x89#8 => .fence f
  | 0xA0#8 => .mma f
  | 0xA1#8 => .tfetch f
  | 0xA2#8 => if f.m 4 1 == 1 then .sumsC f else .sumsR f
  | 0xA3#8 => .aclr f
  | 0xA4#8 => .ald f
  | 0xA5#8 => if f.m 6 1 == 1 then .amovTob f else .amovTov f
  | 0xA6#8 => .drain f
  | 0xB0#8 => .copy f
  | 0xB1#8 => .gather f
  | 0xB2#8 => .scatter f
  | 0xB3#8 => .linit f
  | 0xB4#8 => .larr f
  | 0xB5#8 => if f.m 6 1 == 1 then .lregD f else .lreg f
  | 0xB6#8 => .lwait f
  | 0xB7#8 => .lexp f
  | 0xB8#8 => .bar f
  | 0xB9#8 => .pause f
  | 0xC0#8 => .bra f
  | 0xC1#8 => .call f
  | 0xC2#8 => .callt f
  | 0xC3#8 => .ret f
  | 0xC4#8 => .exit f
  | 0xC5#8 => .launch f
  | 0xC6#8 => .trap f
  | 0xC7#8 => .nop f
  | 0xE0#8 => .capq f
  | 0xE1#8 => .fmtq f
  | _ => .undefinedEncoding w

/-- The system words by opcode (R134). -/
def decodeSystem (w : InstrWord) (opcode : BitVec 8) (f : SFields) : Instr :=
  match opcode with
  | 0x01#8 => .tret f
  | 0x02#8 => if f.i 8 1 == 1 then .movpWrite f else .movpRead f
  | 0x03#8 => if f.m 6 1 == 1 then .tlbiAll f else .tlbi f
  | 0x04#8 => .ptroot f
  | 0x05#8 => .imgsub f
  | 0x06#8 => .imgwd f
  | 0x07#8 => .bayrst f
  | 0x08#8 => .baycfg f
  | 0x09#8 => if f.m 6 2 == 1 then .baystUnr f else if f.m 6 2 == 2 then .baystRel f else .baystRsv f
  | 0x0A#8 => .turnw f
  | 0x0B#8 => .keyset f
  | 0x0C#8 => .ownset f
  | 0x0D#8 => if f.m 6 1 == 1 then .keyenrWd f else .keyenr f
  | 0x0E#8 => .ratio f
  | 0x0F#8 => if f.m 6 2 == 1 then .retireSlice f else if f.m 6 2 == 2 then .retirePch f else .retirePair f
  | 0x10#8 => if f.m 6 1 == 1 then .sillrdOwn f else .sillrd f
  | 0x11#8 => .sillclr f
  | 0x12#8 => .mcrd f
  | 0x13#8 => .attrd f
  | 0x14#8 => if f.m 6 1 == 1 then .preemptGo f else .preempt f
  | 0x15#8 => .logrd f
  | _ => .undefinedEncoding w

/-- The instruction of a 96-bit word (R118): total, a word that names no instruction is `undefinedEncoding`. -/
def decodeWord (w : InstrWord) : Instr :=
  match w.extractLsb' 94 2 with
  | 0#2 => decodeSingle w (w.extractLsb' 86 8) (decodeFields w)
  | 1#2 =>
    match decodeHalf (w.extractLsb' 47 47), decodeHalf (w.extractLsb' 0 47) with
    | some h0, some h1 => .pairWord h0 h1
    | _, _ => .undefinedEncoding w
  | 2#2 =>
    match w.extractLsb' 92 2 with
    | 0#2 => .lit (w.extractLsb' 64 28) (w.extractLsb' 0 64)
    | 1#2 => .lbr (w.extractLsb' 64 28) (w.extractLsb' 0 64)
    | 2#2 => .ovr (w.extractLsb' 64 28) (w.extractLsb' 0 64)
    | _ => .undefinedEncoding w
  | _ => decodeSystem w (w.extractLsb' 86 8) (decodeFields w)

/-- The words of an instruction; none for a step of the part that no word causes. -/
def encode (i : Instr) : Option InstrWord :=
  match i with
  | .pairWord h0 h1 => some ((1#2 ++ encodeHalf h0 ++ encodeHalf h1).setWidth 96)
  | .lit r p => some (2#2 ++ 0#2 ++ r ++ p)
  | .lbr r p => some (2#2 ++ 1#2 ++ r ++ p)
  | .ovr r p => some (2#2 ++ 2#2 ++ r ++ p)
  | .undefinedEncoding w => some w
  | i => match Machine.opcodeOf i, Machine.formOf i with
    | some (sys, op), some (_, f) => some (encodeFields (if sys then 3 else 0) op f)
    | _, _ => none

/-- Why bytes are not an instruction. -/
inductive DecodeError where
  /-- Fewer than the 12 bytes of one word are left (R33). Safe: nothing is decoded. -/
  | tooShort
  deriving DecidableEq, Repr

/-- The 96-bit word of 12 bytes in memory order (R6, R33). -/
def wordOfBytes (bs : List Byte) : InstrWord := BitVec.ofNat 96 (Machine.ofBytes bs)

/-- Decoding of bytes: the instruction of the first 12 and the bytes left (R33); fewer than 12 are rejected by name. -/
def decode (bs : List Byte) : Except DecodeError (Instr × List Byte) :=
  if bs.length < 12 then .error .tooShort else .ok (decodeWord (wordOfBytes (bs.take 12)), bs.drop 12)

/-- The instruction the decoder reads from a table word: its bytes laid out in memory order, bits above `nbits` zero. -/
def decodeTableWord (nbits w : Nat) : Option Instr :=
  match decode (Machine.toBytes 12 (w % 2 ^ nbits)) with
  | .ok (i, _) => some i
  | .error _ => none

end Sys2Proof
end

