-- ==== Sys2Proof/Config.lean ====
section
/-! DEFINITION. What one part fixes, and the free values: constants without a body, which no proof can evaluate. -/

namespace Sys2Proof.Config

/-- The result of a transcendental word whose interval of 350 bits does not settle the rounding (R219); no operand that
does so is known (log 20).
Marked: DESIGN CHOICE, safe, log 20. -/
opaque undecidedResult (word input mode : Nat) : BitVec 32

/-- Decoding of one element by the strip configuration of a customer image, named by its digest (R53, R54, R56): the class
(0 finite, 1 infinity, 2 NaN), the sign, M and E + 512.
Marked: DESIGN CHOICE, safe, log 22. -/
opaque imageDecode (digest : BitVec 512) (element : BitVec 32) : BitVec 2 × Bool × BitVec 32 × BitVec 10

/-- Rounding of an exact value by a customer image (R53, R55, R182): class, sign, numerator, denominator, exponent, mode
code, SAT and 16 random bits give one encoding and the flags of FPX bits 0 to 5.
Marked: DESIGN CHOICE, safe, log 22. -/
opaque imageRound (digest : BitVec 512) (cls : BitVec 2) (neg : Bool) (num den : Nat) (exp : Int) (mode : Nat)
    (sat : Bool) (rnd : Nat) : BitVec 32 × BitVec 6

/-- Which of the slices left on its die is the home of a line, for the slices retired (R18, R251): fixed for a part and not
architected.
Marked: DESIGN CHOICE, safe, log 24. -/
opaque homeSlice (retired : List Nat) (line : Nat) : Nat

/-- The set of its home slice that a line falls in (R98, R251).
Marked: DESIGN CHOICE, safe, log 24. -/
opaque homeSet (line : Nat) : Nat

/-- The pseudo-channel (stack × 64 + channel) that holds an HBM line (R18, R251).
Marked: DESIGN CHOICE, safe, log 24. -/
opaque homeChannel (line : Nat) : Nat

/-- The set of an L1 that a line falls in (R271).
Marked: DESIGN CHOICE, safe, log 24. -/
opaque l1Set (line : Nat) : Nat

/-- The bytes of the capacity tier attached to this package, taken up to the 8 TiB of R24 (R243).
Marked: DESIGN CHOICE, safe, log 25. -/
opaque tierBytes : Nat

/-- What a line written under one key and generation reads as under another (R250): the decryption of other ciphertext.
Keys are numbered key × 2^32 + generation.
Marked: DESIGN CHOICE, safe, log 26. -/
opaque recrypt (from_ to_ line : Nat) (data : BitVec 1024) : BitVec 1024

/-- What instruction fetch finds in a poisoned line, for which no rule states a value (R144, R256).
Marked: DESIGN CHOICE, not safe, log 27. -/
opaque poisonedLine (n : Nat) : BitVec 1024

/-- Which of the translations that an access may use it does use, kept ones from before a table entry was rewritten among them
(R247); asked only while several are allowed.
Marked: DESIGN CHOICE, safe, log 28. -/
opaque keptChoice (n : Nat) : Nat

/-- Domain tickets that other packages' words take between two of this package's (R368).
Marked: DESIGN CHOICE, safe, log 96. -/
opaque ticketGap (n : Nat) : Nat

/-- Which entry leaves a full translation cache (R247): no rule names it.
Marked: DESIGN CHOICE, safe, log 109. -/
opaque tlbVictim (n : Nat) : Nat

/-- Which line leaves a full instruction cache (R16, R144): no rule names it.
Marked: DESIGN CHOICE, safe, log 94. -/
opaque icacheVictim (n : Nat) : Nat

/-- Lines of the body of a frame image (R410); the part keeps it within the bound of R410.
Marked: DESIGN CHOICE, safe, log 29. -/
opaque imageLines (n : Nat) : Nat

/-- Line `i` of the body of a frame image, whose layout is the part's own (R410).
Marked: DESIGN CHOICE, safe, log 29. -/
opaque imageLine (n i : Nat) : BitVec 1024

/-- Whether a signature of a format image verifies under an enrolled key (ML-DSA-65, R66): key, message, signature.
Marked: DESIGN CHOICE, safe, log 30. -/
opaque signatureVerifies (key : BitVec 15616) (message signature : List (BitVec 8)) : Bool

/-- The stepping fused into the part (R31).
Marked: DESIGN CHOICE, not safe, log 31. -/
opaque stepping : BitVec 8

/-- Words that the firmware image leaves free before entry `id` of the capability list: positions differ between images (R30).
Marked: DESIGN CHOICE, not safe, log 31. -/
opaque capGap (imageId : BitVec 64) (id : Nat) : BitVec 8

/-- What MOVP reads for a bay register at steward level when SEL names no bay (R397).
Marked: DESIGN CHOICE, not safe, log 31. -/
opaque unnamedBay (n : Nat) : BitVec 64

/-- The SHAKE256 digest of the public key that signs firmware, fused into the part (R25).
Marked: DESIGN CHOICE, not safe, log 23. -/
opaque fusedKeyDigest : BitVec 512

/-- The least security version, fused into the part (R25).
Marked: DESIGN CHOICE, not safe, log 23. -/
opaque fusedMinVersion : BitVec 8

/-- The two core pairs of a compute die that the factory harvest leaves out, of the 34 built (R13, R17): fused.
Marked: DESIGN CHOICE, safe, log 107. -/
opaque fusedHarvest (die which : Nat) : Nat

/-- The bytes of a firmware image, whose format is not architected (R25, R29).
Marked: DESIGN CHOICE, not safe, log 23. -/
opaque firmwareSize (image : List (Nat × BitVec 8)) : Nat

/-- The header of a firmware image (R25).
Marked: DESIGN CHOICE, not safe, log 23. -/
opaque firmwareHeader (image : List (Nat × BitVec 8)) : List (BitVec 8)

/-- Whether the header of a firmware image is well formed (R29).
Marked: DESIGN CHOICE, not safe, log 23. -/
opaque firmwareHeaderGood (image : List (Nat × BitVec 8)) : Bool

/-- The sections of a firmware image, each with the digest that the header gives for it (R25).
Marked: DESIGN CHOICE, not safe, log 23. -/
opaque firmwareSections (image : List (Nat × BitVec 8)) : List (List (BitVec 8) × BitVec 512)

/-- The public key that a firmware image carries (R25).
Marked: DESIGN CHOICE, not safe, log 23. -/
opaque firmwareKey (image : List (Nat × BitVec 8)) : BitVec 15616

/-- The signature that a firmware image carries (R25).
Marked: DESIGN CHOICE, not safe, log 23. -/
opaque firmwareSignature (image : List (Nat × BitVec 8)) : List (BitVec 8)

/-- What the host reads at the staging area where the home refuses the access (R431).
Marked: DESIGN CHOICE, not safe, log 108. -/
opaque refusedRead (offset : Nat) : BitVec 64

/-- The security version of a firmware image (R25, R29).
Marked: DESIGN CHOICE, not safe, log 23. -/
opaque firmwareVersion (image : List (Nat × BitVec 8)) : BitVec 8

end Sys2Proof.Config
end

