-- ==== Sys2Proof/Machine/Fp.lean ====
section
/-! DEFINITION. Exact values, the one rounding step (R179, R180) and exact FP32 arithmetic (R175 to R178). -/

namespace Sys2Proof.Machine

/-- An exact value: NaN, an infinity, or (-1)^neg × num / den × 2^exp with den ≥ 1 (R54, R179).
A zero keeps its sign (R178). -/
inductive XVal where
  | nan
  | inf (neg : Bool)
  | fin (neg : Bool) (num den : Nat) (exp : Int)
  deriving DecidableEq, Repr

/-- The rounding modes of R55. -/
inductive RMode where
  | rne | rz | rd | ru | sr
  deriving DecidableEq, Repr

/-- The mode code of R55; codes 0b101 to 0b111 never reach a rounding (R136, check 5) and read as RNE here. -/
def RMode.ofCode : Nat → RMode
  | 1 => .rz
  | 2 => .rd
  | 3 => .ru
  | 4 => .sr
  | _ => .rne

/-- FPX flags (R186): NX, UF, OF, DZ, NV, SAT and WL are bits 0 to 6. -/
abbrev Flags := BitVec 7

/-- Flag NX: inexact (R179). -/
def fNX : Flags := 0x01
/-- Flag UF: underflow (R179). -/
def fUF : Flags := 0x02
/-- Flag OF: overflow (R179). -/
def fOF : Flags := 0x04
/-- Flag DZ: division by zero (R173, R177). -/
def fDZ : Flags := 0x08
/-- Flag NV: invalid (R176, R177). -/
def fNV : Flags := 0x10
/-- Flag SAT: a clamp (R63, R170, R174). -/
def fSAT : Flags := 0x20
/-- Flag WL: bits discarded from a window (R184). -/
def fWL : Flags := 0x40

/-- `f` when `b` holds, no flag otherwise. -/
def flagIf (b : Bool) (f : Flags) : Flags := if b then f else 0

/-- floor(log2(num / den)) of a non-zero magnitude. -/
def floorLog2 (num den : Nat) : Int :=
  let k : Int := (Nat.log2 num : Int) - (Nat.log2 den : Int)
  let le : Bool := if 0 ≤ k then decide (den * 2 ^ k.toNat ≤ num) else decide (den ≤ num * 2 ^ (-k).toNat)
  if le then k else k - 1

/-- Quotient, remainder and divisor of num / den × 2^exp in units of 2^q. -/
def unitsOf (num den : Nat) (exp q : Int) : Nat × Nat × Nat :=
  let n := if q ≤ exp then num * 2 ^ (exp - q).toNat else num
  let d := if q ≤ exp then den else den * 2 ^ (q - exp).toNat
  (n / d, n % d, d)

/-- The choice of R179 and R180 between lo = `k` and hi = `k + 1` units, the value being k + r / d units. -/
def chooseUnits (rm : RMode) (neg : Bool) (rnd : Nat) (k r d : Nat) : Nat :=
  if r = 0 then k else
  match rm with
  | .rne => if 2 * r < d then k else if d < 2 * r then k + 1 else if k % 2 = 0 then k else k + 1
  | .rz => k
  | .rd => if neg then k + 1 else k
  | .ru => if neg then k else k + 1
  | .sr => if 65536 ≤ r * 65536 / d + rnd then k + 1 else k

/-- A binary floating layout (R60): field widths, bias, encoding of the largest finite magnitude, and its special values. -/
structure FloatFmt where
  width : Nat
  mbits : Nat
  bias : Nat
  maxEnc : Nat
  infEnc : Option Nat
  nanEnc : Option Nat
  deriving DecidableEq, Repr

/-- The sign bit of a layout, as an addend of the encoding. -/
def FloatFmt.signOf (f : FloatFmt) (neg : Bool) : Nat := if neg then 2 ^ (f.width - 1) else 0

/-- The magnitude encoding of k × 2^q, k at most 2^(m+1); encodings rise with the magnitude. -/
def FloatFmt.encMag (f : FloatFmt) (k : Nat) (q : Int) : Nat :=
  let (k', q') := if k = 2 ^ (f.mbits + 1) then (2 ^ f.mbits, q + 1) else (k, q)
  if k' < 2 ^ f.mbits then k' else
    (q' + f.mbits + f.bias).toNat * 2 ^ f.mbits + (k' - 2 ^ f.mbits)

/-- Whether a mode overflows to the infinity of its sign rather than to the largest finite value (R179). -/
def overflowsToInf (rm : RMode) (neg : Bool) : Bool :=
  match rm with
  | .rne => true
  | .rz => false
  | .rd => neg
  | .ru => !neg
  | .sr => true

/-- What a finite overflow gives (R63, R179).
Marked: DEDUCED, not safe, log 38. -/
def FloatFmt.overflow (f : FloatFmt) (rm : RMode) (sat neg : Bool) : Nat × Flags :=
  let maxV := f.signOf neg + f.maxEnc
  if sat then (maxV, fOF ||| fNX ||| fSAT) else
  match f.infEnc, f.nanEnc with
  | some i, _ => (if overflowsToInf rm neg then f.signOf neg + i else maxV, fOF ||| fNX)
  | none, some n => (n, fOF ||| fNX)
  | none, none => (maxV, fOF ||| fNX ||| fSAT)

/-- Rounding of an exact value into a floating layout: the map of R63 after the one rounding of R179. -/
def FloatFmt.round (f : FloatFmt) (rm : RMode) (sat : Bool) (rnd : Nat) : XVal → Nat × Flags
  | .nan => match f.nanEnc with
    | some n => (n, 0)
    | none => (0, fNV)
  | .inf neg =>
    let maxV := f.signOf neg + f.maxEnc
    if sat then (maxV, fSAT) else
    match f.infEnc, f.nanEnc with
    | some i, _ => (f.signOf neg + i, 0)
    | none, some n => (n, fNV)
    | none, none => (maxV, fSAT)
  | .fin neg num den exp =>
    if num = 0 then (f.signOf neg, 0) else
    let e2 := floorLog2 num den + exp
    let emin : Int := 1 - f.bias - f.mbits
    let q := max (e2 - f.mbits) emin
    let (k, r, d) := unitsOf num den exp q
    let c := chooseUnits rm neg rnd k r d
    let enc := f.encMag c q
    if f.maxEnc < enc then f.overflow rm sat neg else
    let nx := decide (r ≠ 0)
    -- tininess is judged after rounding with unbounded exponent range (R179)
    let (k', r', d') := unitsOf num den exp (e2 - f.mbits)
    let c' := chooseUnits rm neg rnd k' r' d'
    let tiny := decide (e2 < 1 - f.bias) && !(decide (e2 = - (f.bias : Int)) && decide (c' = 2 ^ (f.mbits + 1)))
    (f.signOf neg + enc, flagIf nx fNX ||| flagIf (nx && tiny) fUF)

/-- Decoding of a floating layout (R60, R175). -/
def FloatFmt.decode (f : FloatFmt) (x : Nat) : XVal :=
  let neg := x.testBit (f.width - 1)
  let mag := x % 2 ^ (f.width - 1)
  let isNan := match f.nanEnc, f.infEnc with
    | some _, some i => decide (i < mag)
    | some n, none => decide (mag = n % 2 ^ (f.width - 1))
    | none, _ => false
  if isNan then .nan
  else if f.infEnc = some mag then .inf neg
  else
    let e := mag / 2 ^ f.mbits
    let m := mag % 2 ^ f.mbits
    if e = 0 then .fin neg m 1 (1 - f.bias - f.mbits)
    else .fin neg (2 ^ f.mbits + m) 1 ((e : Int) - f.bias - f.mbits)

/-- FP32, the layout of slot f0 (R175). -/
def fp32 : FloatFmt := ⟨32, 23, 127, 0x7F7FFFFF, some 0x7F800000, some 0x7FC00000⟩

/-- Rounding to a multiple of 2^(-frac), clamped to [lo, hi] steps (R63, R174); the result has `w` bits. -/
def roundFixed (w frac : Nat) (lo hi : Int) (rm : RMode) (rnd : Nat) : XVal → Nat × Flags
  | .nan => (0, fNV)
  | .inf neg => (wrapInt w (if neg then lo else hi), fSAT)
  | .fin neg num den exp =>
    let (k, r, d) := unitsOf num den exp (-(frac : Int))
    let c := chooseUnits rm neg rnd k r d
    let v : Int := if neg then -(c : Int) else c
    if v < lo then (wrapInt w lo, fSAT ||| fNX)
    else if hi < v then (wrapInt w hi, fSAT ||| fNX)
    else (wrapInt w v, flagIf (decide (r ≠ 0)) fNX)

/-- Whether an exact value is NaN. -/
def XVal.isNan : XVal → Bool
  | .nan => true
  | _ => false

/-- Whether an exact value is a zero of either sign. -/
def XVal.isZero : XVal → Bool
  | .fin _ n _ _ => n == 0
  | _ => false

/-- Whether an exact value is infinite. -/
def XVal.isInf : XVal → Bool
  | .inf _ => true
  | _ => false

/-- The sign of a value; NaN counts as positive. -/
def XVal.sign : XVal → Bool
  | .nan => false
  | .inf n => n
  | .fin n _ _ _ => n

/-- The negation, exact; NaN stays NaN. -/
def XVal.neg : XVal → XVal
  | .nan => .nan
  | .inf n => .inf !n
  | .fin n a d e => .fin (!n) a d e

/-- The magnitude. -/
def XVal.abs : XVal → XVal
  | .nan => .nan
  | .inf _ => .inf false
  | .fin _ a d e => .fin false a d e

/-- The exact product, with the NV of 0 × inf (R177, R183). -/
def XVal.mul : XVal → XVal → XVal × Flags
  | .nan, _ => (.nan, 0)
  | _, .nan => (.nan, 0)
  | .inf n, .inf m => (.inf (n != m), 0)
  | .inf n, .fin m a _ _ => if a = 0 then (.nan, fNV) else (.inf (n != m), 0)
  | .fin m a _ _, .inf n => if a = 0 then (.nan, fNV) else (.inf (n != m), 0)
  | .fin n a d e, .fin m b c f => (.fin (n != m) (a * b) (d * c) (e + f), 0)

/-- The signed numerators of two finite values over one denominator and exponent. -/
def commonUnits (n : Bool) (a d : Nat) (e : Int) (m : Bool) (b c : Nat) (f : Int) : Int × Int × Nat × Int :=
  let g := min e f
  let x : Nat := a * c * 2 ^ (e - g).toNat
  let y : Nat := b * d * 2 ^ (f - g).toNat
  (if n then -(x : Int) else x, if m then -(y : Int) else y, d * c, g)

/-- The exact sum (R177, R178); the sign of an exact zero follows the mode. -/
def XVal.add (rm : RMode) : XVal → XVal → XVal × Flags
  | .nan, _ => (.nan, 0)
  | _, .nan => (.nan, 0)
  | .inf n, .inf m => if n = m then (.inf n, 0) else (.nan, fNV)
  | .inf n, .fin _ _ _ _ => (.inf n, 0)
  | .fin _ _ _ _, .inf n => (.inf n, 0)
  | .fin n a d e, .fin m b c f =>
    let (x, y, den, g) := commonUnits n a d e m b c f
    let s := x + y
    if s = 0 then
      if a = 0 ∧ b = 0 ∧ n = m then (.fin n 0 1 0, 0) else (.fin (rm == .rd) 0 1 0, 0)
    else (.fin (decide (s < 0)) s.natAbs den g, 0)

/-- The exact quotient (R177). -/
def XVal.div : XVal → XVal → XVal × Flags
  | .nan, _ => (.nan, 0)
  | _, .nan => (.nan, 0)
  | .inf _, .inf _ => (.nan, fNV)
  | .inf n, .fin m _ _ _ => (.inf (n != m), 0)
  | .fin m _ _ _, .inf n => (.fin (n != m) 0 1 0, 0)
  | .fin n a d e, .fin m b c f =>
    if b = 0 then (if a = 0 then (.nan, fNV) else (.inf (n != m), fDZ))
    else (.fin (n != m) (a * c) (d * b) (e - f), 0)

/-- The order of two values that are not NaN; the two zeros compare equal. -/
def XVal.lt : XVal → XVal → Bool
  | .inf n, .inf m => n && !m
  | .inf n, .fin _ _ _ _ => n
  | .fin _ _ _ _, .inf m => !m
  | .fin n a d e, .fin m b c f =>
    let (x, y, _, _) := commonUnits n a d e m b c f
    decide (x < y)
  | _, _ => false

/-- Equality by value of two values that are not NaN. -/
def XVal.eqv (a b : XVal) : Bool := !a.isNan && !b.isNan && !a.lt b && !b.lt a

/-- floor(√n), digit by digit from bit `i`. -/
def isqrtFrom : Nat → Nat → Nat → Nat
  | 0, r, n => if (r + 1) * (r + 1) ≤ n then r + 1 else r
  | i + 1, r, n =>
    let t := r + 2 ^ (i + 1)
    isqrtFrom i (if t * t ≤ n then t else r) n

/-- floor(√n). -/
def isqrt (n : Nat) : Nat := isqrtFrom (Nat.log2 n / 2 + 1) 0 n

/-- √(num/den × 2^exp), exact where the root is a fraction of 192 bits below the point, and otherwise a value strictly
between two neighbouring ones: no rounding boundary of R179 or R180 lies between them. -/
def sqrtFin (num den : Nat) (exp : Int) : XVal :=
  let e' := if exp % 2 = 0 then exp else exp - 1
  let n' := if exp % 2 = 0 then num else num * 2
  let s : Nat := 192
  let v := n' * 2 ^ (2 * s) / den
  let r := isqrt v
  if r * r * den = n' * 2 ^ (2 * s) then .fin false r 1 (e' / 2 - s)
  else .fin false (2 * r + 1) 1 (e' / 2 - s - 1)

/-- The square root (R177). -/
def XVal.sqrt : XVal → XVal × Flags
  | .nan => (.nan, 0)
  | .inf n => if n then (.nan, fNV) else (.inf false, 0)
  | .fin n a d e => if a = 0 then (.fin n 0 1 0, 0) else if n then (.nan, fNV) else (sqrtFin a d e, 0)

/-- The reciprocal square root (R177, R219). -/
def XVal.rsqrt : XVal → XVal × Flags
  | .nan => (.nan, 0)
  | .inf n => if n then (.nan, fNV) else (.fin false 0 1 0, 0)
  | .fin n a d e =>
    if a = 0 then (.inf n, fDZ) else if n then (.nan, fNV) else (sqrtFin d a (-e), 0)

/-- The reciprocal (R177, R219). -/
def XVal.recip : XVal → XVal × Flags
  | .nan => (.nan, 0)
  | .inf n => (.fin n 0 1 0, 0)
  | .fin n a d e => if a = 0 then (.inf n, fDZ) else (.fin n d a (-e), 0)

/-- The nine classes of R223, by bit position, of an FP32 encoding. -/
def fp32Class (x : Nat) : Nat :=
  let neg := x.testBit 31
  let e := field x 23 8
  let m := field x 0 23
  if e = 255 then (if m ≠ 0 then 8 else if neg then 0 else 7)
  else if e = 0 then
    (if m = 0 then (if neg then 3 else 4) else (if neg then 2 else 5))
  else if neg then 1 else 6

end Sys2Proof.Machine
end

