-- ==== Sys2Proof/Machine/Elem.lean ====
section
/-! DEFINITION. The transcendental values of R219, enclosed in intervals of 384 fraction bits and rounded once. -/

namespace Sys2Proof.Machine

/-- Fraction bits of the enclosures. -/
def precP : Nat := 384

/-- The half width of an enclosure, in units of 2^-384; the truncations below lose far less. -/
def slack : Nat := 2 ^ 48

/-- Sum of t/(2k+1) with t divided by `step` at each term: `n` terms, signs alternating when `alt`. -/
def oddSeries (alt : Bool) (step : Nat) : Nat → Nat → Nat → Int → Int
  | 0, _, _, acc => acc
  | n + 1, k, t, acc =>
    let q : Int := (t / (2 * k + 1) : Nat)
    oddSeries alt step n (k + 1) (t / step) (if alt && k % 2 == 1 then acc - q else acc + q)

/-- ln 2 = 2 Σ 1 / ((2k+1) 3^(2k+1)), scaled. -/
def ln2Fix : Nat := (oddSeries false 9 130 0 (2 ^ (precP + 1) / 3) 0).toNat

/-- π = 16 atan(1/5) - 4 atan(1/239), scaled. -/
def piFix : Nat :=
  (oddSeries true 25 90 0 (16 * 2 ^ precP / 5) 0 - oddSeries true 57121 30 0 (4 * 2 ^ precP / 239) 0).toNat

/-- Σ y^n / n!, scaled, for 0 ≤ y < 2. -/
def expSeries (y : Nat) : Nat → Nat → Nat → Nat → Nat
  | 0, _, _, acc => acc
  | n + 1, k, t, acc => expSeries y n (k + 1) (t * y / 2 ^ precP / (k + 1)) (acc + t)

/-- e^y, scaled. -/
def expFix (y : Nat) : Nat := expSeries y 110 0 (2 ^ precP) 0

/-- Σ z^(2k+1)/(2k+1), scaled: atanh z for z ≤ 1/3. -/
def atanhSeries (z2 : Nat) : Nat → Nat → Nat → Nat → Nat
  | 0, _, _, acc => acc
  | n + 1, k, t, acc => atanhSeries z2 n (k + 1) (t * z2 / 2 ^ precP) (acc + t / (2 * k + 1))

/-- Σ (-1)^k y^(2k+1)/(2k+1)!, scaled: sin y for 0 ≤ y ≤ 2. -/
def sinSeries (y2 : Nat) : Nat → Nat → Nat → Int → Int
  | 0, _, _, acc => acc
  | n + 1, k, t, acc =>
    sinSeries y2 n (k + 1) (t * y2 / 2 ^ precP / ((2 * k + 2) * (2 * k + 3)))
      (if k % 2 = 0 then acc + t else acc - t)

/-- An enclosed value: exact, or strictly inside [lo, hi] × 2^exp with the sign given. -/
inductive Enclosed where
  | exact (x : XVal) (f : Flags)
  | within (neg : Bool) (lo hi : Nat) (exp : Int)
  deriving DecidableEq, Repr

/-- The enclosure around a scaled non-negative value. -/
def around (neg : Bool) (v : Nat) (exp : Int) : Enclosed := .within neg (v - slack) (v + slack) exp

/-- 2^a (R219). -/
def encExp2 : XVal → Enclosed
  | .nan => .exact .nan 0
  | .inf n => .exact (if n then .fin false 0 1 0 else .inf false) 0
  | .fin neg num _ exp =>
    if num = 0 then .exact (.fin false 1 1 0) 0
    else if 0 ≤ exp ∧ (16 : Int) ≤ floorLog2 num 1 + exp then
      -- far outside the range of FP32: any value there rounds alike
      .within false 1 2 (if neg then -400 else 400)
    else
      let t : Int := if 0 ≤ exp then ((num * 2 ^ (precP + exp.toNat) : Nat) : Int)
        else ((num * 2 ^ precP / 2 ^ (-exp).toNat : Nat) : Int)
      let a : Int := if neg then -t else t
      let n := a / ((2 ^ precP : Nat) : Int)
      let f := (a % ((2 ^ precP : Nat) : Int)).toNat
      if f = 0 then .exact (.fin false 1 1 (max (-400) (min 400 n))) 0
      else around false (expFix (f * ln2Fix / 2 ^ precP)) (max (-400) (min 400 n) - precP)

/-- log2 a (R177, R219). -/
def encLog2 : XVal → Enclosed
  | .nan => .exact .nan 0
  | .inf n => if n then .exact .nan fNV else .exact (.inf false) 0
  | .fin neg num _ exp =>
    if num = 0 then .exact (.inf true) fDZ
    else if neg then .exact .nan fNV
    else
      let k := Nat.log2 num
      let e := (k : Int) + exp
      if num = 2 ^ k then .exact (.fin (decide (e < 0)) e.natAbs 1 0) 0
      else
        let z := (num - 2 ^ k) * 2 ^ precP / (num + 2 ^ k)
        let ln := 2 * atanhSeries (z * z / 2 ^ precP) 130 0 z 0
        let v : Int := e * ((2 ^ precP : Nat) : Int) + ((ln * 2 ^ precP / ln2Fix : Nat) : Int)
        around (decide (v < 0)) v.natAbs (-precP)

/-- sin(π t) for t scaled and below 2: the sign and the enclosure, or the exact value at multiples of one half. -/
def sinPiScaled (neg : Bool) (t : Nat) : Enclosed :=
  let one := 2 ^ precP
  let sg := neg != decide (one ≤ t)
  let u := if one ≤ t then t - one else t
  if u = 0 then .exact (.fin neg 0 1 0) 0
  else if 2 * u = one then .exact (.fin sg 1 1 0) 0
  else
    let v := if one < 2 * u then one - u else u
    let y := v * piFix / one
    around sg (sinSeries (y * y / one) 65 0 y 0).toNat (-precP)

/-- |a| modulo 2, scaled; exact, since FP32 values have at most 149 fraction bits. -/
def modTwo (num : Nat) (exp : Int) : Nat :=
  if 0 ≤ exp then (if 1 ≤ exp then 0 else num % 2 * 2 ^ precP)
  else num * 2 ^ precP / 2 ^ (-exp).toNat % 2 ^ (precP + 1)

/-- sin(π·a): an integer gives +0 if a ≥ +0 and -0 if a ≤ -0 (R219). -/
def encSin : XVal → Enclosed
  | .nan => .exact .nan 0
  | .inf _ => .exact .nan fNV
  | .fin neg num _ exp => if num = 0 then .exact (.fin neg 0 1 0) 0 else sinPiScaled neg (modTwo num exp)

/-- cos(π·a) = sin(π(|a| + 1/2)); a = n + 1/2 gives +0 (R219). -/
def encCos : XVal → Enclosed
  | .nan => .exact .nan 0
  | .inf _ => .exact .nan fNV
  | .fin _ num _ exp => sinPiScaled false ((modTwo num exp + 2 ^ (precP - 1)) % 2 ^ (precP + 1))

/-- tanh a (R219). -/
def encTanh : XVal → Enclosed
  | .nan => .exact .nan 0
  | .inf n => .exact (.fin n 1 1 0) 0
  | .fin neg num _ exp =>
    if num = 0 then .exact (.fin neg 0 1 0) 0
    else
      let l := floorLog2 num 1 + exp
      if 5 ≤ l then .within neg (2 ^ 90 - 2) (2 ^ 90 - 1) (-90)
      else if l < -40 then .within neg (num * 2 ^ 80 - num) (num * 2 ^ 80 - 1) (exp - 80)
      else
        let a2 := if 0 ≤ exp then num * 2 ^ (precP + 1 + exp.toNat) else num * 2 ^ (precP + 1) / 2 ^ (-exp).toNat
        let k := a2 / ln2Fix
        let e := expFix (a2 - k * ln2Fix) * 2 ^ k
        around neg ((e - 2 ^ precP) * 2 ^ precP / (e + 2 ^ precP)) (-precP)

/-- One rounding of an enclosed value into FP32 (R179): both ends must give the same result and flags.
Marked: DESIGN CHOICE, safe, log 20. -/
def roundEnclosed (word input : Nat) (rm : RMode) (sat : Bool) (rnd : Nat) : Enclosed → Nat × Flags
  | .exact x f =>
    let (r, g) := fp32.round rm sat rnd x
    (r, f ||| g)
  | .within neg lo hi e =>
    let r := fp32.round rm sat rnd (.fin neg lo 1 e)
    if r = fp32.round rm sat rnd (.fin neg hi 1 e) then r
    else ((Config.undecidedResult word input rnd).toNat, fNX)

end Sys2Proof.Machine
end

