-- ==== Sys2Proof/Machine/Formats.lean ====
section
/-! DEFINITION. Format images, slots, decoding and rounding through a slot, stochastic bits and E8M0 scales (chapter 3). -/

namespace Sys2Proof.Machine

/-- The header fields of a format image that operations and FMTQ read (R56); `digest` is the SHAKE256 output of the image,
zero for vendor images. -/
structure Image where
  libnum : Nat
  width : Nat
  kind : Nat
  block : Nat
  flags : Nat
  modes : Nat
  fracshift : Nat
  maxfin : BitVec 32
  qnan : BitVec 32
  digest : BitVec 512
  deriving DecidableEq, Repr

/-- A customer image: LIBNUM 0x0000 (R56, R66). -/
def Image.isCustom (i : Image) : Bool := i.libnum == 0

/-- What a format slot holds (R51): FP32 and INT32 hardwired, or an image. -/
inductive Binding where
  | fp32
  | int32
  | image (i : Image)
  deriving DecidableEq, Repr

/-- The floating layouts of the vendor library by LIBNUM (R60, and R62 for the elements of MX images).
Marked: DEDUCED, not safe, log 38. -/
def vendorFloat : Nat → Option FloatFmt
  | 0x0001 => some ⟨32, 23, 127, 0x7F7FFFFF, some 0x7F800000, some 0x7FC00000⟩
  | 0x0002 => some ⟨16, 7, 127, 0x7F7F, some 0x7F80, some 0x7FC0⟩
  | 0x0003 => some ⟨16, 10, 15, 0x7BFF, some 0x7C00, some 0x7E00⟩
  | 0x0010 => some ⟨8, 3, 7, 0x7E, none, some 0x7F⟩
  | 0x0011 => some ⟨8, 2, 15, 0x7B, some 0x7C, some 0x7E⟩
  | 0x0012 => some ⟨6, 2, 3, 0x1F, none, none⟩
  | 0x0013 => some ⟨6, 3, 1, 0x1F, none, none⟩
  | 0x0014 => some ⟨4, 1, 1, 0x7, none, none⟩
  | 0x0020 => some ⟨8, 3, 7, 0x7E, none, some 0x7F⟩
  | 0x0021 => some ⟨8, 2, 15, 0x7B, some 0x7C, some 0x7E⟩
  | 0x0022 => some ⟨6, 2, 3, 0x1F, none, none⟩
  | 0x0023 => some ⟨6, 3, 1, 0x1F, none, none⟩
  | 0x0024 => some ⟨4, 1, 1, 0x7, none, none⟩
  | _ => none

/-- The integer and fixed-point layouts: width, fraction bits, smallest and largest encoding value (R61, R62). -/
def vendorFixed : Nat → Option (Nat × Nat × Int × Int)
  | 0x0030 => some (8, 0, -128, 127)
  | 0x0031 => some (8, 0, 0, 255)
  | 0x0032 => some (4, 0, -8, 7)
  | 0x0033 => some (2, 0, -2, 1)
  | 0x0025 => some (8, 6, -127, 127)
  | _ => none

/-- The vendor library numbers, in the order of the positions 0 to 17 (R52, R60 to R62). -/
def vendorNumbers : List Nat :=
  [0x0001, 0x0002, 0x0003, 0x0010, 0x0011, 0x0012, 0x0013, 0x0014,
   0x0020, 0x0021, 0x0022, 0x0023, 0x0024, 0x0025, 0x0030, 0x0031, 0x0032, 0x0033]

/-- The header of a vendor image (R56, R60 to R62, R215). -/
def vendorImage (n : Nat) : Option Image :=
  match vendorFloat n, vendorFixed n with
  | some f, _ =>
    some { libnum := n, width := f.width, kind := 0, block := if 0x20 ≤ n then 32 else 0,
           flags := if f.infEnc.isSome then 0x07 else if f.nanEnc.isSome then 0x06 else 0x04,
           modes := 0x1F, fracshift := 0, maxfin := BitVec.ofNat 32 f.maxEnc,
           qnan := BitVec.ofNat 32 (f.nanEnc.getD 0), digest := 0 }
  | none, some (w, frac, lo, hi) =>
    some { libnum := n, width := w, kind := if frac ≠ 0 then 3 else if lo < 0 then 1 else 2,
           block := if n = 0x25 then 32 else 0, flags := 0, modes := 0x1F, fracshift := frac,
           maxfin := BitVec.ofInt 32 hi, qnan := 0, digest := 0 }
  | none, none => none

/-- Element width in bits (R225: 32 for f0 and f1). -/
def Binding.width : Binding → Nat
  | .fp32 => 32
  | .int32 => 32
  | .image i => i.width

/-- KIND of what a slot holds: f0 is floating, f1 a signed integer (R215). -/
def Binding.kind : Binding → Nat
  | .fp32 => 0
  | .int32 => 1
  | .image i => i.kind

/-- BLOCK of what a slot holds. -/
def Binding.block : Binding → Nat
  | .image i => i.block
  | _ => 0

/-- Whether a slot provides a rounding mode code (R57). -/
def Binding.hasMode (b : Binding) (code : Nat) : Bool :=
  match b with
  | .image i => i.modes.testBit code
  | _ => true

/-- The value a customer image's strip delivers, within the field widths of the harness (R54).
Marked: DESIGN CHOICE, safe, log 22. -/
def customDecode (digest : BitVec 512) (x : Nat) : XVal :=
  let (c, neg, m, e) := Config.imageDecode digest (BitVec.ofNat 32 x)
  match c.toNat with
  | 0 => .fin neg m.toNat 1 ((e.toNat : Int) - 512)
  | 1 => .inf neg
  | _ => .nan

/-- Decoding of an element of the slot's width (R54, R60 to R62, R174, R175). -/
def Binding.decode (b : Binding) (x : Nat) : XVal :=
  match b with
  | .fp32 => Machine.fp32.decode x
  | .int32 => let v := signed 32 x; .fin (decide (v < 0)) v.natAbs 1 0
  | .image i =>
    let y := x % 2 ^ i.width
    if i.isCustom then customDecode i.digest y else
    match vendorFloat i.libnum, vendorFixed i.libnum with
    | some f, _ => f.decode y
    | none, some (w, frac, lo, _) =>
      let v : Int := if lo < 0 then signed w y else (y : Int)
      .fin (decide (v < 0)) v.natAbs 1 (-(frac : Int))
    | none, none => .nan

/-- The rounding of a customer image, which gives NX, UF, OF, NV and SAT; DZ and WL never come from an image (R182).
Marked: DESIGN CHOICE, safe, log 22. -/
def customRound (digest : BitVec 512) (w : Nat) (mode : Nat) (sat : Bool) (rnd : Nat) (x : XVal) : Nat × Flags :=
  let (c, neg, n, d, e) : BitVec 2 × Bool × Nat × Nat × Int := match x with
    | .nan => (2, false, 0, 1, 0)
    | .inf s => (1, s, 0, 1, 0)
    | .fin s n d e => (0, s, n, d, e)
  let (r, f) := Config.imageRound digest c neg n d e mode sat rnd
  (r.toNat % 2 ^ w, (f.setWidth 7) &&& 0x37)

/-- Rounding of an exact value into a slot (R55, R63, R174, R179). -/
def Binding.round (b : Binding) (code : Nat) (sat : Bool) (rnd : Nat) (x : XVal) : Nat × Flags :=
  let rm := RMode.ofCode code
  match b with
  | .fp32 => Machine.fp32.round rm sat rnd x
  | .int32 => roundFixed 32 0 (-(2 ^ 31)) (2 ^ 31 - 1) rm rnd x
  | .image i =>
    if i.isCustom then customRound i.digest i.width code sat rnd x else
    match vendorFloat i.libnum, vendorFixed i.libnum with
    | some f, _ => f.round rm sat rnd x
    | none, some (w, frac, lo, hi) => roundFixed w frac lo hi rm rnd x
    | none, none => (0, fNV)

/-- The random bits of R181 for a generator state, a lane and an element index. -/
def srBits (state : BitVec 64) (lane e : Nat) : Nat :=
  let z0 := state + BitVec.ofNat 64 (4096 * lane + e + 1) * 0x9E3779B97F4A7C15#64
  let z1 := (z0 ^^^ (z0 >>> 30)) * 0xBF58476D1CE4E5B9#64
  let z2 := (z1 ^^^ (z1 >>> 27)) * 0x94D049BB133111EB#64
  let z3 := z2 ^^^ (z2 >>> 31)
  (z3 >>> 48).toNat

/-- An E8M0 scale (R62): 2^(X-127), or NaN for 255. -/
def e8m0 (x : Nat) : XVal := if x % 256 = 255 then .nan else .fin false 1 1 ((x % 256 : Nat) - 127)

/-- The exact product of a decoded value and an FP32 scale with the special cases of R182. -/
def scaledExact (v c : XVal) : XVal × Flags := v.mul c

/-- FMTQ's four words for a binding (R214, R215). -/
def Binding.report (b : Binding) (sel : Nat) : BitVec 64 :=
  let i : Image := match b with
    | .fp32 => { libnum := 0, width := 32, kind := 0, block := 0, flags := 7, modes := 0x1F, fracshift := 0,
                 maxfin := 0x7F7FFFFF, qnan := 0x7FC00000, digest := 0 }
    | .int32 => { libnum := 0, width := 32, kind := 1, block := 0, flags := 0, modes := 0x1F, fracshift := 0,
                  maxfin := 0x7FFFFFFF, qnan := 0, digest := 0 }
    | .image i => i
  let cust := match b with
    | .image i => i.isCustom
    | _ => false
  match sel with
  | 0 => BitVec.ofNat 64 (2 ^ 63 + (if cust then 2 ^ 62 else 0) + i.width % 256 * 2 ^ 48 + i.kind % 256 * 2 ^ 40
      + i.block % 256 * 2 ^ 32 + i.flags % 256 * 2 ^ 24 + i.modes % 256 * 2 ^ 16 + i.libnum % 65536)
  | 1 => if cust then i.digest.setWidth 64 else 0
  | 2 => i.qnan ++ i.maxfin
  | _ => BitVec.ofNat 64 (i.fracshift % 65536)

end Sys2Proof.Machine
end

