-- ==== Sys2Proof/Machine/SMap.lean ====
section
/-! DEFINITION. Finite maps with a default: a list of key and value pairs, keys rising, no entry equal to the default. -/

namespace Sys2Proof.Machine

/-- A map from numbers in one canonical form: keys strictly rising, no entry equal to what an unlisted key reads as. -/
abbrev SMap (α : Type) := List (Nat × α)

/-- What key `k` reads as; `d` where no entry stands. -/
def SMap.get {α : Type} (d : α) : SMap α → Nat → α
  | [], _ => d
  | (k', v) :: m, k => if k = k' then v else SMap.get d m k

/-- The map without key `k`. -/
def SMap.drop {α : Type} (m : SMap α) (k : Nat) : SMap α := m.filter (fun p => p.1 != k)

/-- The map with an entry for `k`. -/
def SMap.put {α : Type} : SMap α → Nat → α → SMap α
  | [], k, v => [(k, v)]
  | (k', v') :: m, k, v =>
    if k = k' then (k, v) :: m else if k < k' then (k, v) :: (k', v') :: m else (k', v') :: SMap.put m k v

/-- Write `v` at `k`; writing the default removes the entry. -/
def SMap.set {α : Type} [DecidableEq α] (d : α) (m : SMap α) (k : Nat) (v : α) : SMap α :=
  if v = d then m.drop k else m.put k v

/-- The entry at `k`, where there is one. -/
def SMap.find {α : Type} : SMap α → Nat → Option α
  | [], _ => none
  | (k', v) :: m, k => if k = k' then some v else SMap.find m k

/-- Every key of `m` is above `b`. -/
def SMap.above {α : Type} (b : Nat) : SMap α → Bool
  | [] => true
  | (k, _) :: m => decide (b < k) && SMap.above b m

/-- The canonical form of a map with default `d`. -/
def SMap.wf {α : Type} [DecidableEq α] (d : α) : SMap α → Bool
  | [] => true
  | (k, v) :: m => decide (v ≠ d) && SMap.above k m && SMap.wf d m

/-- Keys strictly rise (for maps whose unlisted keys are simply absent). -/
def SMap.rising {α : Type} : SMap α → Bool
  | [] => true
  | (k, _) :: m => SMap.above k m && SMap.rising m

/-- Change the entry at `k`, where there is one. -/
def SMap.modify {α : Type} (m : SMap α) (k : Nat) (g : α → α) : SMap α :=
  m.map (fun p => if p.1 = k then (p.1, g p.2) else p)

/-- The values in key order. -/
def SMap.vals {α : Type} (m : SMap α) : List α := m.map (·.2)

end Sys2Proof.Machine
end

