-- ==== Sys2Proof/Machine/Rods.lean ====
section
/-! DEFINITION. The registers and control state of logical rods, of the issuing units and of frames (chapters 5 to 9, 18, 20). -/

namespace Sys2Proof.Machine

/-- One frontier entry (R141): a word index, a block priority and the lanes that stand there. -/
structure Entry where
  pc : Nat
  pri : BitVec 8
  lanes : BitVec 64
  deriving DecidableEq, Repr

/-- A pending job fault of a logical rod (R338): inner cause, word index of the job word, the failing address or index
position, and whether later faults happened. -/
structure JobFault where
  inner : Nat
  widx : Nat
  value : BitVec 64
  more : Bool
  deriving DecidableEq, Repr

/-- A fetch entry q0 to q3 of a logical rod (R315, R316): what is fetched, the uses left, the hold on the lines (the core's
fetch entry), and the cause of a failed re-fetch at resume (R324). -/
structure FetchEntry where
  base : BitVec 64
  stride : Nat
  k : Nat
  count : Nat
  hold : Nat
  failed : Option Nat
  deriving DecidableEq, Repr

/-- What each logical rod holds (R108, R146, R186, R384). -/
structure LRod where
  /-- s1 to s255; an unlisted register reads zero (R164). -/
  sregs : SMap (BitVec 64)
  /-- Scalars whose full/empty bit says empty (R164). -/
  sEmpty : List Nat
  /-- Scalars marked poisoned (R256). -/
  sPoison : List Nat
  exm : BitVec 64
  fpx : BitVec 64
  tsc : BitVec 64
  satcnt : BitVec 64
  srseed : BitVec 64
  tcause : BitVec 64
  taddr : BitVec 64
  tscr0 : BitVec 64
  tscr1 : BitVec 64
  jobFault : Option JobFault
  fetches : SMap FetchEntry
  deriving DecidableEq, Repr

/-- The handler a unit is in (R385): what is held aside, the trap record, and the code space it entered with (R397). -/
structure Handler where
  held : List Entry
  heldExm : List (BitVec 64)
  tpc : BitVec 64
  tlanes : BitVec 64
  thbase : BitVec 64
  hwords : Nat
  deriving DecidableEq, Repr

/-- What the latch of a wait has shown since the wait first read it (R342, R349): each change of its bytes is judged. -/
inductive WaitRead where
  /-- It has not been read. -/
  | unread
  /-- It has stood in the phase waited on. -/
  | same
  /-- The bits in which it had left that phase, and whether they were poisoned. -/
  | left (bits : Nat) (poison : Bool)
  deriving DecidableEq, Repr

/-- A wait of LWAIT or BAR that has begun (R349, R350, R355), for one logical rod of the unit. -/
structure LatchWait where
  /-- Word index of the word that waits. -/
  pc : Nat
  rod : Nat
  /-- The latch's pane address. -/
  latch : Nat
  /-- The phase waited on; for a BAR whose arrival has not been accepted there is none yet. -/
  q : Option Nat
  /-- .R of the word. -/
  r : Bool
  dst : Nat
  bar : Bool
  seen : WaitRead := .unread
  deriving DecidableEq, Repr

/-- An issuing unit: the hardware rod at width 16 and 32, the logical rod at width 64 (R141, R161, R385). Its lanes are 0 to
31, or 0 to 63; lane u belongs to logical rod u / 16 of the unit at width 16, and to its only logical rod otherwise. -/
structure RodUnit where
  /-- The core side of a pair frame, 0 otherwise (R106). -/
  side : Nat
  /-- Quarter and slot of each hardware rod (R110, R159). -/
  slots : List (Nat × Nat)
  /-- RODID of the unit's first logical rod (R107). -/
  rodBase : Nat
  /-- Lane values of v0 to v2047, keyed by register × 64 + lane (R164). -/
  vregs : SMap (BitVec 32)
  vEmpty : List Nat
  /-- Poisoned lanes, keyed as vregs (R256). -/
  vPoison : List Nat
  /-- p1 to p15 as lane sets (R164); p0 reads 1. -/
  preds : SMap (BitVec 64)
  pEmpty : List Nat
  /-- Poisoned predicate lanes, keyed by predicate × 64 + lane (R257). -/
  pPoison : List Nat
  rods : List LRod
  frontier : List Entry
  transom : Option Transom
  waits : List LatchWait
  /-- Rotations left of a PAUSE (R167). -/
  pause : Option Nat
  handler : Option Handler
  /-- Halted at a listed point or by a forced save (R406, R408). -/
  halted : Bool
  /-- The words of the point at which it halted (R41); none for a forced halt or an empty frontier. -/
  point : List (BitVec 64)
  /-- Late faults that its next selected word takes (R382). -/
  late : List TrapInfo
  /-- Writes of other rods that it has read from its core's L1 before they were performed (R297). -/
  observed : List Nat
  /-- The word index of a selected word that cannot issue yet: it stays selected (R143, R160). -/
  blocked : Option Nat
  /-- No word has issued: the check of ENTRY by R132 is still to be made. -/
  fresh : Bool
  deriving DecidableEq, Repr

/-- A unit that halted, or has nothing left to run (R406). -/
def RodUnit.stopped (u : RodUnit) : Bool := u.halted || u.frontier.isEmpty

/-- An empty logical rod at placement (R146, R164, R186, R228): EXM is all ones below RODW, TSC holds 0x7F7F (R65). -/
def LRod.initial (width : Nat) : LRod where
  sregs := []
  sEmpty := []
  sPoison := []
  exm := lowLanes width
  fpx := 0
  tsc := 0x7F7F
  satcnt := 0
  srseed := 0
  tcause := 0
  taddr := 0
  tscr0 := 0
  tscr1 := 0
  jobFault := none
  fetches := []

/-- The logical rod of the unit that lane `u` belongs to. -/
def rodOfLane (width u : Nat) : Nat := if width = 16 then u / 16 else 0

/-- The logical lane of the unit's lane `u` (R107). -/
def logicalLane (width u : Nat) : Nat := if width = 16 then u % 16 else u

/-- The unit lanes of one of its logical rods. -/
def rodLanes (width rod : Nat) : BitVec 64 :=
  if width = 16 then lowLanes 16 <<< (16 * rod) else lowLanes width

/-- A vector lane as read (R164). -/
def RodUnit.vec (u : RodUnit) (reg lane : Nat) : BitVec 32 := SMap.get 0 u.vregs (reg * 64 + lane)

/-- The even-odd pair of a vector lane as a 64-bit value (R120, R278). -/
def RodUnit.vecPair (u : RodUnit) (reg lane : Nat) : BitVec 64 := u.vec (reg + 1) lane ++ u.vec reg lane

/-- Whether a vector lane is marked poisoned. -/
def RodUnit.vecPoisoned (u : RodUnit) (reg lane : Nat) : Bool := memb (reg * 64 + lane) u.vPoison

/-- A predicate as a lane set; p0 reads 1 in every lane (R121). -/
def RodUnit.pred (u : RodUnit) (p : Nat) : BitVec 64 := if p = 0 then BitVec.allOnes 64 else SMap.get 0 u.preds p

/-- Whether a predicate lane is marked poisoned. -/
def RodUnit.predPoisoned (u : RodUnit) (p lane : Nat) : Bool := p != 0 && memb (p * 64 + lane) u.pPoison

/-- A scalar as read; s0 reads zero (R121). -/
def LRod.scl (r : LRod) (n : Nat) : BitVec 64 := if n = 0 then 0 else SMap.get 0 r.sregs n

/-- Whether a scalar is marked poisoned. -/
def LRod.sclPoisoned (r : LRod) (n : Nat) : Bool := n != 0 && memb n r.sPoison

/-- The logical rod at a place of the unit; a blank one where there is none. -/
def RodUnit.rod (u : RodUnit) (i : Nat) : LRod := (u.rods[i]?).getD (LRod.initial 32)

/-- Change one logical rod of the unit. -/
def RodUnit.setRod (u : RodUnit) (i : Nat) (g : LRod → LRod) : RodUnit := { u with rods := u.rods.modify i g }

/-- One write of a result into a register lane, a scalar, a predicate lane or a special register (R121, R165). -/
inductive RegWrite where
  | vec (reg lane : Nat) (val : BitVec 32) (poison : Bool)
  | scl (rod reg : Nat) (val : BitVec 64) (poison : Bool)
  | prd (p lane : Nat) (val poison : Bool)
  /-- A MOVS write of a special register, reserved bits already cleared (R212). -/
  | special (rod num : Nat) (val : BitVec 64)
  deriving DecidableEq, Repr

/-- Flags and clamps that a word or job merges into a logical rod (R187, R228). -/
structure FlagAdd where
  rod : Nat
  flags : BitVec 7
  clamps : Nat
  deriving DecidableEq, Repr

/-- Everything a register-to-register word does: its writes and the flags it merges. -/
structure Effect where
  writes : List RegWrite
  flags : List FlagAdd
  deriving DecidableEq, Repr

/-- The effect that changes nothing. -/
def Effect.none : Effect := { writes := [], flags := [] }

/-- Two effects, one after the other. -/
def Effect.append (a b : Effect) : Effect := { writes := a.writes ++ b.writes, flags := a.flags ++ b.flags }

/-- A write of a special register that software may write (R121, R146, R186, R228, R65, R181). -/
def LRod.setSpecial (r : LRod) (num : Nat) (v : BitVec 64) : LRod :=
  match num with
  | 0x1A => { r with exm := v }
  | 0x1B => { r with fpx := v }
  | 0x1D => { r with tsc := v }
  | 0x1E => { r with satcnt := v }
  | 0x1F => { r with srseed := v }
  | _ => r

/-- Carry out one write. A write to s0 or p0 is discarded (R121). -/
def RodUnit.applyWrite (u : RodUnit) : RegWrite → RodUnit
  | .vec reg lane val poison =>
    { u with vregs := SMap.set 0 u.vregs (reg * 64 + lane) val, vPoison := putNum poison (reg * 64 + lane) u.vPoison }
  | .scl rod reg val poison =>
    if reg = 0 then u else
      u.setRod rod (fun r => { r with sregs := SMap.set 0 r.sregs reg val, sPoison := putNum poison reg r.sPoison })
  | .prd p lane val poison =>
    if p = 0 then u else
      { u with preds := SMap.set 0 u.preds p (setBit (u.pred p) lane val), pPoison := putNum poison (p * 64 + lane) u.pPoison }
  | .special rod num val => u.setRod rod (fun r => r.setSpecial num val)

/-- COUNT of SATCNT raised by `n`, stopping at 0xFFFFFFFF (R228). -/
def addClamps (satcnt : BitVec 64) (n : Nat) : BitVec 64 := BitVec.ofNat 64 (min (satcnt.toNat + n) 0xFFFFFFFF)

/-- Merge flags and clamps into a logical rod (R187, R228). -/
def RodUnit.mergeFlags (u : RodUnit) (a : FlagAdd) : RodUnit :=
  u.setRod a.rod (fun r => { r with fpx := r.fpx ||| a.flags.setWidth 64, satcnt := addClamps r.satcnt a.clamps })

/-- Carry out an effect. -/
def RodUnit.apply (u : RodUnit) (e : Effect) : RodUnit :=
  e.flags.foldl RodUnit.mergeFlags (e.writes.foldl RodUnit.applyWrite u)

/-- Whether a register is empty; `rods` are the logical rods whose scalars are concerned (R164, R166). -/
def RodUnit.isEmpty (u : RodUnit) (rods : List Nat) (cls : OpClass) (n : Nat) : Bool :=
  match cls with
  | .vec => memb n u.vEmpty
  | .scl => n != 0 && rods.any (fun i => memb n (u.rod i).sEmpty)
  | .prd => n != 0 && decide (n < 16) && memb n u.pEmpty
  | .imm => false

/-- Mark a register empty or full (R165); s0, p0 and special registers have no bit (R164). -/
def RodUnit.mark (u : RodUnit) (empty : Bool) (rods : List Nat) (cls : OpClass) (n : Nat) : RodUnit :=
  match cls with
  | .vec => { u with vEmpty := putNum empty n u.vEmpty }
  | .scl => if n = 0 then u else
      rods.foldl (fun v i => v.setRod i (fun r => { r with sEmpty := putNum empty n r.sEmpty })) u
  | .prd => if n = 0 ∨ 16 ≤ n then u else { u with pEmpty := putNum empty n u.pEmpty }
  | .imm => u

/-! ## The frontier (R141, R142) -/

/-- Frontier order: priority descending, then word index ascending. -/
def Entry.before (a b : Entry) : Bool := decide (b.pri < a.pri) || (a.pri == b.pri && decide (a.pc < b.pc))

/-- An entry put into its place. -/
def insertEntry (e : Entry) : List Entry → List Entry
  | [] => [e]
  | x :: xs => if e.before x then e :: x :: xs else x :: insertEntry e xs

/-- Lanes that arrive at a word index: they join the entry there, which takes the larger priority (R142). -/
def arrive (fr : List Entry) (pc : Nat) (pri : BitVec 8) (lanes : BitVec 64) : List Entry :=
  if lanes = 0 then fr else
    match fr.find? (fun x => x.pc == pc) with
    | some x => insertEntry { pc := pc, pri := if x.pri < pri then pri else x.pri, lanes := x.lanes ||| lanes }
        (fr.filter (fun y => y.pc != pc))
    | none => insertEntry { pc := pc, pri := pri, lanes := lanes } fr

/-- The frontier without the entry at a word index. -/
def leave (fr : List Entry) (pc : Nat) : List Entry := fr.filter (fun x => x.pc != pc)

/-- The lanes that stand in some entry: the unit's live threads (R141). -/
def liveLanes (fr : List Entry) : BitVec 64 := fr.foldl (fun m x => m ||| x.lanes) 0

/-- Every lane of the entry at `e.pc` moves to the next word (R140, R142). -/
def RodUnit.advance (u : RodUnit) (e : Entry) : RodUnit :=
  { u with frontier := arrive (leave u.frontier e.pc) (e.pc + 1) e.pri e.lanes }

/-- The invariants of R141 as a check: entries sorted, no two at one word, lanes disjoint and non-empty. -/
def frontierOk : List Entry → Bool
  | [] => true
  | x :: xs => x.lanes != 0 && xs.all (fun y => x.before y && y.pc != x.pc && (x.lanes &&& y.lanes) == 0) && frontierOk xs

end Sys2Proof.Machine
end

