-- ==== Sys2Proof/Machine/Frames.lean ====
section
/-! DEFINITION. A resident frame: its identity, its bindings, its pane and board, and its units (R34, R51, R106 to R112). -/

namespace Sys2Proof.Machine

/-- A latch arrival that a job still has to make, kept over a save (R340): latch pane address, arrivals and sectors. -/
structure Arrival where
  latch : Nat
  sectors : Nat
  /-- Unit and logical rod that issued the job, and its word index, for a corrupt latch (R343). -/
  unit : Nat
  rod : Nat
  widx : Nat
  deriving DecidableEq, Repr

/-- A resident frame. Pane bytes are keyed by side × 2^20 + offset, board elements by side × 65536 + tile × 1024 + element. -/
structure Frame where
  node : Nat
  bay : Nat
  /-- 0 frame level, 1 bay supervisor, 2 steward (R378). -/
  level : Nat
  frameId : BitVec 32
  x : Nat
  y : Nat
  z : Nat
  karg : BitVec 64
  width : Nat
  /-- Logical rods (R34). -/
  rods : Nat
  vgran : Nat
  /-- Pane allocation in KiB. -/
  pane : Nat
  /-- Board allocation in tiles. -/
  board : Nat
  /-- Core sides: 1, or 2 for a pair frame (R106). -/
  sides : Nat
  /-- The cores of the sides, as numbers of the package. -/
  cores : List Nat
  /-- The bay core numbers of the sides (R96). -/
  bayCores : List Nat
  /-- Virtual address of word 0 of the kernel's code space and its length in words (R33, R34). -/
  codeBase : BitVec 64
  codeWords : Nat
  /-- Function table (R38). -/
  ftab : BitVec 64
  ftlen : Nat
  /-- Pre-emption point table (R41). -/
  ppt : BitVec 64
  /-- Slots f2 to f15 that are bound (R51). -/
  bindings : SMap Binding
  /-- Strip positions taken by slots, keyed by side × 16 + slot (R52, R70). -/
  positions : SMap Nat
  units : List RodUnit
  paneMem : SMap (BitVec 8)
  /-- Poisoned pane words, keyed by (side × 2^20 + offset) / 4 (R256). -/
  panePoison : List Nat
  tiles : SMap (BitVec 32)
  tilePoison : List Nat
  /-- RCLK.TICKS (R259). -/
  rclk : BitVec 64
  /-- A pre-emption asked its units to halt (R405). -/
  haltReq : Bool
  /-- Its save timer has reached PTO (R408). -/
  timedOut : Bool
  /-- Terminated with this cause (R388). -/
  term : Option Nat
  /-- Arrivals kept over a save and retried before any rod issues (R340). -/
  arrivals : List Arrival
  /-- It has exited and holds no allocation; jobs and accesses it issued are still under way (R85, R153). -/
  exited : Bool := false
  deriving DecidableEq, Repr, Inhabited

/-- The binding of a slot (R51): f0 and f1 are hardwired. -/
def Frame.slot (fr : Frame) (n : Nat) : Option Binding :=
  if n = 0 then some .fp32 else if n = 1 then some .int32 else SMap.find fr.bindings n

/-- A unit of the frame by its place. -/
def Frame.unit? (fr : Frame) (i : Nat) : Option RodUnit := fr.units[i]?

/-- The frame with one unit replaced. -/
def Frame.setUnit (fr : Frame) (i : Nat) (u : RodUnit) : Frame := { fr with units := fr.units.set i u }

/-- The core a side runs on. -/
def Frame.core (fr : Frame) (side : Nat) : Nat := (fr.cores[side]?).getD 0

end Sys2Proof.Machine
end

