-- ==== Sys2Proof/Machine/Operands.lean ====
section
/-! DEFINITION. Operand forms: which lanes a word acts in, and what each source gives (R120, R147, R193, R217, R257). -/

namespace Sys2Proof.Machine

/-- A word at its issue, after every check: the unit, the entry selected, the fields with overrides in place, the literal or
branch target a transom supplied, the lanes in which it acts and the logical rods concerned. -/
structure Issue where
  fr : Frame
  u : RodUnit
  e : Entry
  f : SFields
  lit : Option (BitVec 64)
  lbr : Option (BitVec 64)
  /-- The active lanes (R147), as a set. -/
  act : BitVec 64
  /-- Logical rods that take a scalar effect: by their guard for a uniform word, with an active lane otherwise. -/
  rods : List Nat
  /-- Added to the element index of stochastic rounding: 2048 in the second half of a pair (R181). -/
  ebase : Nat
  deriving DecidableEq, Repr

/-- The width of the frame. -/
def Issue.width (x : Issue) : Nat := x.fr.width

/-- The active lanes in ascending order. -/
def Issue.lanes (x : Issue) : List Nat := lanesOf x.act

/-- The logical rod of a lane. -/
def Issue.rodOf (x : Issue) (lane : Nat) : LRod := x.u.rod (rodOfLane x.width lane)

/-- A value read from a source and whether it is poisoned. -/
abbrev Src := Nat × Bool

/-- A source as a lane reads it, `w` bits wide: a register or pair, a scalar's low bits, the immediate given, or a literal. -/
def Issue.read (x : Issue) (cls : OpClass) (num w : Nat) (imm : BitVec 64) (lane : Nat) : Src :=
  match cls with
  | .vec => if w = 64 then ((x.u.vecPair num lane).toNat, x.u.vecPoisoned num lane || x.u.vecPoisoned (num + 1) lane)
      else ((x.u.vec num lane).toNat % 2 ^ w, x.u.vecPoisoned num lane)
  | .scl => let r := x.rodOf lane; ((r.scl num).toNat % 2 ^ w, r.sclPoisoned num)
  | .prd => ((if (x.u.pred num).getLsbD lane then 1 else 0), x.u.predPoisoned num lane)
  | .imm => (((x.lit.getD imm).toNat) % 2 ^ w, false)

/-- Source A in a lane. -/
def Issue.srcA (x : Issue) (w lane : Nat) : Src := x.read x.f.ac x.f.a.toNat w 0 lane

/-- Source B in a lane, with the given reading of the immediate. -/
def Issue.srcB (x : Issue) (w : Nat) (imm : BitVec 64) (lane : Nat) : Src := x.read x.f.bc x.f.b.toNat w imm lane

/-- The old destination in a lane. -/
def Issue.srcD (x : Issue) (w lane : Nat) : Src := x.read x.f.dc x.f.dst.toNat w 0 lane

/-- The first lane of the unit that belongs to a logical rod; a scalar form reads its sources there. -/
def Issue.laneOfRod (x : Issue) (rod : Nat) : Nat := if x.width = 16 then 16 * rod else 0

/-- The lowest lane of the entry that belongs to a logical rod (R147). -/
def lowestLaneOf (width : Nat) (lanes : BitVec 64) (rod : Nat) : Option Nat :=
  (lanesOf (lanes &&& rodLanes width rod)).head?

/-- The taking set of R147: the lanes of the entry whose EXM bit is 1 in their own logical rod. -/
def takingSet (width : Nat) (u : RodUnit) (lanes : BitVec 64) : BitVec 64 :=
  laneSet ((lanesOf lanes).filter (fun l => (u.rod (rodOfLane width l)).exm.getLsbD (logicalLane width l)))

/-- Whether a guard passes in a lane (R119, R147). -/
def guardPasses (u : RodUnit) (f : SFields) (lane : Nat) : Bool := (u.pred f.guard.toNat).getLsbD lane != f.gs

/-- The active lanes of a word (R147). -/
def activeLanes (width : Nat) (u : RodUnit) (f : SFields) (lanes : BitVec 64) : BitVec 64 :=
  laneSet ((lanesOf (takingSet width u lanes)).filter (guardPasses u f))

/-- The logical rods of the unit with a lane in the entry, in ascending order. -/
def rodsInEntry (width : Nat) (u : RodUnit) (lanes : BitVec 64) : List Nat :=
  (List.range u.rods.length).filter (fun i => (lowestLaneOf width lanes i).isSome)

/-- The logical rods for which a uniform word takes effect: its guard passes in their lowest lane of the entry (R147). -/
def uniformRods (width : Nat) (u : RodUnit) (f : SFields) (lanes : BitVec 64) : List Nat :=
  (rodsInEntry width u lanes).filter (fun i => match lowestLaneOf width lanes i with
    | some l => guardPasses u f l
    | none => false)

/-- The logical rods with an active lane. -/
def rodsActive (width : Nat) (u : RodUnit) (act : BitVec 64) : List Nat :=
  (List.range u.rods.length).filter (fun i => (act &&& rodLanes width i) != 0)

/-- The random bits for an element of a lane's result (R181): the logical rod's state at issue. -/
def Issue.rnd (x : Issue) (lane e : Nat) : Nat :=
  srBits (x.rodOf lane).srseed (if x.f.dc == .scl then 0 else logicalLane x.width lane) (x.ebase + e)

end Sys2Proof.Machine
end

