-- ==== Sys2Proof/Machine/Flags.lean ====
section
/-! DEFINITION. Flag computations: how results of lanes become writes and how their flags and clamps reach FPX and SATCNT
(R187, R228). -/

namespace Sys2Proof.Machine

/-- What a word computes for one lane or for one scalar result. -/
structure LaneRes where
  val : Nat
  poison : Bool := false
  flags : Flags := 0
  clamps : Nat := 0
  deriving DecidableEq, Repr

/-- The writes of a vector lane result: one register, or an even-odd pair (R120). -/
def vecWrites (wide : Bool) (reg lane : Nat) (r : LaneRes) : List RegWrite :=
  if wide then [.vec reg lane (BitVec.ofNat 32 r.val) r.poison, .vec (reg + 1) lane (BitVec.ofNat 32 (r.val / 2 ^ 32)) r.poison]
  else [.vec reg lane (BitVec.ofNat 32 r.val) r.poison]

/-- The flags of lane results, as the OR and the sum over the lanes of each logical rod (R187, R228). -/
def laneFlags (width : Nat) (rs : List (Nat × LaneRes)) : List FlagAdd :=
  rs.map (fun p => { rod := rodOfLane width p.1, flags := p.2.flags, clamps := p.2.clamps })

/-- A vector form: one result in each active lane (R191, R194). -/
def Issue.vecForm (x : Issue) (wide : Bool) (g : Nat → LaneRes) : Effect :=
  let rs := x.lanes.map (fun l => (l, g l))
  { writes := rs.flatMap (fun p => vecWrites wide x.f.dst.toNat p.1 p.2), flags := laneFlags x.width rs }

/-- Some lane of a logical rod is active. -/
def Issue.activeIn (x : Issue) (rod : Nat) : Bool := (x.act &&& rodLanes x.width rod) != 0

/-- A scalar form: one result for each logical rod that takes the effect (R147, R191); with no active lane it counts no clamp (R228,
R237).
Marked: DESIGN CHOICE, not safe, log 118. -/
def Issue.sclForm (x : Issue) (g : Nat → LaneRes) : Effect :=
  let rs := x.rods.map (fun i => (i, g (x.laneOfRod i)))
  { writes := rs.map (fun p => .scl p.1 x.f.dst.toNat (BitVec.ofNat 64 p.2.val) p.2.poison),
    flags := rs.map (fun p => { rod := p.1, flags := p.2.flags, clamps := if x.activeIn p.1 then p.2.clamps else 0 }) }

/-- A predicate form: one bit in each active lane. -/
def Issue.prdForm (x : Issue) (g : Nat → Bool × Bool) : Effect :=
  { writes := x.lanes.map (fun l => .prd x.f.dst.toNat l (g l).1 (g l).2), flags := [] }

/-- A clamp counts in SATCNT when a rounding into a slot sets SAT (R228). -/
def clampOf (f : Flags) : Nat := if f &&& fSAT = 0 then 0 else 1

/-- A lane result from a rounding into a slot. -/
def rounded (p : Nat × Flags) (extra : Flags) (poison : Bool) : LaneRes :=
  { val := p.1, poison := poison, flags := p.2 ||| extra, clamps := clampOf p.2 }

end Sys2Proof.Machine
end

