-- ==== Sys2Proof/Machine/AluFp.lean ====
section
/-! DEFINITION. What the FP32 and conversion words compute (R217 to R229), as effects on registers. -/

namespace Sys2Proof.Machine

/-- The FP32 encoding an immediate stands for (R217): its bits [31:10]. -/
def fpImm (f : SFields) : BitVec 64 := (f.imm ++ 0#10).setWidth 64

/-- The rounding mode of a word. -/
def Issue.rm (x : Issue) : RMode := RMode.ofCode (x.f.m 0 3)

/-- The saturation control of a word. -/
def Issue.sat (x : Issue) : Bool := x.f.m 3 1 == 1

/-- What an FP32 word computes from encodings a, b, d and 16 random bits: the result and its flags, and whether those flags
come from a rounding into the slot (R228). -/
abbrev FpOp := Nat → Nat → Nat → Nat → Nat × Flags

/-- A word of R217 in its vector or scalar form; `slot` tells whether a SAT flag is a clamp that counts (R228). -/
def fpWord (op : Issue → FpOp) (useB useD slot : Bool) (x : Issue) : Effect :=
  let lane (l : Nat) : LaneRes :=
    let a := x.srcA 32 l
    let b := if useB then x.srcB 32 (fpImm x.f) l else (0, false)
    let d := if useD then x.srcD 32 l else (0, false)
    let (r, fl) := op x a.1 b.1 d.1 (x.rnd l 0)
    { val := r, poison := a.2 || b.2 || d.2, flags := fl, clamps := if slot then clampOf fl else 0 }
  if x.f.dc == .scl then x.sclForm lane else x.vecForm false lane

/-- An exact result rounded once into FP32 with the flags raised before the rounding (R179, R218). -/
def roundFp (x : Issue) (rnd : Nat) (v : XVal × Flags) : Nat × Flags :=
  let (r, fl) := fp32.round x.rm x.sat rnd v.1
  (r, fl ||| v.2)

/-- FADD (R218). -/
def opFadd (x : Issue) : FpOp := fun a b _ rnd => roundFp x rnd ((fp32.decode a).add x.rm (fp32.decode b))
/-- FSUB (R218): a − b. -/
def opFsub (x : Issue) : FpOp := fun a b _ rnd => roundFp x rnd ((fp32.decode a).add x.rm (fp32.decode b).neg)
/-- FMUL (R218). -/
def opFmul (x : Issue) : FpOp := fun a b _ rnd => roundFp x rnd ((fp32.decode a).mul (fp32.decode b))
/-- The fused forms (R218): ±(a × b) ± d with one rounding; the NV of 0 × inf stands with any addend (R176). -/
def opFused (negP negD : Bool) (x : Issue) : FpOp := fun a b d rnd =>
  let (p, f1) := (fp32.decode a).mul (fp32.decode b)
  let dd := fp32.decode d
  let (s, f2) := (if negP then p.neg else p).add x.rm (if negD then dd.neg else dd)
  roundFp x rnd (s, f1 ||| f2)
/-- FDIV (R177, R218). -/
def opFdiv (x : Issue) : FpOp := fun a b _ rnd => roundFp x rnd ((fp32.decode a).div (fp32.decode b))
/-- FSQRT (R177, R218). -/
def opFsqrt (x : Issue) : FpOp := fun a _ _ rnd => roundFp x rnd (fp32.decode a).sqrt
/-- FRCP (R219). -/
def opFrcp (x : Issue) : FpOp := fun a _ _ rnd => roundFp x rnd (fp32.decode a).recip
/-- FRSQ (R219). -/
def opFrsq (x : Issue) : FpOp := fun a _ _ rnd => roundFp x rnd (fp32.decode a).rsqrt

/-- A word of R219 by its enclosure.
Marked: DESIGN CHOICE, safe, log 20. -/
def opElem (word : Nat) (enc : XVal → Enclosed) (x : Issue) : FpOp := fun a _ _ rnd =>
  roundEnclosed word a x.rm x.sat rnd (enc (fp32.decode a))
/-- FEXP2 (R219). -/
def opFexp2 : Issue → FpOp := opElem 0x4E encExp2
/-- FLOG2 (R219). -/
def opFlog2 : Issue → FpOp := opElem 0x4F encLog2
/-- FSIN (R219). -/
def opFsin : Issue → FpOp := opElem 0x50 encSin
/-- FCOS (R219). -/
def opFcos : Issue → FpOp := opElem 0x51 encCos
/-- FTANH (R219). -/
def opFtanh : Issue → FpOp := opElem 0x52 encTanh

/-- FRND (R220): integers are the representable values; no NX, UF or OF, and SAT never clamps. -/
def opFrnd (x : Issue) : FpOp := fun a _ _ rnd =>
  match fp32.decode a with
  | .nan => (0x7FC00000, 0)
  | .inf _ => (a, 0)
  | .fin neg n d e =>
    if n = 0 then (a, 0) else
      let (k, r, dd) := unitsOf n d e 0
      let c := chooseUnits x.rm neg rnd k r dd
      ((fp32.round .rne false 0 (.fin neg c 1 0)).1, 0)

/-- FLDEXP (R220): a × 2^S(b); exponents beyond ±1000 give the same result as ±1000.
Marked: DEDUCED, not safe, log 46. -/
def opFldexp (x : Issue) : FpOp := fun a b _ rnd =>
  match fp32.decode a with
  | .fin neg n d e =>
    if n = 0 then (a, 0) else roundFp x rnd (.fin neg n d (e + max (-1000) (min 1000 (signed 32 b))), 0)
  | v => roundFp x rnd (v, 0)

/-- FLDEXP reads B as an integer (R220).
Marked: DEDUCED, not safe, log 46. -/
def fldexpWord (x : Issue) : Effect :=
  let lane (l : Nat) : LaneRes :=
    let a := x.srcA 32 l
    let b := x.srcB 32 x.f.simm l
    let (r, fl) := opFldexp x a.1 b.1 0 (x.rnd l 0)
    { val := r, poison := a.2 || b.2, flags := fl, clamps := clampOf fl }
  if x.f.dc == .scl then x.sclForm lane else x.vecForm false lane

/-- By-value minimum or maximum of R221; −0 is below +0, and NaN gives way. -/
def fpMinMax (isMax : Bool) (a b : Nat) : Nat :=
  let va := fp32.decode a
  let vb := fp32.decode b
  if va.isNan && vb.isNan then 0x7FC00000
  else if va.isNan then b
  else if vb.isNan then a
  else
    let less := va.lt vb || (va.eqv vb && va.isZero && va.sign && !vb.sign)
    if less != isMax then a else b

/-- FMIN (R221). -/
def opFmin (_ : Issue) : FpOp := fun a b _ _ => (fpMinMax false a b, 0)
/-- FMAX (R221). -/
def opFmax (_ : Issue) : FpOp := fun a b _ _ => (fpMinMax true a b, 0)
/-- NaN made canonical for the sign words (R221). -/
def canonNan (a r : Nat) : Nat × Flags := (if (fp32.decode a).isNan then 0x7FC00000 else r, 0)
/-- FABS (R221). -/
def opFabs (_ : Issue) : FpOp := fun a _ _ _ => canonNan a (a % 2 ^ 31)
/-- FNEG (R221). -/
def opFneg (_ : Issue) : FpOp := fun a _ _ _ => canonNan a (a ^^^ 2 ^ 31)
/-- FSGN (R221). -/
def opFsgn (_ : Issue) : FpOp := fun a b _ _ => canonNan a (a % 2 ^ 31 + (if b.testBit 31 then 2 ^ 31 else 0))

/-- The eight conditions of R222. -/
def fpCond (cc a b : Nat) : Bool :=
  let va := fp32.decode a
  let vb := fp32.decode b
  let un := va.isNan || vb.isNan
  let lt := !un && va.lt vb
  let gt := !un && vb.lt va
  let eq := !un && !lt && !gt
  match cc with
  | 0 => eq
  | 1 => !eq
  | 2 => lt
  | 3 => lt || eq
  | 4 => gt
  | 5 => gt || eq
  | 6 => un
  | _ => !un

/-- FCMP (R222). -/
def fcmpWord (x : Issue) : Effect :=
  let test (l : Nat) : Bool × Bool :=
    let a := x.srcA 32 l
    let b := x.srcB 32 (fpImm x.f) l
    (fpCond (x.f.m 6 3) a.1 b.1, a.2 || b.2)
  match x.f.dc with
  | .prd => x.prdForm test
  | .scl => x.sclForm (fun l => let (t, p) := test l; { val := if t then 1 else 0, poison := p })
  | _ => x.vecForm false (fun l => let (t, p) := test l; { val := if t then 0xFFFFFFFF else 0, poison := p })

/-- FCLASS (R223). -/
def fclassWord (x : Issue) : Effect :=
  let cls (l : Nat) : Nat × Bool := let a := x.srcA 32 l; (fp32Class a.1, a.2)
  match x.f.dc with
  | .prd => x.prdForm (fun l =>
      let (c, p) := cls l
      (((x.lit.getD x.f.zimm).toNat % 512).testBit c, p))
  | .scl => x.sclForm (fun l => let (c, p) := cls l; { val := 2 ^ c, poison := p })
  | _ => x.vecForm false (fun l => let (c, p) := cls l; { val := 2 ^ c, poison := p })

/-- fa of CVT and CVTS (R224). -/
def cvtFa (f : SFields) : Nat := f.m 8 4
/-- fd of CVT, CVTS and DRAIN (R224, R313). -/
def cvtFd (f : SFields) : Nat := f.m 4 4

/-- The slot checks of R224 for the slots listed and the destination slot. -/
def slotCause (fr : Frame) (slots : List Nat) (fd rm : Nat) : Option Nat :=
  if slots.any (fun n => (fr.slot n).isNone) then some 0x340
  else if slots.any (fun n => match fr.slot n with
    | some b => b.block == 32
    | none => false) then some 0x341
  else match fr.slot fd with
    | some b => if b.hasMode rm then none else some 0x342
    | none => some 0x340

/-- The capture of R226 into s[31:0]: the larger by value of the old value and the largest magnitude. -/
def captureInto (old : BitVec 64) (m : XVal) : BitVec 64 :=
  let o := old.toNat % 2 ^ 32
  let o' := if (fp32.decode o).isNan then 0xFF800000 else o
  let mm := (fp32.round .ru false 0 m).1
  BitVec.ofNat 64 (fpMinMax true o' mm)

/-- The largest magnitude among decoded values that are finite or infinite (R226). -/
def largestMag : List XVal → Option XVal
  | [] => none
  | v :: vs =>
    let rest := largestMag vs
    if v.isNan then rest else
      match rest with
      | some m => some (if m.lt v.abs then v.abs else m)
      | none => some v.abs

/-- The values CVT and CVTS convert, per lane or per logical rod: place, source value, exact value and poison (R225). -/
structure CvtItem where
  lane : Nat
  src : XVal
  value : XVal × Flags
  poison : Bool
  deriving DecidableEq, Repr

/-- CVT and CVTS (R224 to R226).
Marked: DESIGN CHOICE, not safe, log 104 and 118. -/
def cvtWord (scaled : Bool) (x : Issue) : Except TrapInfo Effect :=
  let fa := cvtFa x.f
  let fd := cvtFd x.f
  match slotCause x.fr [fa, fd] fd (x.f.m 0 3), x.fr.slot fa, x.fr.slot fd with
  | none, some ba, some bd =>
    let item (l : Nat) : CvtItem :=
      let a := x.srcA 32 l
      let v := ba.decode (a.1 % 2 ^ ba.width)
      if scaled then
        let b := x.srcB 32 0 l
        { lane := l, src := v, value := scaledExact v (fp32.decode b.1), poison := a.2 || b.2 }
      else { lane := l, src := v, value := (v, 0), poison := a.2 }
    let res (i : CvtItem) : LaneRes :=
      let (r, fl) := bd.round (x.f.m 0 3) x.sat (x.rnd i.lane 0) i.value.1
      { val := r, poison := i.poison, flags := fl ||| i.value.2, clamps := clampOf fl }
    let out := if x.f.dc == .scl then x.sclForm (fun l => res (item l)) else x.vecForm false (fun l => res (item l))
    let amax (rod : Nat) : List RegWrite :=
      let ls := if x.f.dc == .scl then (if x.activeIn rod then [x.laneOfRod rod] else []) else lanesOf (x.act &&& rodLanes x.width rod)
      let items := ls.map item
      match largestMag (items.map CvtItem.src) with
      | some m =>
        let n := x.f.i 13 8
        [.scl rod n (captureInto ((x.u.rod rod).scl n) m)
          ((x.u.rod rod).sclPoisoned n || items.any (fun i => (x.srcA 32 i.lane).2))]
      | none => []
    .ok (if x.f.i 21 1 = 1 then { out with writes := out.writes ++ x.rods.flatMap amax } else out)
  | some k, _, _ => .error (trapOf k)
  | none, _, _ => .error (trapOf 0x340)

/-- PACK (R229). -/
def packWord (x : Issue) : Effect :=
  let w := x.f.packW
  x.vecForm false (fun l =>
    let js := List.range x.f.packN
    { val := js.foldl (fun acc j => acc + (x.u.vec (x.f.a.toNat + j) l).toNat % 2 ^ w * 2 ^ (j * w)) 0,
      poison := js.any (fun j => x.u.vecPoisoned (x.f.a.toNat + j) l) })

/-- UNPACK (R229). -/
def unpackWord (x : Issue) : Effect :=
  let w := x.f.packW
  { writes := x.lanes.flatMap (fun l =>
      let a := x.srcA 32 l
      (List.range x.f.packN).map (fun j =>
        let v := field a.1 (j * w) w
        .vec (x.f.dst.toNat + j) l (BitVec.ofNat 32 (if x.f.m 6 1 = 1 then signExtendTo w 32 v else v)) a.2)),
    flags := [] }

/-- SCALEB on an FP32 encoding and an exponent (R227); its SAT does not count in SATCNT. -/
def scalebOp (inv : Bool) (a : Nat) (emax : Int) : Nat × Flags :=
  let (code, fl) : Nat × Flags := match fp32.decode a with
    | .nan => (255, 0)
    | .inf _ => (254, fSAT)
    | .fin _ n d e =>
      if n = 0 then (127, 0) else
        let v := floorLog2 n d + e - emax + 127
        if v < 0 then (0, fSAT) else if 254 < v then (254, fSAT) else (v.toNat, 0)
  if inv then
    (if code = 255 then 0x7FC00000 else (fp32.round .rne false 0 (.fin false 1 1 (127 - (code : Int)))).1, fl)
  else (code, fl)

/-- SCALEB (R227). -/
def scalebWord (x : Issue) : Effect :=
  let lane (l : Nat) : LaneRes :=
    let a := x.srcA 32 l
    let b := x.srcB 32 x.f.simm l
    let (r, fl) := scalebOp (x.f.m 6 1 == 1) a.1 (signed 32 b.1)
    { val := r, poison := a.2 || b.2, flags := fl }
  if x.f.dc == .scl then x.sclForm lane else x.vecForm false lane

end Sys2Proof.Machine
end

