-- ==== Sys2Proof/Machine/AluInt.lean ====
section
/-! DEFINITION. What the scalar and integer words compute (R191 to R212), as effects on registers. -/

namespace Sys2Proof.Machine

/-- An operation of R194 on elements of `e` bits: a, b and the old destination give the result and the flags. -/
abbrev ElemOp := Nat → Nat → Nat → Nat → Nat × Flags

/-- Element width and count of a vector form (R192). -/
def ewShape (ew : Nat) : Nat × Nat :=
  match ew with
  | 1 => (8, 4)
  | 2 => (16, 2)
  | 3 => (64, 1)
  | _ => (32, 1)

/-- The lane value of an immediate (R193): sign-extended; in .B4 and .H2 its low e bits in every element. -/
def immLane (e n : Nat) (f : SFields) : BitVec 64 :=
  if n = 1 then f.simm
  else BitVec.ofNat 64 ((List.range n).foldl (fun acc i => acc + f.imm.toNat % 2 ^ e * 2 ^ (e * i)) 0)

/-- The elements of a lane value combined one by one (R171, R194). -/
def elementwise (op : ElemOp) (e n a b d : Nat) : Nat × Flags :=
  (List.range n).foldl (fun (acc : Nat × Flags) i =>
    let (r, fl) := op e (field a (e * i) e) (field b (e * i) e) (field d (e * i) e)
    (acc.1 + r % 2 ^ e * 2 ^ (e * i), acc.2 ||| fl)) (0, 0)

/-- A word of R194, in its vector or its scalar form; `useB` and `useD` tell whether it reads B and the old destination. -/
def intWord (op : ElemOp) (useA useB useD : Bool) (x : Issue) : Effect :=
  let (e, n) := if x.f.dc == .scl then (64, 1) else ewShape x.f.ew
  let w := e * n
  let lane (l : Nat) : LaneRes :=
    let a := if useA then x.srcA w l else (0, false)
    let b := if useB then x.srcB w (immLane e n x.f) l else (0, false)
    let d := if useD then x.srcD w l else (0, false)
    let (r, fl) := elementwise op e n a.1 b.1 d.1
    { val := r, poison := a.2 || b.2 || d.2, flags := fl }
  if x.f.dc == .scl then x.sclForm lane else x.vecForm x.f.isD lane

/-- An operation without flags. -/
def pureOp (g : Nat → Nat → Nat → Nat → Nat) : ElemOp := fun e a b d => (g e a b d, 0)

/-- IADD (R195). -/
def opIadd : ElemOp := pureOp fun e a b _ => (a + b) % 2 ^ e
/-- ISUB (R195). -/
def opIsub : ElemOp := pureOp fun e a b _ => wrapInt e ((a : Int) - b)
/-- IMUL (R195). -/
def opImul : ElemOp := pureOp fun e a b _ => a * b % 2 ^ e
/-- IMULH (R195): floor division. -/
def opImulh : ElemOp := pureOp fun e a b _ => wrapInt e ((signed e a * signed e b) / ((2 ^ e : Nat) : Int))
/-- UMULH (R195). -/
def opUmulh : ElemOp := pureOp fun e a b _ => a * b / 2 ^ e
/-- IMAD (R196). -/
def opImad : ElemOp := pureOp fun e a b d => wrapInt e ((d : Int) + signed e a * signed e b)
/-- INEG (R195). -/
def opIneg : ElemOp := pureOp fun e a _ _ => wrapInt e (-(signed e a))
/-- IABS (R195): the most negative value returns itself. -/
def opIabs : ElemOp := pureOp fun e a _ _ => wrapInt e ((signed e a).natAbs : Int)
/-- IMIN (R195). -/
def opImin : ElemOp := pureOp fun e a b _ => if signed e b < signed e a then b else a
/-- IMAX (R195). -/
def opImax : ElemOp := pureOp fun e a b _ => if signed e a < signed e b then b else a
/-- UMIN (R195). -/
def opUmin : ElemOp := pureOp fun _ a b _ => if b < a then b else a
/-- UMAX (R195). -/
def opUmax : ElemOp := pureOp fun _ a b _ => if a < b then b else a

/-- A clamp of an exact result to [lo, hi], raising SAT (R170). -/
def clampTo (e : Nat) (lo hi v : Int) : Nat × Flags :=
  if v < lo then (wrapInt e lo, fSAT) else if hi < v then (wrapInt e hi, fSAT) else (wrapInt e v, 0)

/-- ClampS of R195. -/
def clampS (e : Nat) (v : Int) : Nat × Flags := clampTo e (-((2 ^ (e - 1) : Nat) : Int)) (((2 ^ (e - 1) : Nat) : Int) - 1) v
/-- ClampU of R195. -/
def clampU (e : Nat) (v : Int) : Nat × Flags := clampTo e 0 (((2 ^ e : Nat) : Int) - 1) v

/-- IADDS (R195). -/
def opIadds : ElemOp := fun e a b _ => clampS e (signed e a + signed e b)
/-- ISUBS (R195). -/
def opIsubs : ElemOp := fun e a b _ => clampS e (signed e a - signed e b)
/-- UADDS (R195). -/
def opUadds : ElemOp := fun e a b _ => clampU e ((a : Int) + b)
/-- USUBS (R195). -/
def opUsubs : ElemOp := fun e a b _ => clampU e ((a : Int) - b)

/-- AND (R200). -/
def opAnd : ElemOp := pureOp fun _ a b _ => a &&& b
/-- OR (R200). -/
def opOr : ElemOp := pureOp fun _ a b _ => a ||| b
/-- XOR (R200). -/
def opXor : ElemOp := pureOp fun _ a b _ => a ^^^ b
/-- NOT (R200). -/
def opNot : ElemOp := pureOp fun e a _ _ => 2 ^ e - 1 - a
/-- ANDN (R200). -/
def opAndn : ElemOp := pureOp fun e a b _ => a &&& (2 ^ e - 1 - b)
/-- The count of a shift: bits [7:0] of B's element (R172). -/
def shiftCount (b : Nat) : Nat := b % 256
/-- SHL (R172). -/
def opShl : ElemOp := pureOp fun e a b _ => if shiftCount b < e then a * 2 ^ shiftCount b % 2 ^ e else 0
/-- SHR (R172). -/
def opShr : ElemOp := pureOp fun e a b _ => if shiftCount b < e then a / 2 ^ shiftCount b else 0
/-- SAR (R172): a count of the width or more leaves the sign bit everywhere. -/
def opSar : ElemOp := pureOp fun e a b _ => wrapInt e (signed e a / ((2 ^ min (shiftCount b) e : Nat) : Int))
/-- ROL (R172). -/
def opRol : ElemOp := pureOp fun e a b _ =>
  let n := shiftCount b % e
  a * 2 ^ n % 2 ^ e + a / 2 ^ (e - n)
/-- ROR (R172). -/
def opRor : ElemOp := pureOp fun e a b _ =>
  let n := shiftCount b % e
  a / 2 ^ n + a % 2 ^ n * 2 ^ (e - n) % 2 ^ e
/-- FSHR (R201). -/
def opFshr : ElemOp := pureOp fun e a b d =>
  if shiftCount b < 2 * e then (a * 2 ^ e + d) / 2 ^ shiftCount b % 2 ^ e else 0
/-- FSHL (R201). -/
def opFshl : ElemOp := pureOp fun e a b d =>
  if shiftCount b < 2 * e then (a * 2 ^ e + d) * 2 ^ shiftCount b % 2 ^ (2 * e) / 2 ^ e else 0

/-- pos of a bit field (R202). -/
def bfPos (b : Nat) : Nat := b % 256
/-- L = min(len, e) of a bit field (R202). -/
def bfLen (e b : Nat) : Nat := min (b / 256 % 256) e
/-- BFX (R202). -/
def opBfx : ElemOp := pureOp fun e a b _ =>
  if bfLen e b = 0 ∨ e ≤ bfPos b then 0 else a / 2 ^ bfPos b % 2 ^ bfLen e b
/-- BFXS (R202): bit L-1 of the field copied upward. -/
def opBfxs : ElemOp := pureOp fun e a b _ =>
  if bfLen e b = 0 ∨ e ≤ bfPos b then 0 else signExtendTo (bfLen e b) e (a / 2 ^ bfPos b % 2 ^ bfLen e b)
/-- BFI (R202). -/
def opBfi : ElemOp := pureOp fun e a b d =>
  if bfLen e b = 0 ∨ e ≤ bfPos b then d else
    let p := bfPos b
    let len := min (bfLen e b) (e - p)
    d % 2 ^ p + a % 2 ^ len * 2 ^ p + d / 2 ^ (p + len) * 2 ^ (p + len)

/-- POPC (R203). -/
def opPopc : ElemOp := pureOp fun e a _ _ => popCount e a
/-- CLZ (R203). -/
def opClz : ElemOp := pureOp fun e a _ _ => if a = 0 then e else e - 1 - Nat.log2 a
/-- CTZ (R203). -/
def opCtz : ElemOp := pureOp fun e a _ _ => lowestSet e a
/-- BREV (R203). -/
def opBrev : ElemOp := pureOp fun e a _ _ =>
  (List.range e).foldl (fun acc j => acc + (if a.testBit j then 2 ^ (e - 1 - j) else 0)) 0
/-- BSWAP (R203). -/
def opBswap : ElemOp := pureOp fun e a _ _ =>
  (List.range (e / 8)).foldl (fun acc j => acc + field a (8 * j) 8 * 2 ^ (8 * (e / 8 - 1 - j))) 0
/-- SEXT (R204). -/
def opSext : ElemOp := pureOp fun e a b _ =>
  let n := b % 256
  if n = 0 then 0 else if e ≤ n then a else signExtendTo n e a
/-- ZEXT (R204). -/
def opZext : ElemOp := pureOp fun e a b _ =>
  let n := b % 256
  if n = 0 then 0 else if e ≤ n then a else a % 2 ^ n

/-- SEXT and ZEXT: under .W source A is a single register or the low word of a scalar (R204). -/
def extWord (op : ElemOp) (x : Issue) : Effect :=
  if x.f.m 6 1 = 1 then
    x.vecForm true (fun l =>
      let a := x.srcA 32 l
      let b := x.srcB 64 x.f.simm l
      { val := (op 64 a.1 b.1 0).1, poison := a.2 || b.2 })
  else intWord op true true false x

/-- IDIV (R173, R197). -/
def opIdiv : ElemOp := fun e a b _ =>
  if b = 0 then (2 ^ e - 1, fDZ) else (wrapInt e (Int.tdiv (signed e a) (signed e b)), 0)
/-- IREM (R173, R197). -/
def opIrem : ElemOp := fun e a b _ =>
  if b = 0 then (a, fDZ) else (wrapInt e (Int.tmod (signed e a) (signed e b)), 0)
/-- UDIV (R173, R197). -/
def opUdiv : ElemOp := fun e a b _ => if b = 0 then (2 ^ e - 1, fDZ) else (a / b, 0)
/-- UREM (R173, R197). -/
def opUrem : ElemOp := fun _ a b _ => if b = 0 then (a, fDZ) else (a % b, 0)

/-- The predicate number of IADDC, ISUBB, SEL and the shuffles in mod[9:6]. -/
def predField (f : SFields) : Nat := f.m 6 4

/-- IADDC and ISUBB (R198): the carry or borrow chain through a predicate. -/
def carryWord (sub : Bool) (x : Issue) : Effect :=
  let e := if x.f.isD then 64 else 32
  let p := predField x.f
  let one (l : Nat) : LaneRes × Bool :=
    let a := x.srcA e l
    let b := x.srcB e x.f.simm l
    let c : Nat := if (x.u.pred p).getLsbD l then 1 else 0
    let t : Int := if sub then (a.1 : Int) - b.1 - c else (a.1 : Int) + b.1 + c
    ({ val := wrapInt e t, poison := a.2 || b.2 }, if sub then decide (t < 0) else decide (((2 ^ e : Nat) : Int) ≤ t))
  let v := x.vecForm x.f.isD (fun l => (one l).1)
  { v with writes := v.writes ++ x.lanes.map (fun l => .prd p l (one l).2 (one l).1.poison) }

/-- IDP4 and IDP2 (R199). -/
def dotWord (m w : Nat) (x : Issue) : Effect :=
  x.vecForm false (fun l =>
    let a := x.srcA 32 l
    let b := x.srcB 32 x.f.simm l
    let d := x.srcD 32 l
    let ext (isS : Bool) (v : Nat) : Int := if isS then signed w v else (v : Int)
    let t := (List.range m).foldl (fun (t : Int) i =>
      t + ext (x.f.m 6 1 == 1) (field a.1 (w * i) w) * ext (x.f.m 7 1 == 1) (field b.1 (w * i) w)) (signed 32 d.1)
    let (r, fl) := if x.f.m 3 1 = 1 then clampS 32 t else (wrapInt 32 t, 0)
    { val := r, poison := a.2 || b.2 || d.2, flags := fl })

/-- The six conditions of R205. -/
def condHolds (cc : Nat) (lt eq : Bool) : Bool :=
  match cc with
  | 0 => eq
  | 1 => !eq
  | 2 => lt
  | 3 => lt || eq
  | 4 => !(lt || eq)
  | _ => !lt

/-- ICMP and UCMP (R205). -/
def cmpWord (isSigned : Bool) (x : Issue) : Effect :=
  let (e, n) := if x.f.dc == .scl then (64, 1) else ewShape x.f.ew
  let cc := x.f.m 6 3
  let test (a b : Nat) : Bool :=
    let lt := if isSigned then decide (signed e a < signed e b) else decide (a < b)
    condHolds cc lt (a == b)
  let bits (l : Nat) : List Bool × Bool :=
    let a := x.srcA (e * n) l
    let b := x.srcB (e * n) (immLane e n x.f) l
    ((List.range n).map (fun i => test (field a.1 (e * i) e) (field b.1 (e * i) e)), a.2 || b.2)
  match x.f.dc with
  | .prd => x.prdForm (fun l =>
      let (bs, p) := bits l
      (if x.f.m 9 1 = 1 then bs.any id else bs.all id, p))
  | .scl => x.sclForm (fun l =>
      let (bs, p) := bits l
      { val := if bs.all id then 1 else 0, poison := p })
  | _ => x.vecForm x.f.isD (fun l =>
      let (bs, p) := bits l
      { val := (bs.foldr (fun (b : Bool) acc => acc * 2 ^ e + (if b then 2 ^ e - 1 else 0)) 0), poison := p })

/-- PLOP (R206). -/
def plopWord (x : Issue) : Effect :=
  x.prdForm (fun l =>
    let a := x.srcA 1 l
    let b := x.srcB 1 0 l
    (x.f.mod.toNat.testBit (2 * a.1 + b.1), a.2 || b.2))

/-- PSET (R207). -/
def psetWord (x : Issue) : Effect :=
  x.prdForm (fun l =>
    if x.f.ac == .vec then
      let a := x.srcA 32 l
      (a.1 != 0, a.2)
    else
      let a := x.srcA 64 l
      (a.1.testBit (logicalLane x.width l), a.2))

/-- The predicate bits of a logical rod by logical lane, and whether any is poisoned. -/
def predOfRod (x : Issue) (p rod : Nat) : Nat × Bool :=
  let ls := lanesOf (rodLanes x.width rod)
  (ls.foldl (fun acc l => if (x.u.pred p).getLsbD l then acc + 2 ^ logicalLane x.width l else acc) 0,
   ls.any (fun l => x.u.predPoisoned p l))

/-- PGET (R207).
Marked: DEDUCED, not safe, log 35. -/
def pgetWord (x : Issue) : Effect :=
  if x.f.dc == .scl then
    { writes := x.rods.map (fun i =>
        let (v, p) := predOfRod x x.f.a.toNat i
        .scl i x.f.dst.toNat (BitVec.ofNat 64 v) p), flags := [] }
  else x.vecForm false (fun l => let a := x.srcA 1 l; { val := a.1, poison := a.2 })

/-- SEL (R209): the scalar form reads its predicate in the lane that R147 uses for the guard. -/
def selWord (x : Issue) : Effect :=
  let p := predField x.f
  let pick (w l pl : Nat) : LaneRes :=
    let r := if (x.u.pred p).getLsbD pl then x.srcA w l else x.srcB w x.f.simm l
    { val := r.1, poison := r.2 }
  if x.f.dc == .scl then
    let rs := x.rods.map (fun i => (i, pick 64 (x.laneOfRod i) ((lowestLaneOf x.width x.e.lanes i).getD 0)))
    { writes := rs.map (fun q => .scl q.1 x.f.dst.toNat (BitVec.ofNat 64 q.2.val) q.2.poison), flags := [] }
  else x.vecForm x.f.isD (fun l => pick (if x.f.isD then 64 else 32) l l)

/-- LEA (R210). -/
def leaWord (x : Issue) : Effect :=
  let lane (l : Nat) : LaneRes :=
    let a := x.srcA 64 l
    let b : Src := match x.f.bc with
      | .vec => let r := x.srcB 32 0 l; (if x.f.m 9 1 = 1 then r.1 else signExtendTo 32 64 r.1, r.2)
      | _ => x.srcB 64 x.f.simm l
    let off := if x.f.bc == .imm then 0 else x.f.simm.toNat
    { val := (a.1 + b.1 * 2 ^ x.f.m 6 3 + off) % 2 ^ 64, poison := a.2 || b.2 }
  if x.f.dc == .scl then x.sclForm lane else x.vecForm true lane

/-- The value of a special register for a lane (R121, R211). -/
def specialValue (x : Issue) (n lane : Nat) : BitVec 64 :=
  let r := x.rodOf lane
  match n with
  | 0x10 => BitVec.ofNat 64 (logicalLane x.width lane)
  | 0x11 => BitVec.ofNat 64 (x.u.rodBase + rodOfLane x.width lane)
  | 0x12 => BitVec.ofNat 64 x.width
  | 0x13 => 32
  | 0x14 => x.fr.frameId.setWidth 64
  | 0x15 => BitVec.ofNat 64 x.fr.x
  | 0x16 => BitVec.ofNat 64 x.fr.y
  | 0x17 => BitVec.ofNat 64 x.fr.z
  | 0x18 => x.fr.karg
  | 0x19 => BitVec.ofNat 64 ((x.fr.bayCores[x.u.side]?).getD 0)
  | 0x1A => r.exm
  | 0x1B => r.fpx
  | 0x1C => x.fr.rclk
  | 0x1D => r.tsc
  | 0x1E => r.satcnt
  | _ => r.srseed

/-- MOVS reading (R211). -/
def movsReadWord (x : Issue) : Effect :=
  let lane (l : Nat) : LaneRes := { val := (specialValue x x.f.a.toNat l).toNat }
  if x.f.dc == .scl then x.sclForm lane else x.vecForm x.f.isD lane

/-- The bits of a writable special register that a write reaches (R65, R146, R186, R228, R181). -/
def specialMask (width n : Nat) : BitVec 64 :=
  match n with
  | 0x1A => lowLanes width
  | 0x1B => 0x7F7F
  | 0x1D => 0xFFFF
  | 0x1E => 0xFFFFFFFF
  | _ => BitVec.allOnes 64

/-- MOVS writing (R212). -/
def movsWriteWord (x : Issue) : Effect :=
  { writes := x.rods.map (fun i =>
      let v := BitVec.ofNat 64 (x.srcB 64 x.f.simm (x.laneOfRod i)).1
      .special i x.f.dst.toNat (v &&& specialMask x.width x.f.dst.toNat)), flags := [] }

end Sys2Proof.Machine
end

