-- ==== Sys2Proof/Machine/AluLane.lean ====
section
/-! DEFINITION. What the cross-lane words compute (R230 to R236), as effects on registers, and the halves of a pair word. -/

namespace Sys2Proof.Machine

/-- The unit lane at a logical lane of a logical rod. -/
def unitLane (width rod logical : Nat) : Nat := if width = 16 then 16 * rod + logical else logical

/-- The source position of a shuffle (R231): none below lane 0. -/
def shflSource (kind logical d : Nat) : Option Nat :=
  match kind with
  | 0 => some d
  | 1 => if d ≤ logical then some (logical - d) else none
  | 2 => some (logical + d)
  | _ => some ((logical ^^^ d) % 2 ^ 64)

/-- The unit lane a shuffle reads, when it is valid: below RODW and a participant (R231). -/
def validSource (x : Issue) (lane : Nat) (j : Option Nat) : Option Nat :=
  match j with
  | some j =>
    let ul := unitLane x.width (rodOfLane x.width lane) j
    if j < x.width ∧ x.act.getLsbD ul then some ul else none
  | none => none

/-- A word in which each participant takes one lane's value or its own, with the validity predicate (R231, R232). -/
def moveWord (src : Issue → Nat → Option Nat) (x : Issue) : Effect :=
  let wide := x.f.isD
  let v := x.vecForm wide (fun l =>
    let from_ := (src x l).getD l
    let a := x.srcA (if wide then 64 else 32) from_
    { val := a.1, poison := a.2 })
  { v with writes := v.writes ++ x.lanes.map (fun l => .prd (predField x.f) l (src x l).isSome false) }

/-- SHFL, SHFLU, SHFLD and SHFLX by kind 0 to 3 (R231). A poisoned distance marks the lane's result. -/
def shflWord (kind : Nat) (x : Issue) : Effect :=
  let dist (l : Nat) : Src := x.srcB 32 x.f.zimm l
  let src (x : Issue) (l : Nat) : Option Nat :=
    let d := (dist l).1
    let d' := if x.f.m 10 1 = 1 then d * x.width / 64 else d
    validSource x l (shflSource kind (logicalLane x.width l) d')
  let e := moveWord src x
  { e with writes := e.writes.map (fun w => match w with
      | .vec r l v p => .vec r l v (p || (dist l).2)
      | .prd n l v p => .prd n l v (p || (dist l).2)
      | w => w) }

/-- BCST (R232): one lane to every participant, or to a scalar of each logical rod.
Marked: DEDUCED, not safe, log 35. -/
def bcstWord (x : Issue) : Effect :=
  let src (x : Issue) (l : Nat) : Option Nat := validSource x l (some (x.srcB 64 x.f.zimm l).1)
  if x.f.dc == .scl then
    { writes := x.rods.map (fun i =>
        let l := x.laneOfRod i
        let b := x.srcB 64 x.f.zimm l
        match validSource x l (some b.1) with
        | some j =>
          let a := x.srcA (if x.f.isD then 64 else 32) j
          .scl i x.f.dst.toNat (BitVec.ofNat 64 a.1) (a.2 || b.2)
        | none => .scl i x.f.dst.toNat 0 b.2), flags := [] }
  else
    let e := moveWord src x
    { e with writes := e.writes.map (fun w => match w with
        | .vec r l v p => .vec r l v (p || (x.srcB 64 x.f.zimm l).2)
        | .prd n l v p => .prd n l v (p || (x.srcB 64 x.f.zimm l).2)
        | w => w) }

/-- The participants of a logical rod in ascending order. -/
def participants (x : Issue) (rod : Nat) : List Nat := lanesOf (x.act &&& rodLanes x.width rod)

/-- VOTE (R233). -/
def voteResult (x : Issue) (rod : Nat) : Nat :=
  let ls := participants x rod
  let p (l : Nat) : Bool := (x.u.pred x.f.a.toNat).getLsbD l
  match x.f.m 6 2 with
  | 0 => if ls.all p then 1 else 0
  | 1 => if ls.any p then 1 else 0
  | 2 => if ls.all p || ls.all (fun l => !p l) then 1 else 0
  | _ => ls.foldl (fun acc l => if p l then acc + 2 ^ logicalLane x.width l else acc) 0

/-- VOTE (R233); a poisoned tested predicate has been consumed before.
Marked: DEDUCED, not safe, log 35. -/
def voteWord (x : Issue) : Effect :=
  if x.f.dc == .scl then
    { writes := x.rods.map (fun i => .scl i x.f.dst.toNat (BitVec.ofNat 64 (voteResult x i)) false), flags := [] }
  else x.prdForm (fun l => (voteResult x (rodOfLane x.width l) == 1, false))

/-- ELECT (R234).
Marked: DEDUCED, not safe, log 35. -/
def electWord (x : Issue) : Effect :=
  if x.f.dc == .scl then
    { writes := x.rods.filterMap (fun i => (participants x i).head?.map (fun l =>
        .scl i x.f.dst.toNat (BitVec.ofNat 64 (logicalLane x.width l)) false)), flags := [] }
  else x.prdForm (fun l => ((participants x (rodOfLane x.width l)).head? == some l, false))

/-- The 32-bit combinations of PSCAN (R235). -/
def scanOp (op a b : Nat) : Nat :=
  match op with
  | 0 => (a + b) % 2 ^ 32
  | 1 => if signed 32 b < signed 32 a then b else a
  | 2 => if signed 32 a < signed 32 b then b else a
  | 3 => min a b
  | 4 => max a b
  | 5 => a &&& b
  | 6 => a ||| b
  | _ => a ^^^ b

/-- The identities of R235. -/
def scanId (op : Nat) : Nat :=
  match op with
  | 1 => 0x7FFFFFFF
  | 2 => 0x80000000
  | 3 => 0xFFFFFFFF
  | 5 => 0xFFFFFFFF
  | _ => 0

/-- PSCAN (R235). -/
def pscanWord (x : Issue) : Effect :=
  x.vecForm false (fun l =>
    let ls := (participants x (rodOfLane x.width l)).filter (fun m => decide (m < l) || (m == l && x.f.m 9 1 == 1))
    ls.foldl (fun (acc : LaneRes) m =>
      let a := x.srcA 32 m
      { val := scanOp (x.f.m 6 3) acc.val a.1, poison := acc.poison || a.2 }) { val := scanId (x.f.m 6 3) })

/-- Combine of R236 at logical position `i` and step number `k`. -/
def lredCombine (x : Issue) (seed : BitVec 64) (i k a b : Nat) : Nat × Flags :=
  match x.f.m 6 3 with
  | 5 =>
    let (s, f1) := (fp32.decode a).add x.rm (fp32.decode b)
    let (r, f2) := fp32.round x.rm false (srBits seed i k) s
    (r, f1 ||| f2)
  | 6 => (fpMinMax false a b, 0)
  | 7 => (fpMinMax true a b, 0)
  | op => (scanOp op a b, 0)

/-- One level of the tree: positions 2·step apart, flags collected. -/
def lredLevel (x : Issue) (seed : BitVec 64) (k : Nat) : Nat → List (Option (Nat × Bool)) → List (Option (Nat × Bool)) × Flags
  | i, a :: b :: rest =>
    let (tl, fl) := lredLevel x seed k (i + 2 * 2 ^ k) rest
    match a, b with
    | some p, some q =>
      let (r, f) := lredCombine x seed i k p.1 q.1
      (some (r, p.2 || q.2) :: tl, f ||| fl)
    | none, some q => (some q :: tl, fl)
    | p, none => (p :: tl, fl)
  | _, l => (l, 0)

/-- The levels of LogStep (R236). -/
def lredTree (x : Issue) (seed : BitVec 64) : Nat → Nat → List (Option (Nat × Bool)) → Option (Nat × Bool) × Flags
  | 0, _, l => ((l.head?).getD none, 0)
  | fuel + 1, k, l =>
    if l.length ≤ 1 then ((l.head?).getD none, 0) else
      let (l', f) := lredLevel x seed k 0 l
      let (r, g) := lredTree x seed fuel (k + 1) l'
      (r, f ||| g)

/-- LRED (R236).
Marked: DEDUCED, not safe, log 35. -/
def lredWord (x : Issue) : Effect :=
  let result (rod : Nat) : Option (Nat × Bool) × Flags :=
    let leaves := (List.range x.width).map (fun i =>
      let l := unitLane x.width rod i
      if x.act.getLsbD l then some (x.srcA 32 l) else none)
    lredTree x (x.u.rod rod).srseed 6 0 leaves
  let fl := x.rods.map (fun i => { rod := i, flags := (result i).2, clamps := 0 : FlagAdd })
  if x.f.dc == .scl then
    { writes := x.rods.filterMap (fun i => (result i).1.map (fun r => .scl i x.f.dst.toNat (BitVec.ofNat 64 r.1) r.2)),
      flags := fl }
  else
    { writes := x.lanes.filterMap (fun l => (result (rodOfLane x.width l)).1.map (fun r =>
        .vec x.f.dst.toNat l (BitVec.ofNat 32 r.1) r.2)), flags := fl }

/-! ## Pair halves (R128) -/

/-- The fields of the single word a half stands for: 32-bit vector form, SAT 0, its rounding mode. -/
def halfFields (h : Half) : SFields where
  gs := false
  guard := h.guard
  dc := .vec
  dst := h.dst
  ac := .vec
  a := h.a
  bc := .vec
  b := if h.op = .mov then h.a else h.b
  ae := halfAe h
  be := halfBe h
  mod := BitVec.ofNat 12 (halfRm h)
  hints := 0
  imm := 0

/-- The effect of a half (R127, R128). -/
def halfEffect (op : HalfOp) (x : Issue) : Effect :=
  match op with
  | .fadd => fpWord opFadd true false true x
  | .fsub => fpWord opFsub true false true x
  | .fmul => fpWord opFmul true false true x
  | .fma => fpWord (opFused false false) true true true x
  | .fmin => fpWord opFmin true false false x
  | .fmax => fpWord opFmax true false false x
  | .fabs => fpWord opFabs false false false x
  | .iadd => intWord opIadd true true false x
  | .isub => intWord opIsub true true false x
  | .imul => intWord opImul true true false x
  | .imad => intWord opImad true true true x
  | .imin => intWord opImin true true false x
  | .imax => intWord opImax true true false x
  | .umin => intWord opUmin true true false x
  | .umax => intWord opUmax true true false x
  | .and => intWord opAnd true true false x
  | .or => intWord opOr true true false x
  | .xor => intWord opXor true true false x
  | .shl => intWord opShl true true false x
  | .shr => intWord opShr true true false x
  | .sar => intWord opSar true true false x
  | .mov => intWord (pureOp fun _ _ b _ => b) false true false x
  | .fneg => fpWord opFneg false false false x
  | .fexp2 => fpWord opFexp2 false false true x
  | .flog2 => fpWord opFlog2 false false true x
  | .frcp => fpWord opFrcp false false true x
  | .frsq => fpWord opFrsq false false true x
  | .fsin => fpWord opFsin false false true x
  | .fcos => fpWord opFcos false false true x
  | .fsqrt => fpWord opFsqrt false false true x

end Sys2Proof.Machine
end

