-- ==== Sys2Proof/Machine/Parts.lean ====
section
/-! DEFINITION. The records the state is made of beyond rods and frames: memory, caches, operations in flight, jobs, the
matrix queue, nodes, bays and the chip (chapters 1, 4, 5, 12 to 22). -/

namespace Sys2Proof.Machine

/-! ## Memory operations in flight (chapters 14 and 15) -/

/-- The memory words of row 0x8 and the accesses other steps make in their manner. -/
inductive OpKind where
  | load | store | atomic | compareSwap | reduce | elemLoad | elemStore
  /-- PF; it orders nothing (R280). -/
  | fetch
  /-- LINIT, LARR, LEXP or LREG whose update waits for earlier words (R347, R351). -/
  | latch
  deriving DecidableEq, Repr

/-- A latch's fields (R341). -/
structure LatchVal where
  sec : Nat
  arr : Nat
  rld : Nat
  reg : Nat
  obs : Nat
  rsv : Nat
  ph : Nat
  deriving DecidableEq, Repr

/-- What a latch word does to a latch (R346 to R348). -/
inductive LatchAct where
  | update (arrivals sectors : Nat)
  | init (v : LatchVal)
  | register
  | withdraw
  deriving DecidableEq, Repr

/-- One lane's access of a memory word: where it goes and what it carries. -/
structure LaneAccess where
  /-- The unit lane; its logical rod's first lane for a scalar word. -/
  lane : Nat
  /-- Pane key (side × 2^20 + offset) or physical address LOCAL; private accesses have one record for each 4-byte unit. -/
  addr : Nat
  /-- PKG of the physical address, KEYID, and whether it is a pane access. -/
  pkg : Nat
  key : Nat
  pane : Bool
  /-- The virtual address, for faults returned late (R382, R435). -/
  va : BitVec 64
  size : Nat
  /-- Bit offset of this part within the lane's value. -/
  part : Nat
  /-- Bit offset and bit width of a packed element (R279); 0 and 8 × size otherwise. -/
  bitOff : Nat
  bits : Nat
  /-- Data or operand; compare value of ATOMC. -/
  data : BitVec 128
  cmp : BitVec 128
  poison : Bool
  /-- Every check of R246 is passed; for another package's memory those of the home too (R360). -/
  ok : Bool
  /-- Performed. -/
  done : Bool
  /-- The value read, where one is read, and whether it was poisoned. -/
  got : BitVec 128
  gotPoison : Bool
  deriving DecidableEq, Repr

/-- A memory word that has issued (R276 to R284). -/
structure MemOp where
  frame : Nat
  unit : Nat
  kind : OpKind
  /-- The logical rod for a scalar word, none for a word by lanes. -/
  rod : Option Nat
  scope : Nat
  order : Nat
  k : Nat
  /-- OP of an atomic, SIZE of a load, .L1 of a prefetch. -/
  op : Nat
  /-- The destination, for a word that returns values. -/
  dst : Option (OpClass × Nat)
  /-- Bytes of an access. -/
  size : Nat
  /-- Claimant and core (R263). -/
  core : Nat
  quarter : Nat
  clm : Nat
  bay : Nat
  pc : Nat
  acc : List LaneAccess
  /-- The SC ticket, once granted (R284). -/
  ticket : Option Nat
  /-- The producer whose destination the values fill, for a word that returns them. -/
  producer : Option Nat
  /-- A fault a remote home returned (R360, R382). -/
  failed : Option Nat
  /-- What each access of a latch word does to its latch. -/
  latch : List LatchAct := []
  /-- The counters it has counted in since its issue, with the events of each: a word that faults late counts in none of them
  (R423). -/
  counts : List (Nat × Nat) := []
  deriving DecidableEq, Repr

/-- A FENCE in progress or complete for the words behind it (R285): a fence event of each logical rod that takes it (R287). -/
structure FenceRec where
  frame : Nat
  unit : Nat
  /-- The lanes of the logical rods that take it. -/
  lanes : BitVec 64
  order : Nat
  scope : Nat
  ticket : Option Nat
  /-- The number of the FENCE word, which takes one ticket for all its logical rods (R284, R287). -/
  word : Nat
  deriving DecidableEq, Repr

/-- A long-latency producer in flight (R163, R165): the registers it marked empty and what it will do. -/
structure Producer where
  frame : Nat
  unit : Nat
  /-- Logical rods whose scalars are concerned. -/
  rods : List Nat
  dests : List (OpClass × Nat)
  effect : Effect
  /-- What it waits for besides time: nothing, or the step that fills it. -/
  ready : Bool
  /-- It ended in a fault: no lane is written (R165). -/
  faulted : Bool
  deriving DecidableEq, Repr

/-! ## Caches (chapters 12, 13 and 19) -/

/-- CLS of a line record (R264). -/
inductive LineClass where
  | empty | dead | timed | due | lapsed | keep
  deriving DecidableEq, Repr

/-- Permissions of a guest line (R362). -/
inductive GuestPerm where
  | s | e | o | m
  deriving DecidableEq, Repr

/-- A line present in a slice (R252, R264): a line of this package in its home slice, keyed by its LOCAL line number, or a
guest line of package q, keyed by 2^43 + q × 2^37 + LOCAL line (R362).
Marked: DESIGN CHOICE, not safe, log 14. -/
structure L2Line where
  slice : Nat
  set : Nat
  way : Nat
  data : BitVec 1024
  poison : Bool
  dirty : Bool
  /-- The permission of a guest line; none for a line of this package. -/
  guest : Option GuestPerm
  key : Nat
  /-- The owner's clock: bay 0 to 11, or 12 for BRC[S]. -/
  bay : Nat
  pins : List Nat
  decl : Bool
  cls : LineClass
  clm : Nat
  stamp : Nat
  wts : Nat
  rts : Nat
  deriving DecidableEq, Repr

/-- An L1 copy of a core (R252, R271), keyed by core × 2^52 + the line's key. -/
structure L1Copy where
  set : Nat
  way : Nat
  key : Nat
  data : BitVec 1024
  poison : Bool
  rts : Nat
  deriving DecidableEq, Repr

/-- A cached translation (R247): bay or steward core 12, the die whose caches keep it (4 beside the compute dies), virtual page number
in 64 KiB units, log2 of the page size, leaf. -/
structure TlbEntry where
  bay : Nat
  /-- The cache that keeps it: the first-level one of a core, 0 to 255, 256 for the steward core, or 512 and a die for that die's
  last-level one. -/
  unit : Nat
  page : Nat
  logSize : Nat
  leaf : BitVec 64
  deriving DecidableEq, Repr

/-- A request of another package as it arrives at this home: for ownership or for a read, the package, the LOCAL line, the
requester's number for it, KEYID, distance code, channel and logical time (R360, R366), and one more than the domain ticket of an SC
word, 0 for any other (R284, R368). -/
structure HomeReq where
  own : Bool
  pkg : Nat
  line : Nat
  req : Nat
  key : Nat
  k : Nat
  ch : Nat
  cts : Nat
  ticket : Nat
  deriving DecidableEq, Repr

/-- What a home transaction of a line does once the answers it waits for have come (R366, R367, R371). -/
inductive TxnKind where
  /-- A read by the home package after a recall. -/
  | homeRead
  /-- A write by the home package after a recall. -/
  | homeWrite
  /-- A write by the home package in SHR: applied at once, performed at SYS when the invalidations are acknowledged (R368). -/
  | sharedWrite
  /-- A remote read by a package, to be answered on a channel. -/
  | remoteRead (r : HomeReq)
  /-- An ownership request of a package. -/
  | remoteOwn (r : HomeReq)
  /-- A sill being rebuilt. -/
  | rebuild
  /-- The owner under O is lost: its sharers are invalidated first (R370). -/
  | lost
  deriving DecidableEq, Repr

/-- A home transaction that waits for other packages (R366, R367), keyed by LOCAL line. -/
structure HomeTxn where
  kind : TxnKind
  /-- Packages whose acknowledgements are awaited. -/
  waits : List Nat
  /-- Dirty data that has come back, and its poison. -/
  dirty : Option (BitVec 1024 × Bool)
  /-- Who of this package waits for its end: none for the memory words, a bay for its walks, fetches, jobs and copies. -/
  askers : List (Option Nat) := []
  deriving DecidableEq, Repr

/-- A request of this package to another (R360, R362), keyed as guest lines: what it asks and for which operation's piece; a
request that no memory operation makes has operation 0 and its line's key as the piece. -/
structure Ask where
  own : Bool
  op : Nat
  piece : Nat
  /-- The bay that asks, and the KEYID of its access. -/
  bay : Nat
  key : Nat
  /-- A tile fetch waits for it: the fill waits for no pin (R267). -/
  fetch : Bool := false
  deriving DecidableEq, Repr

/-- A failure that another package's home, or a failed path, returned for a line that no memory word asked for: for the accesses of one
bay under one KEYID, reads or writes (R360, R370). -/
structure Denial where
  line : Nat
  bay : Nat
  key : Nat
  write : Bool
  cause : Nat
  deriving DecidableEq, Repr

/-- A write-back or clean notice that has reached this home while a transaction of its line is open (R367). -/
structure HeldBack where
  pkg : Nat
  line : Nat
  dirty : Option (BitVec 1024 × Bool)
  deriving DecidableEq, Repr

/-- Messages sent to other packages, each on a channel `ch` (R359, R360, R366 to R368); `ticket` is one more than the domain ticket of
an SC word, 0 for any other. -/
inductive Message where
  | readReq (pkg line ch key k cts ticket : Nat)
  | ownReq (pkg line ch key k cts ticket : Nat)
  | data (pkg line req ch perm : Nat) (bytes : BitVec 1024) (poison : Bool) (wts rts : Nat)
  | failure (pkg line req ch cause : Nat)
  | inval (pkg line ch : Nat)
  | recall (pkg line ch : Nat) (keep : Bool)
  | fwd (owner line ch requester : Nat) (keep : Bool)
  | ack (pkg line ch : Nat) (dirty : Option (BitVec 1024 × Bool))
  | writeBack (pkg line ch : Nat) (bytes : BitVec 1024) (poison : Bool)
  | cleanNotice (pkg line ch : Nat)
  /-- An SC word at SYS asks the sequencer of package SEQPKG for its ticket (R368). -/
  | ticketReq (pkg ch : Nat)
  deriving DecidableEq, Repr

/-! ## Jobs and the matrix queue (chapters 16 and 17) -/

/-- A window as the part holds it (R79, R327). -/
structure Window where
  pane : Bool
  base : Nat
  rows : Nat
  len : Nat
  stride : Nat
  deriving DecidableEq, Repr

/-- A reference to a latch: its pane address, or none (R312). -/
abbrev LatchRef := Option Nat

/-- A run of bytes of a row as checked at issue: its virtual address, line, key, offset and length; in the pane, `off` is the
pane key. -/
structure RowRun where
  va : BitVec 64
  line : Nat
  key : Nat
  off : Nat
  n : Nat
  deriving DecidableEq, Repr

/-- What DRAIN writes and how (R319 to R321): the rows, the slot, the controls, and the producer and register of a capture. -/
structure DrainCtl where
  pane : Bool
  rows : List (List RowRun)
  fd : Binding
  rm : Nat
  sat : Bool
  int : Bool
  add : Bool
  scale : BitVec 32
  capture : Option (Nat × Nat)
  deriving DecidableEq, Repr

/-- The kinds of shutter jobs with what each carries beyond its windows (R326, R334, R335). -/
inductive JobKind where
  | copyPlain
  | copyConvert (fa fd : Binding) (rm : Nat) (sat : Bool) (scale : BitVec 32)
  | gather (esz : Nat)
  | scatter (esz : Nat)
  /-- MMA, SUMS, ALD and DRAIN before its tile is read: the matrix queue performs it (R312). -/
  | matrix
  /-- The writes of a DRAIN whose tile has been read: the 1024 elements with their poison (R319). -/
  | drain (ctl : DrainCtl) (vals : List (BitVec 32 × Bool))
  deriving DecidableEq, Repr

/-- A byte with its poison. -/
abbrev PByte := Byte × Bool

/-- What a job does next: it reads its index list, reads its source, judges where it may write, writes (R334, R335, R338). -/
inductive JobStage where
  | index | source | judge | write
  deriving DecidableEq, Repr

/-- A run of bytes of a write window that has been judged (R249, R338): the window, its place there, and the line, KEYID, offset and
length in memory. -/
structure JudgedRun where
  win : Nat
  pos : Nat
  line : Nat
  key : Nat
  off : Nat
  len : Nat
  deriving DecidableEq, Repr

/-- How far a job's effect has come. Its reads, their judging and its writes take as many JOB_COMPLETE events as the lines of other
packages need, and what has been done is not done again (R334, R335, R340).
Marked: DESIGN CHOICE, not safe, log 16. -/
structure JobProg where
  stage : JobStage := .index
  idx : List PByte := []
  data : List PByte := []
  /-- What ended the stream behind the bytes read: inner cause and value of R338. -/
  stop : Option (Nat × BitVec 64) := none
  /-- Pieces of the write windows judged, and where those in memory stand: an access is checked once (R249). -/
  judged : Nat := 0
  runs : List JudgedRun := []
  /-- The first element that each write window refuses: window, element, cause and value. -/
  fails : List (Nat × Nat × Nat × BitVec 64) := []
  /-- Lines written. -/
  written : Nat := 0
  /-- Flags and clamps of the elements converted so far. -/
  flags : Flags := 0
  clamps : Nat := 0
  deriving DecidableEq, Repr

/-- A job in a shutter place (R326). -/
structure Job where
  frame : Nat
  unit : Nat
  rod : Nat
  core : Nat
  side : Nat
  kind : JobKind
  k : Nat
  reads : List Window
  writes : List Window
  latch : LatchRef
  /-- SRSEED at issue (R334). -/
  seed : BitVec 64
  pc : Nat
  started : Bool
  /-- The effect is complete and merged; only the arrival is left. -/
  finished : Bool
  prog : JobProg := {}
  deriving DecidableEq, Repr

/-- The operand of a matrix word as judged at issue (R307): pane block or fetch entry, scale area and k0. -/
structure BlockRef where
  /-- Pane key of row 0, or none for a fetch entry. -/
  pane : Option Nat
  /-- Hold of the fetch entry. -/
  hold : Option Nat
  scl : Option Nat
  koff : Bool
  deriving DecidableEq, Repr

/-- What a queued matrix operation does (R314 to R319). -/
inductive MatKind where
  | mma (a b : BlockRef) (fa fb : Binding) (zero : Bool)
  | sums (col : Bool) (a : BlockRef) (fa : Binding) (z : BitVec 32) (zPoison : Bool)
  | aclr (v : BitVec 32) (poison : Bool)
  | ald (pane : Bool) (rows : List (List RowRun))
  | amovTov (producer : Nat) (reg : Nat) (lanes : BitVec 64)
  | amovTob (vals : List (BitVec 32 × Bool))
  | drain (ctl : DrainCtl)
  | tfetch (hold : Nat)
  deriving DecidableEq, Repr

/-- A queued matrix operation (R310, R311). -/
structure MatOp where
  frame : Nat
  unit : Nat
  rod : Nat
  core : Nat
  side : Nat
  tile : Nat
  kind : MatKind
  k : Nat
  tsc : BitVec 64
  seed : BitVec 64
  latch : LatchRef
  job : Option Nat
  pc : Nat
  started : Bool
  /-- Bytes of its global rows read so far (R315, R318). -/
  data : List PByte := []
  /-- The lowest lane of its logical rod, which a fault that comes late names (R382, R435). -/
  lane : Nat := 0
  deriving DecidableEq, Repr

/-- One of a core's 16 fetch entries (R315): the physical rows, what is still to come, and who holds it. -/
structure FetchHold where
  core : Nat
  frame : Nat
  k : Nat
  rows : List (List RowRun)
  /-- The TFETCH has been performed in queue order. -/
  performed : Bool
  /-- Lines asked for and not yet answered. -/
  waiting : List Nat
  /-- Queued operations that took a use and are not complete. -/
  users : Nat
  /-- No further use can be taken: the issue count is 0 or the entry was replaced. -/
  released : Bool
  /-- Fetched again at a resume, which counts in no counter (R324, R424). -/
  again : Bool := false
  deriving DecidableEq, Repr

/-! ## Nodes, bays and the chip (chapters 1, 3 to 5, 20 to 22) -/

/-- Node states of R85 after acceptance. -/
inductive NodeState where
  | waiting | ready | dispatching | running | draining
  deriving DecidableEq, Repr

/-- Which queue a node came from (R74, R77). -/
inductive QueueId where
  | steward
  | host (n : Nat)
  | device
  deriving DecidableEq, Repr

/-- A kernel descriptor as read at acceptance (R34). -/
structure Descriptor where
  entry : Nat
  entryPri : BitVec 8
  width : Nat
  span : Bool
  rods : Nat
  vgran : Nat
  pane : Nat
  board : Nat
  codeBase : BitVec 64
  codeWords : Nat
  ftab : BitVec 64
  ftlen : Nat
  ppt : BitVec 64
  features : BitVec 128
  deriving DecidableEq, Repr

/-- An accepted node that has not retired (R78, R85 to R87). -/
structure Node where
  bay : Nat
  queue : QueueId
  /-- Acceptance order within the bay. -/
  seq : Nat
  words : List (BitVec 64)
  state : NodeState
  /-- Unretired predecessors (R82). -/
  preds : List Nat
  cls : Nat
  /-- Time of entry into the pool, as an order number, and ageing periods already taken. -/
  entered : Nat
  aged : Nat
  desc : Option Descriptor
  bindings : SMap Binding
  /-- Next frame index to place (R87). -/
  nextFrame : Nat
  /-- Frames placed or saved and not exited. -/
  live : Nat
  /-- The first termination's cause (R86). -/
  cause : Option Nat
  /-- Dispatch number (R419). -/
  dispatch : Option Nat
  /-- The node whose frame launched it (R83). -/
  launcher : Option Nat
  /-- Bytes that a copy has moved (R80). -/
  copied : Nat := 0
  deriving DecidableEq, Repr

/-- A record in a device queue with the node that launched it (R83, R154). -/
structure DevRecord where
  words : List (BitVec 64)
  launcher : Nat
  deriving DecidableEq, Repr

/-- A host or steward queue (R75). -/
structure Queue where
  base : BitVec 64
  msiv : BitVec 8
  log2n : BitVec 4
  irqRef : Bool
  irqCmp : Bool
  en : Bool
  tail : BitVec 16
  head : BitVec 16
  statValid : Bool
  statMore : Bool
  statIndex : BitVec 16
  statCause : BitVec 10
  deriving DecidableEq, Repr

/-- A queue after reset (R75). -/
def Queue.blank : Queue :=
  { base := 0, msiv := 0, log2n := 0, irqRef := false, irqCmp := false, en := false, tail := 0, head := 0,
    statValid := false, statMore := false, statIndex := 0, statCause := 0 }

/-- Bay states (R94). -/
inductive BayState where
  | free | configured | reserved
  deriving DecidableEq, Repr

/-- An entry of the refusal log (R399). -/
structure Refused where
  cw : Bool
  cause : Nat
  tag : BitVec 32
  deriving DecidableEq, Repr

/-- An image in a bay's store (R66, R68); withdrawn images stay while a node retains them (R69). -/
structure StoredImage where
  image : Image
  withdrawn : Bool
  deriving DecidableEq, Repr

/-- A published frame image (R410, R411): where it stands and the frame it restores. -/
structure SavedFrame where
  addr : BitVec 64
  header : List (BitVec 64)
  frame : Frame
  frameNo : Nat
  /-- The image was made from `frame`; an image that came with an import was made elsewhere (R415). -/
  made : Bool
  deriving DecidableEq, Repr

/-- The save control block (R404). -/
structure SaveCtl where
  base : BitVec 64
  pto : Nat
  key : BitVec 6
  importBit : Bool
  graph : Bool
  fmaskLo : BitVec 64
  fmaskHi : BitVec 64
  busy : Bool
  err : BitVec 8
  saved : BitVec 32
  deriving DecidableEq, Repr

/-- An image as it stands in the save area (R410): header and body; `ok` is the first check of R412. -/
structure StoredBody where
  header : List (BitVec 64)
  body : List Byte
  ok : Bool
  deriving DecidableEq, Repr

/-- A placement in progress (R112): the bay cores and the slots taken, while images are loaded; of a new frame, or of a saved one with
its image as it was read and checked (R412). -/
structure Placement where
  resume : Option StoredBody
  cores : List Nat
  slots : List (List (List (Nat × Nat)))
  deriving DecidableEq, Repr

/-- What the checks of a record came to (R36, R80): the cause it is refused with, or what its node binds. -/
inductive Verdict where
  | refused (cause : Nat)
  | passes (desc : Option Descriptor) (bindings : SMap Binding)
  deriving DecidableEq, Repr

/-- A record that the pipeline has read and not yet accepted or refused (R76, R90): the place of the rotation it came from, its words
and its launcher; what has been read for its acceptance so far, by address and length, and the outcome of its checks once they are
made, since each is read and judged once (R34, R36). -/
structure TakenRecord where
  place : Nat
  words : List (BitVec 64)
  launcher : Option Nat
  read : List (Nat × Nat × List Byte) := []
  verdict : Option Verdict := none
  deriving DecidableEq, Repr

/-- A bay (R93, R94, R384, R398, R404, R421). Number 12 is the steward core (R379). -/
structure Bay where
  state : BayState
  /-- The configuration block c0 to c7 (R93). -/
  block : List (BitVec 64)
  root : BitVec 64
  thbase : BitVec 64
  thctl : BitVec 64
  tcls : BitVec 64
  /-- Enrolled public keys, as SHAKE256 digests and key bytes (R66). -/
  keys : List (BitVec 512 × BitVec 15616)
  store : List StoredImage
  refusals : List Refused
  refusalCount : Nat
  steward : Queue
  hosts : List Queue
  device : List DevRecord
  /-- The place in the rotation of R77 that gave the last record. -/
  rotation : Nat
  seq : Nat
  dseq : BitVec 64
  cursor : Nat
  pairCursor : Nat
  /-- Placement stopped by PREEMPT, a turn end or an import (R401, R405). -/
  stopped : Bool
  saving : Bool
  ctl : SaveCtl
  saved : List SavedFrame
  /-- CRED, and the score in use until the next advance of BRC (R269). -/
  cred : Nat
  credUsed : Nat
  kept : Nat
  broken : Nat
  counters : List (BitVec 64)
  freeze : Bool
  heldEvents : List (BitVec 64)
  /-- Producers of PREEMPT words that wait for the save (R401). -/
  preempts : List Nat
  /-- BRC (R260). -/
  brc : Nat
  /-- The epoch of R269 has ended and its score is still to be settled. -/
  epochDue : Bool
  /-- The reserved ways, assigned when the block was accepted (R98). -/
  ways : List Nat
  /-- A turn is running (R103); true for a fixed bay that is RESERVED. -/
  running : Bool
  placing : Option Placement := none
  taken : Option TakenRecord := none
  deriving DecidableEq, Repr

/-- A slice group's turn table (R102) and its turn (R103). -/
structure Group where
  entries : List (BitVec 32)
  turn : Nat
  running : Bool
  deriving DecidableEq, Repr

/-- An entry of the machine-check log (R392). -/
structure McEntry where
  bay : Nat
  cause : Nat
  seq : BitVec 32
  unit : BitVec 64
  deriving DecidableEq, Repr

/-- An entry of the attestation log (R67, R399). -/
structure Attest where
  bay : Nat
  seq : BitVec 32
  image : BitVec 512
  key : BitVec 512
  deriving DecidableEq, Repr

/-- Units that can be retired (R18). -/
inductive RetUnit where
  | pair (n : Nat)
  | slice (n : Nat)
  | pch (n : Nat)
  | column (core array col : Nat)
  deriving DecidableEq, Repr

/-- BOOTST (R29). -/
structure BootSt where
  stage : BitVec 8
  err : BitVec 8
  svn : BitVec 8
  recov : Bool
  halt : Bool
  ready : Bool
  deriving DecidableEq, Repr

/-- DOMCTL (R357) and a change of MODE in progress. -/
structure DomCtl where
  busy : Bool
  mode : Bool
  err : BitVec 4
  seqpkg : BitVec 8
  pkgnum : BitVec 8
  deriving DecidableEq, Repr

/-- What the part has sent outside: interrupts. -/
inductive OutMsg where
  /-- An MSI-X vector of a function (0 is the physical function). -/
  | msix (fn vector : Nat)
  deriving DecidableEq, Repr

/-- An image load in progress (R399). -/
structure ImageLoad where
  bay : Nat
  bytes : List (BitVec 8)
  poison : Bool
  producer : Nat
  deriving DecidableEq, Repr

end Sys2Proof.Machine
end

