-- ==== Sys2Proof/Machine/State.lean ====
section
/-! DEFINITION. The state of one package, the ways a step can stop, and the state after reset. -/

namespace Sys2Proof.Machine

/-- Why the model stops. -/
inductive Fault where
  /-- Raised by the meaning of a word when no unit has the turn (State.cur is empty): a word without a rod that issues it is
  no happening of the part. Safe: nothing is claimed of such a step. -/
  | noUnit
  deriving DecidableEq, Repr

/-- Why a step has no meaning. -/
inductive Refusal where
  /-- Raised by an arm of `exec` whose instruction has no meaning yet, with its mnemonic. Safe: nothing is claimed. -/
  | notModelled (mnemonic : String)
  deriving DecidableEq, Repr

/-- What happens next when the agenda says so: a step of the part, or the turn of one unit (R11).
Marked: DESIGN CHOICE, not safe, log 11. -/
inductive Turn where
  | event (i : Instr)
  | issue (frame unit : Nat)
  deriving DecidableEq, Repr

/-- The turn a word is issued in: the frame, its unit, and the word index of the selected entry (R143). -/
structure Cur where
  frame : Nat
  unit : Nat
  pc : Nat
  deriving DecidableEq, Repr

/-- Memory of the package by LOCAL address (R243): HBM and the capacity tier. -/
structure Mem where
  /-- Bytes; an unlisted address reads zero. -/
  cells : SMap (BitVec 8)
  /-- Poisoned lines (R256). -/
  poison : List Nat
  /-- One more than key × 2^32 + generation under which a line was last written (R250); an unlisted line was last written under
  key 0, an HBM line by the latest scrub and a line of the tier in the generation of a new part. -/
  tags : SMap Nat
  /-- Generation of key 0 at the latest scrub of HBM (R27, R28, R358). -/
  scrubGen : Nat
  /-- Sills of HBM lines (R363); an unlisted line's sill is the reset form. -/
  sills : SMap (BitVec 32)
  deriving DecidableEq, Repr

/-- The caches of the package and of other packages' lines. -/
structure Caches where
  lines : SMap L2Line
  /-- MRTS of each slice (R251). -/
  mrts : SMap Nat
  /-- How far each slice's CLK and each core's CT stand ahead of `now` (R251). -/
  clkAhead : SMap Nat
  ctAhead : SMap Nat
  l1 : SMap L1Copy
  /-- Instruction-cache lines of each core, keyed by core × 2^52 + the line's key: the bytes held, and the KEYID that is part of the
  line's tag (R144, R250). -/
  icache : SMap (BitVec 1024 × Nat)
  /-- Instruction lines being fetched, by the same key, with the bay that fetches and the KEYID (R144). -/
  fetching : SMap (Nat × Nat)
  /-- Failures returned for lines that no memory word asked for, until they are reported (R360, R370). -/
  denied : List Denial
  tlb : List TlbEntry
  txns : SMap HomeTxn
  /-- Requests of other packages that wait at this home, in the order of their arrival (R367). -/
  held : List HomeReq
  /-- Write-backs that wait for the end of a transaction of their line (R367). -/
  backs : List HeldBack
  /-- Lines whose home transaction has just ended, with those who waited for it: their accesses come next (R367). -/
  homeTurn : List (Nat × Option Nat)
  /-- Requests of this package that wait for another package, and written-back lines kept until acknowledged (R362). -/
  asks : SMap Ask
  keptBacks : SMap (BitVec 1024 × Bool)
  outbox : List Message
  /-- Packages to which a route leads, as found in stage 0x03 (R358). -/
  routes : List Nat
  /-- Packages to which no path remains (R370). -/
  failedPaths : List Nat
  /-- Quarantined sets: slice × 2^16 + set (R375). -/
  quarantine : List Nat
  deriving DecidableEq, Repr

/-- Package registers and records (chapters 1, 19, 20). -/
structure Chip where
  boot : BootSt
  /-- The stored firmware image and the recovery window (R25, R26). -/
  flash : SMap (BitVec 8)
  window : SMap (BitVec 8)
  /-- The accepted image's value for capability 0x01 word 2 (R31). -/
  imageId : BitVec 64
  retireRecord : List RetUnit
  retired : List RetUnit
  /-- Read eighths of the lane ratio of each stack (R14); an unlisted stack is at 4. -/
  ratios : SMap Nat
  dom : DomCtl
  /-- VFBIND of functions 1 to 12: the bay of each that is bound (R430). -/
  vfbind : SMap Nat
  /-- The field BAY of each VFBIND, which an unbinding keeps (R430). -/
  vfBay : SMap Nat
  mclog : SMap McEntry
  mcCount : BitVec 32
  /-- Corrected errors of each unit since its last record (R391). -/
  corrected : SMap Nat
  attest : List Attest
  stkey : BitVec 64
  /-- Generation of each key (R250, R402). -/
  keyGen : SMap Nat
  /-- The reverse ownership table (R248), by granule; an unlisted granule holds 0xF000. -/
  owners : SMap (BitVec 16)
  ownersBad : List Nat
  /-- TL of each core (R255). -/
  throttle : SMap Nat
  /-- Columns retired in each array: core × 16 + array (R322). -/
  badColumns : SMap Nat
  /-- The remap table (R17): the physical core, die × 68 + place, of each logical core; no word reads it. -/
  remap : SMap Nat
  /-- Customer positions of cores: core × 32 + position, and the image there (R52, R70). -/
  strips : SMap Image
  /-- Positions being reconfigured, with the image to come (R72). -/
  stripLoads : SMap Image
  /-- Clock of the sequencers: tickets given of DEV and of SYS scope (R284). -/
  devTickets : Nat
  sysTickets : Nat
  /-- BRC[S] (R260). -/
  brcS : Nat
  out : List OutMsg
  deriving DecidableEq, Repr

/-- The machine: one package. -/
structure State where
  chip : Chip
  mem : Mem
  cache : Caches
  /-- Host memory seen through PCIe (R76, R86); an unlisted byte reads zero. -/
  host : SMap (BitVec 8)
  /-- Bays 0 to 11, and the steward core as number 12. -/
  bays : List Bay
  /-- Slice groups 1 to 7. -/
  groups : List Group
  nodes : SMap Node
  frames : SMap Frame
  ops : SMap MemOp
  fences : SMap FenceRec
  producers : SMap Producer
  jobs : SMap Job
  matq : SMap MatOp
  holds : SMap FetchHold
  loads : SMap ImageLoad
  /-- What happens next, chosen from outside the machine (R11). -/
  agenda : List Turn
  /-- The unit whose turn it is, while a word is issued. -/
  cur : Option Cur
  /-- Where the round of units stands. -/
  round : Nat
  /-- Steps taken; the clocks of R251 advance with it. -/
  now : Nat
  /-- The next number for frames, nodes, operations, producers, jobs and loads. -/
  nextId : Nat
  /-- The counter by which free values are taken. -/
  free : Nat
  deriving DecidableEq, Repr

/-- The save control block after reset (R404). -/
def SaveCtl.blank : SaveCtl :=
  { base := 0, pto := 100, key := 0, importBit := false, graph := false, fmaskLo := BitVec.allOnes 64,
    fmaskHi := BitVec.allOnes 64, busy := false, err := 0, saved := 0 }

/-- A bay after reset: FREE, nothing configured (R27, R94).
Marked: DESIGN CHOICE, not safe, log 8 and 9. -/
def Bay.blank : Bay :=
  { state := .free, block := List.replicate 8 0, root := 0, thbase := 0, thctl := 0, tcls := 0, keys := [], store := [],
    refusals := [], refusalCount := 0, steward := Queue.blank, hosts := List.replicate 16 Queue.blank, device := [],
    rotation := 0, seq := 0, dseq := 0, cursor := 0, pairCursor := 0, stopped := false, saving := false,
    ctl := SaveCtl.blank, saved := [], cred := 0, credUsed := 0, kept := 0, broken := 0, counters := List.replicate 16 0, freeze := false,
    heldEvents := List.replicate 16 0, preempts := [], brc := 0, epochDue := false, ways := [], running := false }

/-- A slice group after reset (R102, R103). -/
def Group.blank : Group := { entries := List.replicate 8 0, turn := 0, running := false }

/-- The package registers after reset (R18, R23, R27, R29, R357, R384, R391, R392, R399, R430).
Marked: DESIGN CHOICE, not safe, log 3 and 4 and 8. -/
def Chip.blank : Chip :=
  { boot := { stage := 0, err := 0, svn := 0, recov := false, halt := false, ready := false },
    flash := [], window := [], imageId := 0, retireRecord := [], retired := [], ratios := [],
    dom := { busy := false, mode := false, err := 0, seqpkg := 0, pkgnum := 0 },
    vfbind := [], vfBay := [], mclog := [], mcCount := 0, corrected := [], attest := [], stkey := 0, keyGen := [], owners := [],
    ownersBad := [], throttle := [], badColumns := [], remap := [], strips := [], stripLoads := [], devTickets := 0, sysTickets := 0,
    brcS := 0, out := [] }

/-- The caches after reset: nothing present. -/
def Caches.blank : Caches :=
  { lines := [], mrts := [], clkAhead := [], ctAhead := [], l1 := [], icache := [], fetching := [], denied := [], tlb := [], txns := [], held := [],
    backs := [], homeTurn := [], asks := [], keptBacks := [], outbox := [], routes := [], failedPaths := [], quarantine := [] }

/-- The machine right after a cold reset: bring-up stage 0x00, every bay FREE, memory with nothing listed (R27 to R29).
Marked: DESIGN CHOICE, not safe, log 1 and 2 and 5 and 7 and 8. -/
def State.reset : State :=
  { chip := Chip.blank, mem := { cells := [], poison := [], tags := [], scrubGen := 0, sills := [] }, cache := Caches.blank, host := [],
    bays := List.replicate 13 Bay.blank, groups := List.replicate 7 Group.blank, nodes := [], frames := [], ops := [],
    fences := [], producers := [], jobs := [], matq := [], holds := [], loads := [], agenda := [], cur := none,
    round := 0, now := 0, nextId := 0, free := 0 }

end Sys2Proof.Machine
end

