-- ==== Sys2Proof/Machine/Ops.lean ====
section
/-! DEFINITION. The named operations over the state: reading and changing its parts, taking a trap and returning from one,
and what every word does around its own effect when it issues (R136, R140, R147, R148, R165, R166, R385 to R388). -/

namespace Sys2Proof.Machine

/-- What a step answers. -/
abbrev Out := Host.Outcome State Fault Refusal

/-! ## Parts of the state -/

/-- A bay by number; 12 is the steward core (R379). -/
def State.bay (s : State) (b : Nat) : Bay := (s.bays[b]?).getD Bay.blank

/-- Change one bay. -/
def State.modBay (s : State) (b : Nat) (g : Bay → Bay) : State := { s with bays := s.bays.modify b g }

/-- A resident frame. -/
def State.frame? (s : State) (fid : Nat) : Option Frame := SMap.find s.frames fid

/-- Put a frame. -/
def State.putFrame (s : State) (fid : Nat) (fr : Frame) : State := { s with frames := s.frames.put fid fr }

/-- Change one frame, where it is resident. -/
def State.modFrame (s : State) (fid : Nat) (g : Frame → Frame) : State := { s with frames := s.frames.modify fid g }

/-- Change one unit of a frame. -/
def Frame.modUnit (fr : Frame) (ui : Nat) (g : RodUnit → RodUnit) : Frame := { fr with units := fr.units.modify ui g }

/-- Change one unit of a resident frame. -/
def State.modUnit (s : State) (fid ui : Nat) (g : RodUnit → RodUnit) : State := s.modFrame fid (·.modUnit ui g)

/-- A unit of a resident frame. -/
def State.unit? (s : State) (fid ui : Nat) : Option RodUnit := (s.frame? fid).bind (·.unit? ui)

/-- Change one node. -/
def State.modNode (s : State) (n : Nat) (g : Node → Node) : State := { s with nodes := s.nodes.modify n g }

/-- Change the chip. -/
def State.modChip (s : State) (g : Chip → Chip) : State := { s with chip := g s.chip }

/-- Change the caches. -/
def State.modCache (s : State) (g : Caches → Caches) : State := { s with cache := g s.cache }

/-- Change the memory. -/
def State.modMem (s : State) (g : Mem → Mem) : State := { s with mem := g s.mem }

/-- Take a fresh number.
Marked: DESIGN CHOICE, not safe, log 1. -/
def State.fresh (s : State) : Nat × State := (s.nextId, { s with nextId := s.nextId + 1 })

/-- Take the next index of a free value.
Marked: DESIGN CHOICE, not safe, log 2. -/
def State.takeFree (s : State) : Nat × State := (s.free, { s with free := s.free + 1 })

/-! ## Counters and records -/

/-- Add to one entry of a list of counters. -/
def addCounter (cs : List (BitVec 64)) (n k : Nat) : List (BitVec 64) := cs.modify n (· + BitVec.ofNat 64 k)

/-- Count `k` events of counter `n` for a bay: held back while FREEZE is 1 (R421, R422). -/
def State.count (s : State) (b n k : Nat) : State :=
  s.modBay b (fun y => if y.freeze then { y with heldEvents := addCounter y.heldEvents n k }
    else { y with counters := addCounter y.counters n k })

/-- Events that a bay's counter is not to show after all: those of a word that faults after its issue (R423). -/
def State.uncount (s : State) (b n k : Nat) : State :=
  s.modBay b (fun y => if y.freeze then { y with heldEvents := y.heldEvents.modify n (· - BitVec.ofNat 64 k) }
    else { y with counters := y.counters.modify n (· - BitVec.ofNat 64 k) })

/-- A state whose bay counts nothing of what led to it from an earlier one: a save's own traffic (R423, R424). -/
def State.uncounted (s from_ : State) (b : Nat) : State :=
  s.modBay b (fun y => { y with counters := (from_.bay b).counters, heldEvents := (from_.bay b).heldEvents })

/-- FREEZE returns to 0: the events held are added (R421). -/
def State.thaw (s : State) (b : Nat) : State :=
  s.modBay b (fun y => if y.freeze then
    { y with freeze := false, counters := (y.counters.zip y.heldEvents).map (fun p => p.1 + p.2), heldEvents := List.replicate 16 0 }
    else y)

/-- An interrupt message: vector `v` of a function, 0 the physical one (R91, R391). -/
def State.msix (s : State) (fn v : Nat) : State := s.modChip (fun c => { c with out := c.out ++ [.msix fn v] })

/-- A machine-check record (R391, R392): `bay` is 0xF for none. -/
def State.record (s : State) (bay cause : Nat) (unit : BitVec 64) : State :=
  (s.modChip (fun c =>
    let e : McEntry := { bay := bay, cause := cause, seq := c.mcCount, unit := unit }
    { c with mclog := c.mclog.put (c.mcCount.toNat % 256) e, mcCount := c.mcCount + 1 })).msix 0 0

/-- Every bay's work ends without a save (R23, R27). -/
def State.abandonAll (s : State) : State :=
  { s with
    frames := [], ops := [], fences := [], producers := [], jobs := [], matq := [], holds := [], loads := [], nodes := []
    bays := s.bays.map (fun b => { b with device := [], saving := false, preempts := [] })
    cache := { s.cache with txns := [], held := [], backs := [], homeTurn := [] } }

/-- A thermal trip or a fatal machine check (R23): HALT, a record, and every bay's work abandoned. -/
def State.fatal (s : State) (cause : Nat) : State :=
  ((s.modChip (fun c => { c with boot := { c.boot with halt := true } })).record 0xF cause 0).abandonAll

/-! ## Traps (R381 to R388) -/

/-- The class of a cause, as its TCLS bit (R381); none for machine check and poison. -/
def causeClass (c : Nat) : Option Nat :=
  if c < 0x080 then some 1 else if c < 0x100 then some 2 else if c < 0x180 then some 3 else if c < 0x200 then some 4
  else if c < 0x280 then some 5 else if c < 0x300 then some 6 else if c < 0x340 then some 7 else if c < 0x380 then some 8
  else if c < 0x3C0 then some 9 else if c < 0x3F0 then some 10 else none

/-- HENTRY of THCTL (R384). -/
def hentry (b : Bay) : Nat := field b.thctl.toNat 40 24
/-- HPRI of THCTL. -/
def hpri (b : Bay) : BitVec 8 := b.thctl.extractLsb' 32 8
/-- HWORDS of THCTL. -/
def hwords (b : Bay) : Nat := field b.thctl.toNat 0 24

/-- Whether the bay's handler takes a cause: its class is set in TCLS, there is a handler, and HENTRY lies in it (R385);
0x3C2 and the machine-check codes are never taken (R381). -/
def handlerTakes (b : Bay) (cause : Nat) : Bool :=
  match causeClass cause with
  | some c => cause != 0x3C2 && b.tcls.getLsbD c && hwords b != 0 && decide (hentry b < hwords b)
  | none => false

/-- The lowest lane of a set, or 0. -/
def lowestLane (m : BitVec 64) : Nat := ((lanesOf m).head?).getD 0

/-- TCAUSE (R384).
Marked: DEDUCED, not safe, log 42. -/
def tcauseOf (t : TrapInfo) (lane widx : Nat) : BitVec 64 :=
  BitVec.ofBool t.imp ++ BitVec.ofBool t.byTrap ++ BitVec.ofBool t.more ++ BitVec.ofBool t.half ++ BitVec.ofNat 2 t.opnd ++
    BitVec.ofNat 6 lane ++ BitVec.ofNat 10 t.inner ++ BitVec.ofNat 24 widx ++ (0 : BitVec 8) ++ BitVec.ofNat 10 t.cause

/-- TPC (R384): NXT is 0b10 when the report stands at a transom.
Marked: DEDUCED, not safe, log 43. -/
def tpcOf (atTransom : Bool) (pri : BitVec 8) (pc : Nat) : BitVec 64 :=
  (0 : BitVec 30) ++ (if atTransom then (2 : BitVec 2) else 1) ++ pri ++ BitVec.ofNat 24 pc

/-- The word index at which a trap of the word at `pc` is reported: its transom's, where one is pending (R131). -/
def RodUnit.reportPc (u : RodUnit) (pc : Nat) : Nat :=
  match u.transom with
  | some t => t.pc
  | none => pc

/-- Handler entry (R385): the trap record, the frontier and EXM held aside, and one entry of every live lane at HENTRY. -/
def RodUnit.enterHandler (u : RodUnit) (width : Nat) (b : Bay) (e : Entry) (t : TrapInfo) : RodUnit :=
  let lane := t.lane.getD (lowestLane e.lanes)
  let rod := rodOfLane width lane
  let beyond := t.cause == 0x080 && !t.byTrap
  let pc := if beyond then e.pc else u.reportPc e.pc
  let tc := tcauseOf t (logicalLane width lane) (t.widx.getD pc)
  let h : Handler :=
    { held := u.frontier, heldExm := u.rods.map (·.exm), tpc := tpcOf (!beyond && (u.transom.isSome || t.atTransom)) e.pri pc, tlanes := e.lanes,
      thbase := b.thbase, hwords := hwords b }
  { u with
    rods := u.rods.mapIdx (fun i r =>
      { r with tcause := if i = rod then tc else 0, taddr := if i = rod then t.taddr else 0, exm := lowLanes width })
    frontier := [{ pc := hentry b, pri := hpri b, lanes := liveLanes u.frontier }]
    transom := none
    waits := []
    pause := none
    blocked := none
    handler := some h }

/-- What a bay's accesses outside its memory words had asked for is forgotten where one of them ends by a fault or is given up: failures
returned for them, so that a later access asks again (R360), and their turns at lines (R367). -/
def State.forgetAsked (s : State) (b : Nat) : State :=
  s.modCache (fun c => { c with
    denied := c.denied.filter (fun d => d.bay != b)
    homeTurn := c.homeTurn.filter (fun t => t.2 != some b) })

/-- Termination of a frame (R388): its rods stop at once and it keeps the first cause; its jobs and issued words still
complete, and it exits by FRAME_EXIT.
Marked: DEDUCED, not safe, log 40. -/
def State.terminate (s : State) (fid cause : Nat) : State :=
  match s.frame? fid with
  | none => s
  | some fr => (s.forgetAsked fr.bay).putFrame fid { fr with term := some (fr.term.getD cause) }

/-- Taking a trap in a unit at an entry (R385, R387, R388): the one operation every cause goes through.
Marked: DEDUCED, not safe, log 40. -/
def State.takeTrap (s0 : State) (fid ui : Nat) (e : Entry) (t : TrapInfo) : State :=
  match s0.frame? fid with
  | none => s0
  | some fr =>
    let s := s0.forgetAsked fr.bay
    match fr.unit? ui with
    | none => s
    | some u =>
      let b := s.bay fr.bay
      if u.handler.isSome then s.terminate fid 0x3C2
      else if fr.level ≠ 0 || !handlerTakes b t.cause then s.terminate fid t.cause
      else s.putFrame fid (fr.setUnit ui (u.enterHandler fr.width b e t))

/-- The lanes of TLANES that are live move to `pc` with TPC.PRI, each leaving the entry it stood in (R386). -/
def moveLanes (fr : List Entry) (lanes : BitVec 64) (pc : Nat) (pri : BitVec 8) : List Entry :=
  let rest := (fr.map (fun x => { x with lanes := x.lanes &&& ~~~ lanes })).filter (fun x => x.lanes != 0)
  arrive rest pc pri (lanes &&& liveLanes fr)

/-- Leaving the handler (R386): held frontier and EXM come back, the trapping lanes stand at `pc`, the record reads zero. -/
def RodUnit.leaveHandler (u : RodUnit) (h : Handler) (pc : Nat) : RodUnit :=
  { u with
    rods := u.rods.mapIdx (fun i r => { r with tcause := 0, taddr := 0, exm := (h.heldExm[i]?).getD r.exm })
    frontier := moveLanes h.held h.tlanes pc (h.tpc.extractLsb' 24 8)
    transom := none
    blocked := none
    handler := none }

/-! ## The word being issued -/

/-- The unit that issues, with the entry selected (R143). -/
structure IssueCtx where
  fid : Nat
  ui : Nat
  fr : Frame
  u : RodUnit
  e : Entry
  deriving DecidableEq, Repr

/-- The unit whose turn it is. -/
def State.issuing (s : State) : Option IssueCtx :=
  match s.cur with
  | none => none
  | some c =>
    match s.frame? c.frame with
    | none => none
    | some fr =>
      match fr.unit? c.unit with
      | none => none
      | some u =>
        match u.frontier.find? (fun e => e.pc == c.pc) with
        | none => none
        | some e => some { fid := c.frame, ui := c.unit, fr := fr, u := u, e := e }

/-- The level at which the unit runs (R378, R385). -/
def IssueCtx.level (c : IssueCtx) : Nat := if c.u.handler.isSome then max 1 c.fr.level else c.fr.level

/-- Length of the code space in words (R33, R385). -/
def IssueCtx.codeWords (c : IssueCtx) : Nat :=
  match c.u.handler with
  | some h => h.hwords
  | none => c.fr.codeWords

/-- Virtual address of word `n` of the unit's code space (R33, R384). -/
def codeVa (fr : Frame) (u : RodUnit) (n : Nat) : BitVec 64 :=
  (match u.handler with
    | some h => h.thbase
    | none => fr.codeBase) + BitVec.ofNat 64 (12 * n)

/-- The feature vector of a bay: bits 0 to 9 under FMASK, and the steward core's own (R137, R379, R380, R413). -/
def State.features (s : State) (b : Nat) : BitVec 128 :=
  if b = 12 then 0x217 else 0x3FF &&& ((s.bay b).ctl.fmaskHi ++ (s.bay b).ctl.fmaskLo)

/-- What R136 needs of the context. -/
def State.checkCtx (s : State) (c : IssueCtx) : CheckCtx :=
  { level := c.level, width := c.fr.width, vgran := c.fr.vgran, features := s.features c.fr.bay }

/-- A trap of the word being issued. -/
def State.trapWord (s : State) (c : IssueCtx) (t : TrapInfo) : State := s.takeTrap c.fid c.ui c.e t

/-- The slot stays empty; the word stays selected and is tried again (R143, R160). -/
def State.waitWord (s : State) (c : IssueCtx) : State := s.modUnit c.fid c.ui (fun u => { u with blocked := some c.e.pc })

/-- The slot stays empty on an empty register (R143, R166, counter FEWAIT). -/
def State.waitEmpty (s : State) (c : IssueCtx) : State := (s.waitWord c).count c.fr.bay 2 1

/-- How R166 judges a word. -/
inductive Ready where
  | issues
  | waits
  | traps (t : TrapInfo)
  deriving DecidableEq, Repr

/-- The lane at which a rod's trap is reported: its lowest lane of the entry (R147). -/
def IssueCtx.rodLane (c : IssueCtx) (rod : Nat) : Nat := (lowestLaneOf c.fr.width c.e.lanes rod).getD 0

/-- R166 on a list of register uses, for the logical rods with a lane in the entry, with the guard predicate. A scalar register is
reported for the first logical rod whose copy is empty (R384). -/
def readiness (c : IssueCtx) (guards : List Nat) (us : List RegUse) : Ready :=
  let rods := rodsInEntry c.fr.width c.u c.e.lanes
  let empty (is : List Nat) (r : RegUse) : Bool := r.nums.any (fun n => c.u.isEmpty is r.cls n)
  match us.find? (fun r => r.rd && r.nb && empty rods r) with
  | some r => .traps { cause := 0x110, opnd := r.pos
                       lane := if r.cls = .scl then (rods.find? (fun i => empty [i] r)).map c.rodLane else none }
  | none => if us.any (empty rods) || guards.any (fun p => c.u.isEmpty rods .prd p) then .waits else .issues

/-- The guard lanes of a uniform word: the lowest lane of the entry of each logical rod (R147). -/
def guardLanes (width : Nat) (u : RodUnit) (lanes : BitVec 64) : List Nat :=
  (List.range u.rods.length).filterMap (lowestLaneOf width lanes)

/-- The lowest lane in which the guard read is poisoned (R258). -/
def guardPoison (width : Nat) (u : RodUnit) (e : Entry) (uniform : Bool) (guard : Nat) : Option Nat :=
  let ls := if uniform then guardLanes width u e.lanes else lanesOf (takingSet width u e.lanes)
  ls.find? (fun l => u.predPoisoned guard l)

/-- A consumed poison (R258). -/
def poisonAt (lane : Nat) : TrapInfo := { cause := 0x3F0, lane := some lane }

/-- The issue of a single or system word after its checks. -/
def IssueCtx.issue (c : IssueCtx) (fm : Form) (f : SFields) : Issue :=
  let width := c.fr.width
  let act := activeLanes width c.u f c.e.lanes
  { fr := c.fr, u := c.u, e := c.e, f := withOverride c.u.transom f, lit := litOf c.u.transom,
    lbr := match c.u.transom with
      | some { kind := .lbr, payload := p, .. } => some p
      | _ => none
    act := act
    rods := if fm.uniform f then uniformRods width c.u f c.e.lanes else rodsActive width c.u act
    ebase := 0 }

/-- Everything before a word's own effect: the checks of R136, the judgement of R166 and the guard. -/
def withWord (fm : Form) (f : SFields) (body : IssueCtx → Issue → State → Out) (s : State) : Out :=
  match s.issuing with
  | none => .fault .noUnit
  | some c =>
    match checkWord (s.checkCtx c) fm c.u.transom f with
    | some t => .next (s.trapWord c t)
    | none =>
      match readiness c [f.guard.toNat] (fm.regs f ++ fm.moreRegs c.fr.width f) with
      | .traps t => .next (s.trapWord c t)
      | .waits => .next (s.waitEmpty c)
      | .issues =>
        match guardPoison c.fr.width c.u c.e (fm.uniform f) f.guard.toNat with
        | some l => .next (s.trapWord c (poisonAt l))
        | none => body c (c.issue fm f) s

/-! ## After a word's own effect -/

/-- Rounding with SR uses up one state of SRSEED in each logical rod that took the effect (R181).
Marked: DEDUCED, not safe, log 44. -/
def RodUnit.bumpSeeds (u : RodUnit) (rods : List Nat) : RodUnit :=
  rods.foldl (fun v i => v.setRod i (fun r => { r with srseed := r.srseed + 1 })) u

/-- A word has issued: its transom is used, no word stays selected, and the unit is no longer at its first word. -/
def RodUnit.used (u : RodUnit) : RodUnit := { u with transom := none, blocked := none, fresh := false }

/-- A word has issued in the unit, with what it did to the unit (WORDS of R422). -/
def State.issued (s : State) (c : IssueCtx) (g : RodUnit → RodUnit) : State :=
  (s.modUnit c.fid c.ui (fun u => (g u).used)).count c.fr.bay 1 1

/-- A word that moves every lane of the entry to the next word (R140). -/
def State.finish (s : State) (c : IssueCtx) (g : RodUnit → RodUnit) : State :=
  s.issued c (fun u => (g u).advance c.e)

/-- Whether the word rounds stochastically (R181). -/
def usesSr (fm : Form) (x : Issue) : Bool := fm.rounds x.f && x.f.m 0 3 == 4

/-- The rods whose SRSEED the word advances. -/
def seedRods (fm : Form) (x : Issue) : List Nat := if usesSr fm x then x.rods else []

/-- A word whose results are written before the rod's next turn (R162). -/
def execNow (fm : Form) (g : Issue → Effect) (f : SFields) (s : State) : Out :=
  withWord fm f (fun c x s => .next (s.finish c (fun u => (u.apply (g x)).bumpSeeds (seedRods fm x)))) s

/-- The same, for a word whose own checks at issue may trap. -/
def execChecked (fm : Form) (g : Issue → Except TrapInfo Effect) (f : SFields) (s : State) : Out :=
  withWord fm f (fun c x s =>
    match g x with
    | .error t => .next (s.trapWord c t)
    | .ok eff => .next (s.finish c (fun u => (u.apply eff).bumpSeeds (seedRods fm x)))) s

/-- The registers a word writes, as full/empty marks: those with a bit (R164). -/
def destsOf (us : List RegUse) : List (OpClass × Nat) :=
  (us.filter (·.wr)).flatMap (fun r => r.nums.map (fun n => (r.cls, n)))

/-- Mark registers of a unit (R165). -/
def RodUnit.markAll (u : RodUnit) (empty : Bool) (rods : List Nat) (ds : List (OpClass × Nat)) : RodUnit :=
  ds.foldl (fun v d => v.mark empty rods d.1 d.2) u

/-- A long-latency producer begins: its destinations are marked empty and its effect is kept (R165). -/
def State.produce (s : State) (c : IssueCtx) (rods : List Nat) (ds : List (OpClass × Nat)) (eff : Effect) (ready : Bool) :
    State :=
  let (n, s) := s.fresh
  let p : Producer := { frame := c.fid, unit := c.ui, rods := rods, dests := ds, effect := eff, ready := ready, faulted := false }
  { s.modUnit c.fid c.ui (·.markAll true rods ds) with producers := s.producers.put n p }

/-- Whether the word takes effect at all: a lane is active, or a logical rod takes a scalar effect. -/
def takesEffect (fm : Form) (f : SFields) (x : Issue) : Bool := if fm.uniform f then !x.rods.isEmpty else x.act != 0

/-- A long-latency word: nothing is marked when nothing is active (R165). -/
def execLong (fm : Form) (g : Issue → Effect) (f : SFields) (s : State) : Out :=
  withWord fm f (fun c x s =>
    let s' := if takesEffect fm f x then s.produce c x.rods (destsOf (fm.regs f)) (g x) true else s
    .next (s'.finish c (fun u => u.bumpSeeds (seedRods fm x)))) s

/-- A producer completes: it writes its active lanes and its destinations become full; after a fault nothing is written
(R165). -/
def RodUnit.completeProducer (u : RodUnit) (p : Producer) (eff : Effect) : RodUnit :=
  (if p.faulted then u else u.apply eff).markAll false p.rods p.dests

/-! ## Collective words (R148) -/

/-- The live threads of the logical rods that have a lane in the entry. -/
def collectiveLanes (c : IssueCtx) : BitVec 64 :=
  (rodsInEntry c.fr.width c.u c.e.lanes).foldl (fun m i => m ||| (liveLanes c.u.frontier &&& rodLanes c.fr.width i)) 0

/-- A collective word needs every live thread of its logical rod active, and at least one (R148). -/
def collectiveOk (c : IssueCtx) (x : Issue) : Bool := x.act != 0 && x.act == collectiveLanes c

/-- A collective word: cause 0x0A0 for an illegal convergence, before its own effect. -/
def withCollective (fm : Form) (f : SFields) (body : IssueCtx → Issue → State → Out) (s : State) : Out :=
  withWord fm f (fun c x s => if collectiveOk c x then body c x s else .next (s.trapWord c (trapOf 0x0A0))) s

/-! ## Waiting for producers -/

/-- A producer of a logical rod that may set flags is in flight (R188).
Marked: DEDUCED, not safe, log 85. -/
def State.flagsInFlight (s : State) (c : IssueCtx) (rods : List Nat) : Bool :=
  s.producers.any (fun q => q.2.frame == c.fid && q.2.unit == c.ui && !q.2.effect.flags.isEmpty &&
    q.2.rods.any (fun i => memb i rods))

end Sys2Proof.Machine
end

