-- ==== Sys2Proof/Machine/Memory.lean ====
section
/-! DEFINITION. Memory of the package: HBM and the capacity tier, keys, ownership, sills, the tier cache, the home slices
with their line records, claims and victims (R243, R248 to R252, R256, R262 to R268, R363 to R375). -/

namespace Sys2Proof.Machine

/-! ## Where memory is -/

/-- A physical address (R243). -/
structure PAddr where
  key : Nat
  pkg : Nat
  loc : Nat
  deriving DecidableEq, Repr

/-- Bytes of HBM on a full part (R243). -/
def hbmBytes : Nat := 0x18000000000
/-- LOCAL of the capacity tier (R243). -/
def tierBase : Nat := 0x80000000000

/-- Pseudo-channels withdrawn (R18). -/
def State.lostChannels (s : State) : List Nat :=
  s.chip.retired.filterMap (fun u => match u with
    | .pch n => some n
    | _ => none)

/-- Slices withdrawn (R18). -/
def State.lostSlices (s : State) : List Nat :=
  s.chip.retired.filterMap (fun u => match u with
    | .slice n => some n
    | _ => none)

/-- The pseudo-channel of a line, of the 1024 of the package (R13).
Marked: DESIGN CHOICE, safe, log 24. -/
def channelOf (line : Nat) : Nat := Config.homeChannel line % 1024

/-- Whether an HBM line lies in a pseudo-channel in service. -/
def State.lineInService (s : State) (line : Nat) : Bool :=
  let lost := s.lostChannels
  lost.isEmpty || !memb (channelOf line) lost

/-- Bytes of the capacity tier: at most 8 TiB (R24).
Marked: DESIGN CHOICE, safe, log 25. -/
def tierSize : Nat := min Config.tierBytes (8 * 2 ^ 40)

/-- An HBM address of a part in service. -/
def State.inHbm (s : State) (loc : Nat) : Bool := decide (loc < hbmBytes) && s.lineInService (loc / 128)

/-- An address of the capacity tier.
Marked: DESIGN CHOICE, safe, log 25. -/
def inTier (loc : Nat) : Bool := decide (tierBase ≤ loc) && decide (loc < tierBase + tierSize)

/-- Whether a LOCAL address holds memory (R243): HBM does not while it caches the tier.
Marked: DESIGN CHOICE, safe, log 25. -/
def State.hasMemory (s : State) (loc : Nat) : Bool :=
  if loc < hbmBytes then !s.chip.dom.mode && s.lineInService (loc / 128) else inTier loc

/-- The package's own number (R357). -/
def State.pkgNum (s : State) : Nat := s.chip.dom.pkgnum.toNat

/-! ## Ownership (R248) -/

/-- The ownership entry of the granule that holds a LOCAL address. -/
def State.ownerEntry (s : State) (loc : Nat) : BitVec 16 := SMap.get 0xF000 s.chip.owners (loc / 65536)
/-- OWNER of an entry. -/
def entryOwner (e : BitVec 16) : Nat := e.toNat / 4096
/-- RDONLY of an entry. -/
def entryRdonly (e : BitVec 16) : Bool := e.getLsbD 11
/-- KEY of an entry. -/
def entryKey (e : BitVec 16) : Nat := e.toNat % 64
/-- The bay whose clock a line follows: the owner of its granule, or 12 for BRC[S] (R264). -/
def State.lineBay (s : State) (line : Nat) : Nat :=
  let o := entryOwner (s.ownerEntry (line * 128))
  if o < 12 then o else 12

/-! ## A bay's block (R93) -/

/-- Word `n` of the block. -/
def Bay.c (b : Bay) (n : Nat) : BitVec 64 := (b.block[n]?).getD 0
/-- KEYS. -/
def Bay.keySet (b : Bay) : BitVec 64 := b.c 4
/-- PLAN. -/
def Bay.plan (b : Bay) : Nat := field (b.c 3).toNat 0 2
/-- WAYS. -/
def Bay.wayCount (b : Bay) : Nat := field (b.c 3).toNat 5 5
/-- HOSTQ. -/
def Bay.hostq (b : Bay) : Nat := field (b.c 3).toNat 10 5
/-- ELASTIC. -/
def Bay.elastic (b : Bay) : Bool := (b.c 3).getLsbD 15
/-- VCMASK. -/
def Bay.vcmask (b : Bay) : Nat := field (b.c 3).toNat 16 16
/-- AGE. -/
def Bay.age (b : Bay) : Nat := field (b.c 3).toNat 32 16
/-- NODEQ. -/
def Bay.nodeq (b : Bay) : Nat := field (b.c 3).toNat 48 13
/-- The channels of a bay in ascending order; the steward's is channel 1 (R359, R361). -/
def State.channels (s : State) (b : Nat) : List Nat :=
  if b = 12 then [1] else (List.range 16).filter (fun v => (s.bay b).vcmask.testBit v)

/-- The channel on which a bay's traffic with a package travels (R359). -/
def State.channelTo (s : State) (b pkg : Nat) : Nat :=
  let chs := s.channels b
  (chs[pkg % (max 1 chs.length)]?).getD 1

/-- CHSLOT. -/
def Bay.chslot (b : Bay) : Nat := (b.c 2).toNat
/-- GROUP. -/
def Bay.group (b : Bay) : Nat := field (b.c 5).toNat 0 3
/-- PAIRS: the package pairs of the bay, in ascending number (R96). -/
def Bay.pairs (b : Bay) : List Nat := (List.range 128).filter (fun k => ((b.c 1) ++ (b.c 0)).getLsbD k)

/-- Nominal ns of a tick by plan (R261). -/
def tns (plan : Nat) : Nat :=
  match plan with
  | 0 => 465
  | 1 => 539
  | _ => 640

/-- TNS of a bay; BRC[S] uses 465 (R268). -/
def State.bayTns (s : State) (b : Nat) : Nat := if b < 12 then tns (s.bay b).plan else 465

/-- The reuse clock a line of the bay follows (R260). -/
def State.brcOf (s : State) (b : Nat) : Nat := if b < 12 then (s.bay b).brc else s.chip.brcS

/-! ## Stored lines: bytes, keys, poison and sills -/

/-- The stored plaintext of a line, under the key it was last written with.
Marked: DESIGN CHOICE, not safe, log 5. -/
def Mem.line (m : Mem) (line : Nat) : BitVec 1024 :=
  BitVec.ofNat 1024 (ofBytes ((List.range 128).map (fun i => SMap.get 0 m.cells (line * 128 + i))))

/-- The tag of a line that is not listed: key 0, at the latest scrub for HBM (R28), in the first generation for the tier.
Marked: DEDUCED, not safe, log 6. -/
def Mem.bareTag (m : Mem) (line : Nat) : Nat := if line < hbmBytes / 128 then m.scrubGen else 0

/-- The tag under which a line was last written (R250).
Marked: DEDUCED, not safe, log 6. -/
def Mem.tagOf (m : Mem) (line : Nat) : Nat :=
  match SMap.get 0 m.tags line with
  | 0 => m.bareTag line
  | t + 1 => t

/-- What is listed for a tag: nothing for the one an unlisted line has. -/
def Mem.listedTag (m : Mem) (line tag : Nat) : Nat := if tag = m.bareTag line then 0 else tag + 1

/-- Put the tag of a line. -/
def Mem.setTag (m : Mem) (line tag : Nat) : Mem := { m with tags := SMap.set 0 m.tags line (m.listedTag line tag) }

/-- Store a whole line under a tag. -/
def Mem.setLine (m : Mem) (line : Nat) (data : BitVec 1024) (poison : Bool) (tag : Nat) : Mem :=
  { m with
    cells := (List.range 128).foldl (fun c i => SMap.set 0 c (line * 128 + i) (data.extractLsb' (8 * i) 8)) m.cells
    poison := putNum poison line m.poison
    tags := SMap.set 0 m.tags line (m.listedTag line tag) }

/-- Numbers strictly rise. -/
def risingNums : List Nat → Bool
  | [] => true
  | x :: xs => xs.all (fun y => decide (x < y)) && risingNums xs

/-- No line is listed under the tag that it has unlisted. -/
def Mem.tagsBare (m : Mem) : Bool := m.tags.all (fun p => p.2 != m.bareTag p.1 + 1)

/-- The canonical form of memory: bytes, key tags and sills as maps in canonical form, poisoned lines in rising order. -/
def Memory.wf (m : Mem) : Bool :=
  SMap.wf 0 m.cells && SMap.wf 0 m.tags && m.tagsBare && SMap.wf 0 m.sills && risingNums m.poison

/-- The tag of a key: its number and its generation (R250, R402).
Marked: DEDUCED, not safe, log 6. -/
def State.keyTag (s : State) (key : Nat) : Nat := key * 2 ^ 32 + SMap.get 0 s.chip.keyGen key

/-- A stored line read under a key (R250); `own` is the line whose LOCAL address is the tweak, which differs from where the line
stands only while HBM caches the tier (R372).
Marked: DESIGN CHOICE, not safe, log 5; DESIGN CHOICE, safe, log 26. -/
def State.plain (s : State) (key line own : Nat) : BitVec 1024 :=
  let tag := s.mem.tagOf line
  let want := s.keyTag key
  if tag = want then s.mem.line line else Config.recrypt tag want own (s.mem.line line)

/-! ## Sills (R363, R364, R373) -/

/-- One step of the CRC-8 of R364. -/
def crcStep (c : BitVec 8) (b : Bool) : BitVec 8 := if c.msb != b then (c <<< 1) ^^^ 0x07 else c <<< 1

/-- CHK over sill bits [31:8], the most significant bit first (R364).
Marked: DEDUCED, not safe, log 91. -/
def sillChk (v : BitVec 32) : BitVec 8 := (List.range 24).foldl (fun c i => crcStep c (v.getLsbD (31 - i))) 0

/-- A sill with its check code.
Marked: DEDUCED, not safe, log 91. -/
def sealSill (v : BitVec 32) : BitVec 32 := (v.extractLsb' 8 24) ++ sillChk v

/-- ST (R363). -/
def sillSt (v : BitVec 32) : Nat := (v.extractLsb' 29 3).toNat
/-- OWNER of a sill. -/
def sillOwner (v : BitVec 32) : Nat := (v.extractLsb' 21 8).toNat
/-- SHG. -/
def sillShg (v : BitVec 32) : Nat := (v.extractLsb' 13 8).toNat
/-- POIS. -/
def sillPois (v : BitVec 32) : Bool := v.getLsbD 12

/-- A sill of MODE 0 from its fields. -/
def mkSill (st owner shg : Nat) (pois : Bool) : BitVec 32 :=
  sealSill (BitVec.ofNat 3 st ++ BitVec.ofNat 8 owner ++ BitVec.ofNat 8 shg ++ BitVec.ofBool pois ++ (0 : BitVec 12))

/-- The stored sill of a line; the reset form is INV, whose check code is 0 (R363).
Marked: DEDUCED, not safe, log 91. -/
def State.sill (s : State) (line : Nat) : BitVec 32 := SMap.get 0 s.mem.sills line

/-- Put a sill. -/
def State.setSill (s : State) (line : Nat) (v : BitVec 32) : State :=
  s.modMem (fun m => { m with sills := SMap.set 0 m.sills line v })

/-- A stored line is poisoned, or no longer so, as its sill tells (R363, R373). -/
def setPois (v : BitVec 32) (p : Bool) : BitVec 32 := if sillPois v = p then v else sealSill (if p then v ||| 0x1000#32 else v &&& 0xFFFFEFFF#32)

/-- Whether a sill fails R364 in the present mode: its check code is wrong, or in MODE 0 its ST is undefined. -/
def sillBad (mode : Bool) (v : BitVec 32) : Bool := v.extractLsb' 0 8 != sillChk v || (!mode && decide (5 ≤ sillSt v))

/-! ## HBM as a cache of the tier (R372 to R375) -/

/-- NS: sets of the tier cache (R372). -/
def State.tierSets (s : State) : Nat := (1024 - s.lostChannels.length) * 0x60000000 / 512

/-- The HBM lines in service, in ascending LOCAL order (R372). -/
def State.linesInService (s : State) : List Nat := (List.range (hbmBytes / 128)).filter s.lineInService

/-- The HBM line of number `n` in the numbering of R372. -/
def State.hbmLine (s : State) (n : Nat) : Nat := if s.lostChannels.isEmpty then n else (s.linesInService[n]?).getD 0

/-- The number of an HBM line in service in the numbering of R372: how many stand before it. -/
def State.hbmNumber (s : State) (line : Nat) : Nat :=
  if s.lostChannels.isEmpty then line else ((List.range line).filter s.lineInService).length

/-- Set and tag of a tier line. -/
def State.tierPlace (s : State) (line : Nat) : Nat × Nat :=
  let l := line - tierBase / 128
  (l % s.tierSets, l / s.tierSets)

/-- The HBM lines of a set, by way. -/
def State.setLines (s : State) (set : Nat) : List Nat := (List.range 4).map (fun w => s.hbmLine (4 * set + w))

/-- V, D, TAG, SDM and AGE of a sill in MODE 1. -/
def wayV (v : BitVec 32) : Bool := v.getLsbD 31
/-- D. -/
def wayD (v : BitVec 32) : Bool := v.getLsbD 30
/-- TAG. -/
def wayTag (v : BitVec 32) : Nat := (v.extractLsb' 24 6).toNat
/-- SDM. -/
def waySdm (v : BitVec 32) : BitVec 4 := v.extractLsb' 20 4
/-- AGE. -/
def wayAge (v : BitVec 32) : Nat := (v.extractLsb' 18 2).toNat

/-- A sill of MODE 1 from its fields. -/
def mkWay (v d : Bool) (tag : Nat) (sdm : BitVec 4) (age : Nat) (pois : Bool) : BitVec 32 :=
  sealSill (BitVec.ofBool v ++ BitVec.ofBool d ++ BitVec.ofNat 6 tag ++ sdm ++ BitVec.ofNat 2 age ++ (0 : BitVec 5) ++
    BitVec.ofBool pois ++ (0 : BitVec 12))

/-- The way that holds a tier line: its HBM line (R374). -/
def State.tierHit (s : State) (line : Nat) : Option Nat :=
  let (set, tag) := s.tierPlace line
  (s.setLines set).find? (fun h => !sillBad true (s.sill h) && wayV (s.sill h) && wayTag (s.sill h) == tag)

/-- A line of the tier while HBM caches it. -/
def State.cached (s : State) (line : Nat) : Bool := s.chip.dom.mode && inTier (line * 128)

/-- Whether the set of a tier line is quarantined (R375). -/
def State.quarantined (s : State) (line : Nat) : Bool := memb (s.tierPlace line).1 s.cache.quarantine

/-- What memory holds of a line, read under a key: the data and whether it is poisoned (R250, R256, R374, R375).
Marked: DESIGN CHOICE, safe, log 26. -/
def State.backing (s : State) (key line : Nat) : BitVec 1024 × Bool :=
  if s.cached line then
    match s.tierHit line with
    | some h => (s.plain key h line, memb h s.mem.poison)
    | none => if s.quarantined line then (0, true) else (s.plain key line line, memb line s.mem.poison)
  else (s.plain key line line, memb line s.mem.poison)

/-- AGE after an access to a way: 0 there, one more in the others, up to 3 (R373). -/
def State.ageSet (s : State) (set : Nat) (hit : Nat) : State :=
  (s.setLines set).foldl (fun s h =>
    let v := s.sill h
    if sillBad true v then s
    else s.setSill h (mkWay (wayV v) (wayD v) (wayTag v) (waySdm v) (if h = hit then 0 else min 3 (wayAge v + 1)) (sillPois v))) s

/-- Put D of one way, and SDM in every way of its set (R373, R374). The bit of a damaged way stays as the others show it (R375). -/
def State.setDirty (s : State) (set hbm : Nat) (d : Bool) : State :=
  let ls := s.setLines set
  let s1 := s.setSill hbm (let v := s.sill hbm; mkWay (wayV v) d (wayTag v) (waySdm v) (wayAge v) (sillPois v))
  let sdm : BitVec 4 := BitVec.ofNat 4 ((List.range 4).foldl (fun m w =>
    match ls[w]? with
    | some h => if (if sillBad true (s1.sill h) then (waySdm (s1.sill hbm)).getLsbD w else wayD (s1.sill h)) then m + 2 ^ w else m
    | none => m) 0)
  ls.foldl (fun s h =>
    let v := s.sill h
    if sillBad true v then s else s.setSill h (mkWay (wayV v) (wayD v) (wayTag v) sdm (wayAge v) (sillPois v))) s1

/-- Move a stored line as it is, with its key and poison. -/
def Mem.moveLine (m : Mem) (from_ to_ : Nat) : Mem :=
  m.setLine to_ (m.line from_) (memb from_ m.poison) (m.tagOf from_)

/-- Put a set under quarantine, or halt the part when the table is full (R23, R375). -/
def State.quarantineSet (s : State) (set : Nat) (ls : List Nat) : State :=
  if memb set s.cache.quarantine then s
  else if s.cache.quarantine.length < 256 then
    (s.modCache (fun c => { c with quarantine := insertNum set c.quarantine })).record 0xF 0x3F9
      (BitVec.ofNat 64 ((ls.head?).getD 0 * 128))
  else s.fatal 0x3F7

/-- A damaged way of a set (R375): a clean one is set V 0 with record 0x3FC; otherwise the set is quarantined with record
0x3F9, and beyond 256 sets the part halts with 0x3F7 (R23). -/
def State.damagedWay (s : State) (set w : Nat) : State :=
  let ls := s.setLines set
  let h := (ls[w]?).getD 0
  let other := (ls.filter (fun x => x != h)).find? (fun x => !sillBad true (s.sill x))
  match other with
  | some o =>
    if !(waySdm (s.sill o)).getLsbD w then
      (s.setSill h (mkWay false false 0 (waySdm (s.sill o)) 0 false)).record 0xF 0x3FC (BitVec.ofNat 64 (h * 128))
    else s.quarantineSet set ls
  | none => s.quarantineSet set ls

/-- Bring a tier line into HBM (R374): hit, or the victim way, written to the tier first when dirty, which counts for the bay of the line
that takes the way (R422). A miss of a quarantined set allocates nothing. -/
def State.tierFill (s : State) (line : Nat) : State :=
  let (set, tag) := s.tierPlace line
  let ls := s.setLines set
  let s := (List.range 4).foldl (fun s w => if sillBad true (s.sill ((ls[w]?).getD 0)) then s.damagedWay set w else s) s
  match s.tierHit line with
  | some h => s.ageSet set h
  | none =>
    if s.quarantined line then s else
      let usable := ls.filter (fun h => !sillBad true (s.sill h))
      let oldest := usable.foldl (fun m h => max m (wayAge (s.sill h))) 0
      match (usable.find? (fun h => !wayV (s.sill h))).orElse (fun _ => usable.find? (fun h => wayAge (s.sill h) == oldest)) with
      | none => s
      | some h =>
        let v := s.sill h
        let b := s.lineBay line
        let s := if wayV v && wayD v then
            ((s.modMem (fun m => m.moveLine h (tierBase / 128 + wayTag v * s.tierSets + set))).setDirty set h false).count b 7
              (if b < 12 then 128 else 0)
          else s
        let s := s.modMem (fun m => m.moveLine line h)
        (s.setSill h (mkWay true false tag (waySdm (s.sill h)) 0 (memb line s.mem.poison))).ageSet set h

/-- POIS of an HBM line's sill follows the line (R363, R373); a damaged sill is left as it is, and the tier has none. -/
def State.markPois (s : State) (line : Nat) (p : Bool) : State :=
  let v := s.sill line
  if hbmBytes / 128 ≤ line || sillBad s.chip.dom.mode v || sillPois v == p then s else s.setSill line (setPois v p)

/-- Write a line back to memory, its sill with it (R250, R363, R374, R375). -/
def State.writeBack (s : State) (key line : Nat) (data : BitVec 1024) (poison : Bool) : State :=
  let tag := s.keyTag key
  if s.cached line then
    let s := s.tierFill line
    match s.tierHit line with
    | some h => ((s.modMem (fun m => m.setLine h data poison tag)).markPois h poison).setDirty (s.tierPlace line).1 h true
    | none => s
  else (s.modMem (fun m => m.setLine line data poison tag)).markPois line poison

/-! ## Claims on lines of a home slice (R262 to R266) -/

/-- D(k) of a distance code (R262). -/
def distTicks (k : Nat) : Nat := if k = 30 then 256 else min (isqrt (2 ^ (k - 1))) 4095

/-- LeaseLen (R270), for the TNS of the requesting bay. -/
def leaseLen (k t : Nat) : Nat :=
  if k = 0 then 0 else if k = 30 then 2048 else if k = 31 then 32768 else min (distTicks k * t) 32768

/-- Ticks left of a TIMED line, and ticks past of a DUE or LAPSED one (R264). -/
def L2Line.remaining (l : L2Line) (brc : Nat) : Nat := (l.stamp + 4096 - brc) % 4096
/-- Ticks past STAMP. -/
def L2Line.overdue (l : L2Line) (brc : Nat) : Nat := (brc + 4096 - l.stamp) % 4096

/-- The tick rows of R265 at a value of the clock: the line after them and whether a BROKEN event counts. -/
def L2Line.tick (l : L2Line) (brc : Nat) : L2Line × Bool :=
  match l.cls with
  | .timed => if l.stamp = brc then ({ l with cls := .due }, false) else (l, false)
  | .due => if 65 ≤ l.overdue brc then ({ l with cls := .lapsed }, l.decl) else (l, false)
  | _ => (l, false)

/-- Put a claim of distance D(k). -/
def L2Line.stake (l : L2Line) (brc x k : Nat) (decl : Bool) : L2Line :=
  { l with cls := .timed, stamp := (brc + distTicks k) % 4096, clm := x, decl := decl }

/-- The request rows of R265 for claimant `x` and code `k`: the line after them and whether a KEPT event counts. -/
def L2Line.claim (l : L2Line) (brc x k : Nat) (keepOk : Bool) : L2Line × Bool :=
  let own := l.clm == x
  let due := l.cls == .timed || l.cls == .due
  let kept := due && own && l.decl
  if k = 0 then
    if due then (if own then ({ l with cls := .dead }, l.decl) else (l, false)) else ({ l with cls := .dead }, false)
  else if l.cls = .keep then (l, false)
  else if k = 31 ∧ keepOk then ({ l with cls := .keep, clm := x }, kept)
  else
    let k' := if k = 31 then 29 else k
    let decl := decide (k ≤ 29)
    match l.cls with
    | .timed =>
      if own then (l.stake brc x k' decl, kept)
      else if distTicks k' < l.remaining brc then (l.stake brc x k' decl, false) else (l, false)
    | .due => (l.stake brc x k' decl, kept)
    | _ => (l.stake brc x k' decl, false)

/-! ## Home slices (R251, R252, R267, R268) -/

/-- The home slice of a line: one of those left of the 32 on the die beside the stack that holds the line (R16, R18, R251).
Marked: DESIGN CHOICE, safe, log 24. -/
def State.sliceOf (s : State) (line : Nat) : Nat :=
  let die := channelOf line / 256
  let left := ((List.range 32).map (32 * die + ·)).filter (fun n => !memb n s.lostSlices)
  (left[Config.homeSlice s.lostSlices line % max 1 left.length]?).getD (32 * die)

/-- The set of its slice that a line falls in, of the 512 of 2 MiB in 32 ways of 128 bytes (R16, R98).
Marked: DESIGN CHOICE, safe, log 24. -/
def setOfLine (line : Nat) : Nat := Config.homeSet line % 512

/-- The value of a 48-bit logical clock that stands `ahead` of the steps taken (R10, R251).
Marked: DESIGN CHOICE, not safe, log 14. -/
def State.clockAt (s : State) (ahead : Nat) : Nat := (s.now + ahead) % 2 ^ 48

/-- How far a clock that holds `t` stands ahead of the steps taken.
Marked: DESIGN CHOICE, not safe, log 14. -/
def State.aheadOf (s : State) (t : Nat) : Nat := (t + 2 ^ 48 - s.now % 2 ^ 48) % 2 ^ 48

/-- CLK of a slice (R251).
Marked: DESIGN CHOICE, not safe, log 8 and 14. -/
def State.clk (s : State) (slice : Nat) : Nat := s.clockAt (SMap.get 0 s.cache.clkAhead slice)

/-- CT of a core (R251).
Marked: DESIGN CHOICE, not safe, log 8 and 14. -/
def State.ct (s : State) (core : Nat) : Nat := s.clockAt (SMap.get 0 s.cache.ctAhead core)

/-- CT(c) := max(CT(c), t). -/
def State.raiseCt (s : State) (core t : Nat) : State :=
  if t ≤ s.ct core then s else s.modCache (fun c => { c with ctAhead := SMap.set 0 c.ctAhead core (s.aheadOf t) })

/-- The furthest CLK of the package's slices.
Marked: DEDUCED, safe, log 80. -/
def State.clkMost (s : State) : Nat := s.cache.clkAhead.foldl (fun m p => max m (s.clockAt p.2)) (s.clockAt 0)

/-- An acquire that no reply of a home slice carries (a pane flag, a latch, a fence, the start of a frame): CT(c) passes the
WTS of every write performed so far, so that no older copy hits (R252, R296, R302, R351).
Marked: DEDUCED, safe, log 80. -/
def State.syncCore (s : State) (core : Nat) : State := s.raiseCt core s.clkMost

/-- The logical time a request carries: the core's CT; an engine's is the furthest CLK, past every write it orders (R86, R302).
Marked: DEDUCED, safe, log 80. -/
def State.timeOf (s : State) (core : Nat) : Nat := if core < 256 then s.ct core else s.clkMost

/-- CLK(h) := max(CLK(h), t). -/
def State.raiseClk (s : State) (slice t : Nat) : State :=
  if t ≤ s.clk slice then s else s.modCache (fun c => { c with clkAhead := SMap.set 0 c.clkAhead slice (s.aheadOf t) })

/-- A line present in its home slice. -/
def State.l2? (s : State) (line : Nat) : Option L2Line := SMap.find s.cache.lines line

/-- Put a line. -/
def State.putLine (s : State) (line : Nat) (l : L2Line) : State := s.modCache (fun c => { c with lines := c.lines.put line l })

/-- The furthest lease any slice has granted.
Marked: DEDUCED, safe, log 73. -/
def State.leaseMost (s : State) : Nat :=
  s.cache.mrts.foldl (fun m p => max m p.2) (s.cache.lines.foldl (fun m p => max m p.2.rts) (s.clockAt 0))

/-- Every reserved way of a bay that is not FREE (R98). -/
def State.takenWays (s : State) : List Nat := s.bays.flatMap (·.ways)

/-- Candidate ways for a line of a bay (R267). -/
def State.candidates (s : State) (b : Nat) : List Nat :=
  let taken := s.takenWays
  let shared := (List.range 32).filter (fun w => !memb w taken)
  if b < 12 then sortNums ((s.bay b).ways ++ (if (s.bay b).elastic then shared else [])) else shared

/-- The way number of a line held only for its request (R267).
Marked: DEDUCED, safe, log 77. -/
def transientWay : Nat := 99

/-- Key of R268.
Marked: DEDUCED, safe, log 77. -/
def State.victimKey (s : State) (l : L2Line) : Int :=
  let brc := s.brcOf l.bay
  let m : Int := if l.cls = .timed then (l.remaining brc : Int) else -(l.overdue brc : Int)
  m * (s.bayTns l.bay : Int) * ((4 + (if l.bay < 12 then (s.bay l.bay).credUsed else 0) : Nat) : Int)

/-- The largest of some ways by key, the lowest way on a tie. -/
def bestWay (g : Nat → Int) : List Nat → Option Nat
  | [] => none
  | w :: ws =>
    match bestWay g ws with
    | none => some w
    | some v => if g w < g v then some v else some w

/-- The victim of R268 among candidate ways, given what stands in each: none when every candidate is pinned. A way without a line
is EMPTY, and so is a line whose request has not yet applied its claim (R264).
Marked: DEDUCED, safe, log 77. -/
def State.victim (s : State) (at_ : Nat → Option L2Line) (cands : List Nat) : Option Nat :=
  let cs := cands.filter (fun w => match at_ w with
    | some l => l.pins.isEmpty
    | none => true)
  let ofClass (k : LineClass) : Option Nat := cs.find? (fun w => match at_ w with
    | some l => l.cls == k
    | none => k == .empty)
  match ofClass .empty, ofClass .dead, ofClass .lapsed with
  | some w, _, _ => some w
  | none, some w, _ => some w
  | none, none, some w => some w
  | none, none, none =>
    let timed := cs.filter (fun w => match at_ w with
      | some l => l.cls == .timed || l.cls == .due
      | none => false)
    match bestWay (fun w => match at_ w with
        | some l => s.victimKey l
        | none => 0) timed with
    | some w => some w
    | none => (ofClass .keep).orElse (fun _ => cs.head?)

/-- Send a message to another package. -/
def State.send (s : State) (m : Message) : State := s.modCache (fun c => { c with outbox := c.outbox ++ [m] })

/-- Package and LOCAL line of a guest line's key (R362). -/
def guestHome (key : Nat) : Nat × Nat := ((key - 2 ^ 43) / 2 ^ 37, key % 2 ^ 37)

/-- What leaves with a line: a dirty line of this package is written back; a guest line under S is dropped, a clean E line
sends a notice, and an M or O line is written back to its home and kept until the home answers (R362, R367). -/
def State.leaveSlice (s : State) (line : Nat) (l : L2Line) : State :=
  match l.guest with
  | none =>
    if l.dirty then (s.writeBack l.key line l.data l.poison).count l.bay 7 (if l.bay < 12 then 128 else 0) else s
  | some .s => s
  | some .e => s.send (.cleanNotice (guestHome line).1 (guestHome line).2 (s.channelTo l.bay (guestHome line).1))
  | some _ =>
    (s.send (.writeBack (guestHome line).1 (guestHome line).2 (s.channelTo l.bay (guestHome line).1) l.data l.poison)).modCache
      (fun c => { c with keptBacks := c.keptBacks.put line (l.data, l.poison) })

/-- A line is taken out of its slice and MRTS is raised (R252). -/
def State.dropLine (s : State) (line : Nat) (l : L2Line) : State :=
  s.modCache (fun c => { c with
    lines := c.lines.drop line
    mrts := c.mrts.put l.slice (max (SMap.get 0 c.mrts l.slice) l.rts) })

/-- A line is evicted (R252, R268). -/
def State.evict (s : State) (line : Nat) : State :=
  match s.l2? line with
  | none => s
  | some l => (s.leaveSlice line l).dropLine line l

/-- The lines of a set. -/
def State.setOf (s : State) (slice set : Nat) : List (Nat × L2Line) :=
  s.cache.lines.filter (fun p => p.2.slice == slice && p.2.set == set)

/-- Where a line of a bay may enter its slice: the way, and the line to evict first (R267, R268); none when a demand fill
must wait for a pin. -/
def State.place (s : State) (line b : Nat) : Option (Nat × Option Nat) :=
  let cands := s.candidates b
  if cands.isEmpty then some (transientWay, none)
  else
    let slice := s.sliceOf line
    let here := s.setOf slice (setOfLine line)
    let at_ (w : Nat) : Option L2Line := (here.find? (fun p => p.2.way == w)).map (·.2)
    let free := cands.find? (fun w => (at_ w).isNone)
    if s.cache.lines.length < cands.length ∧ s.cache.lines.all (fun p => p.2.cls != .empty) then some (free.getD 0, none)
    else
      match s.victim at_ cands with
      | some w => some (w, (here.find? (fun p => p.2.way == w)).map (·.1))
      | none => none

/-- The score after an epoch with `kept` and `broken` events (R269). -/
def credAfter (cred kept broken : Nat) : Nat :=
  let n := kept + broken
  if n < 64 then cred
  else if n < 4 * broken then min 15 (cred + 1)
  else if 16 * broken ≤ n then cred - 1
  else cred

/-- An epoch that has ended is settled: CRED is adjusted and both counts are cleared (R269).
Marked: DESIGN CHOICE, not safe, log 120. -/
def State.settleEpoch (s : State) (b : Nat) : State :=
  if (s.bay b).epochDue then
    s.modBay b (fun y => { y with cred := credAfter y.cred y.kept y.broken, kept := 0, broken := 0, epochDue := false })
  else s

/-- Count KEPT or BROKEN for a bay: the epoch's counts and the cumulative counters (R269, R422).
Marked: DESIGN CHOICE, not safe, log 120. -/
def State.countKept (s : State) (b : Nat) (kept : Bool) : State :=
  if b < 12 then
    ((s.settleEpoch b).modBay b (fun y => if kept then { y with kept := y.kept + 1 } else { y with broken := y.broken + 1 })).count b
      (if kept then 8 else 9) 1
  else s

/-- The pending tick rows of one line (R265). -/
def State.tickLine (s : State) (line : Nat) : State :=
  match s.l2? line with
  | none => s
  | some l =>
    let (l', broken) := l.tick (s.brcOf l.bay)
    let s := if l' = l then s else s.putLine line l'
    if broken then s.countKept l.bay false else s

/-- Where a line of a bay enters its slice; one that a tile fetch has asked for waits for no pin, and is then held only for its request
(R267). -/
def State.placeFor (s : State) (line b : Nat) (fetch : Bool) : Option (Nat × Option Nat) :=
  (s.place line b).orElse (fun _ => if fetch then some (transientWay, none) else none)

/-- A line of bay `b` enters its slice with fresh stamps and an empty record (R252, R264), the victim leaving first; `get`
reads its contents. None while every candidate way is pinned. -/
def State.enter (s : State) (line b key : Nat) (guest : Option GuestPerm) (fetch : Bool) (get : State → BitVec 1024 × Bool) :
    Option State :=
  let s := (s.setOf (s.sliceOf line) (setOfLine line)).foldl (fun s p => s.tickLine p.1) s
  match s.placeFor line b fetch with
  | none => none
  | some (way, out) =>
    let s := match out with
      | some v => s.evict v
      | none => s
    let slice := s.sliceOf line
    let wts := max (s.clk slice) (SMap.get 0 s.cache.mrts slice)
    let (d, p) := get s
    some ((s.putLine line
      { slice := slice, set := setOfLine line, way := way, data := d, poison := p, dirty := false, guest := guest, key := key,
        bay := b, pins := [], decl := false, cls := .empty, clm := 0, stamp := 0, wts := wts, rts := wts }).raiseClk slice wts)

/-- HomeRefill (R252): a line of this package enters its home slice from memory, read under a key, for a bay's request. -/
def State.refill (s : State) (key line reqBay : Nat) : Option State :=
  match (if s.cached line then s.tierFill line else s).enter line (s.lineBay line) key none false (fun s => s.backing key line) with
  | none => none
  | some s => some (if reqBay < 12 then (s.count reqBay 5 1).count reqBay 6 128 else s)

/-- A keep claim is allowed by R266. -/
def State.keepOk (s : State) (line : Nat) : Bool :=
  match s.l2? line with
  | none => false
  | some l =>
    l.bay < 12 && memb l.way (s.bay l.bay).ways &&
      decide (((s.setOf l.slice l.set).filter (fun p => p.2.bay == l.bay && p.2.cls == .keep)).length + 1 ≤
        (s.bay l.bay).wayCount / 2)

/-- A request for a present line applies its claim (R265). -/
def State.claimLine (s : State) (line x k : Nat) : State :=
  let s := s.tickLine line
  match s.l2? line with
  | none => s
  | some l =>
    let (l', kept) := l.claim (s.brcOf l.bay) x k (k == 31 && s.keepOk line)
    let s := s.putLine line l'
    if kept then s.countKept l.bay true else s

/-- A line held only for its request leaves the slice when the request is complete (R267). -/
def State.dropTransient (s : State) (line : Nat) : State :=
  match s.l2? line with
  | some l => if l.way = transientWay then s.evict line else s
  | none => s

/-- HomeRead on a present line (R252): the claim, and the lease for a requester whose logical time is `ct`. -/
def State.homeRead (s : State) (line x k ct reqBay : Nat) : State :=
  let s := s.claimLine line x k
  match s.l2? line with
  | none => s
  | some l => if k = 0 then s else s.putLine line { l with rts := max l.rts (max l.wts ct + leaseLen k (s.bayTns reqBay)) }

/-- Whether HomeWrite must still wait for the slice's clock (R252). -/
def State.homeWriteWaits (s : State) (l : L2Line) : Bool :=
  decide (l.rts ≤ s.clk l.slice + 64) && decide (s.clk l.slice ≤ l.rts)

/-- HomeWrite on a present line (R252): the claim, the new stamp and the new contents; answers the line's WTS too.
Marked: DEDUCED, safe, log 81. -/
def State.homeWrite (s : State) (line x k ct : Nat) (g : BitVec 1024 × Bool → BitVec 1024 × Bool) : State × Nat :=
  let s := s.claimLine line x k
  match s.l2? line with
  | none => (s, 0)
  | some l =>
    let wts := if l.rts < s.clk l.slice then max (s.clk l.slice) ct else max (l.rts + 1) ct
    let (d, p) := g (l.data, l.poison)
    ((s.putLine line { l with data := d, poison := p, dirty := true, wts := wts, rts := wts }).raiseClk l.slice wts, wts)

/-- The coherent value of a line of this package, under a key: its slice's copy, else memory. -/
def State.coherent (s : State) (key line : Nat) : BitVec 1024 × Bool :=
  match s.l2? line with
  | some l => (l.data, l.poison)
  | none => s.backing key line

/-- Bytes of a line value. -/
def lineBytes (d : BitVec 1024) (off n : Nat) : Nat := field d.toNat (8 * off) (8 * n)

/-- A read of `n` bytes at a LOCAL address within one line, under a key, and whether the line is poisoned. -/
def State.readLocal (s : State) (key loc n : Nat) : Nat × Bool :=
  let line := loc / 128
  match s.l2? line with
  | some l => (lineBytes l.data (loc % 128) n, l.poison)
  | none =>
    if !s.cached line && s.mem.tagOf line == s.keyTag key then
      (ofBytes ((List.range n).map (fun i => SMap.get 0 s.mem.cells (loc + i))), memb line s.mem.poison)
    else
      let (d, p) := s.backing key line
      (lineBytes d (loc % 128) n, p)

end Sys2Proof.Machine
end

