-- ==== Sys2Proof/Machine/Translate.lean ====
section
/-! DEFINITION. Translation and protection (R238 to R241, R244 to R249, R360, R361, R384): the walk, the checks of an access
in their order, and kept translations. -/

namespace Sys2Proof.Machine

/-- Who makes an access: the bay (12 for the steward core), the level, the bay and key of STKEY for a steward data access (R249,
R378, R384), and the core whose translation caches serve it, 256 for the steward core and 257 for what is no core (R247). -/
structure Requester where
  bay : Nat
  level : Nat
  st : Option (Nat × Nat)
  core : Nat := 257
  deriving DecidableEq, Repr

/-- What an access does (R246); an invalidation of instruction lines is content with R or X (R281).
Marked: DEDUCED, not safe, log 78. -/
inductive AccKind where
  | read | write | atomic | fetch | inval
  deriving DecidableEq, Repr

/-- An access that writes: a write or an atomic (R246, R287). -/
def AccKind.writes (k : AccKind) : Bool := k == .write || k == .atomic

/-! ## What is kept for the accesses of a bay -/

/-- The key under which a line of this package is kept: its granule's (R248, R250). -/
def State.granuleKey (s : State) (line : Nat) : Nat := entryKey (s.ownerEntry (line * 128))

/-- The failure that a bay's access of a line, made outside the memory words, still has to report (R360, R370). -/
def State.deniedTo (s : State) (line bay key : Nat) (write : Bool) : Option Nat :=
  (s.cache.denied.find? (fun d => d.line == line && d.bay == bay && d.key == key && d.write == write)).map (·.cause)

/-- The access of this package that had the turn at a line is made (R367): a memory word's (none), or one of a bay. -/
def State.turnTaken (s : State) (line : Nat) (who : Option Nat) : State :=
  if s.cache.homeTurn.any (· == (line, who)) then s.modCache (fun c => { c with homeTurn := c.homeTurn.filter (· != (line, who)) }) else s

/-! ## The walk (R244, R245) -/

/-- The root that stands for the bring-up map of the steward core (R431).
Marked: DESIGN CHOICE, not safe, log 9. -/
def bringupRoot : BitVec 64 := 1

/-- Why a table read fails (R244): address, key and owner of the granule that holds the entry. -/
def State.tableCause (s : State) (bay pkg loc : Nat) : Option Nat :=
  let e := s.ownerEntry loc
  if pkg ≠ s.pkgNum ∨ !s.hasMemory loc then some 0x289
  else if memb (loc / 65536) s.chip.ownersBad then some 0x287
  else if bay = 12 then (if entryKey e ≠ 0 then some 0x286 else if entryOwner e ≠ 0xE then some 0x287 else none)
  else if !(s.bay bay).keySet.getLsbD (entryKey e) then some 0x286
  else if entryOwner e ≠ bay then some 0x287 else none

/-- Bits of an entry that must be zero, its LEAF rule and its alignment (R245). -/
def entryMalformed (level : Nat) (e : BitVec 64) : Bool :=
  let leaf := e.getLsbD 1
  let addrLow (n : Nat) : Bool := field e.toNat 8 (n - 8) != 0
  (e.extractLsb' 58 6 != 0) || (e.extractLsb' 6 2 != 0) ||
  (if leaf then
      decide (3 ≤ level) || addrLow (match level with
        | 2 => 30
        | 1 => 21
        | _ => 16)
    else level == 0 || e.extractLsb' 52 6 != 0 || e.extractLsb' 2 4 != 0 || (decide (2 ≤ level) && addrLow 12))

/-- The lowest address bit a level indexes, and the number of index bits. -/
def levelShift (level : Nat) : Nat × Nat :=
  match level with
  | 4 => (48, 9)
  | 3 => (39, 9)
  | 2 => (30, 9)
  | 1 => (21, 9)
  | _ => (16, 5)

/-- What a walk finds: the leaf and the log2 of its page, or the cause, and the LOCAL lines it read. -/
structure Walk where
  leaf : Except Nat (BitVec 64 × Nat)
  lines : List Nat

/-- The entry of a table that a virtual address selects, checked by R244 and R245, and the line read. -/
def State.tableEntry (s : State) (bay level : Nat) (va : BitVec 64) (table : Nat) : Except Nat (BitVec 64) × List Nat :=
  let (sh, w) := levelShift level
  let pa := table + 8 * field va.toNat sh w
  let loc := pa % 2 ^ 44
  match s.tableCause bay (field pa 44 8) loc with
  | some k => (.error k, [])
  | none =>
    match s.deniedTo (loc / 128) bay (s.granuleKey (loc / 128)) false with
  | some k => (.error k, [])
  | none =>
    let (v, poison) := s.readLocal (s.granuleKey (loc / 128)) loc 8
    let e := BitVec.ofNat 64 v
    if poison then (.error 0x3F1, [loc / 128])
    else if !e.getLsbD 0 then (.error 0x281, [loc / 128])
    else if entryMalformed level e then (.error 0x285, [loc / 128])
    else (.ok e, [loc / 128])

/-- The walk from a level down (R244). -/
def State.walkFrom (s : State) (bay : Nat) (va : BitVec 64) : Nat → Nat → Walk
  | 0, table =>
    match s.tableEntry bay 0 va table with
    | (.error k, ls) => { leaf := .error k, lines := ls }
    | (.ok e, ls) => { leaf := .ok (e, 16), lines := ls }
  | level + 1, table =>
    match s.tableEntry bay (level + 1) va table with
    | (.error k, ls) => { leaf := .error k, lines := ls }
    | (.ok e, ls) =>
      if e.getLsbD 1 then { leaf := .ok (e, (levelShift (level + 1)).1), lines := ls }
      else
        let r := s.walkFrom bay va level (field e.toNat 8 44 * 256)
        { r with lines := ls ++ r.lines }

/-- The leaf that the bring-up map gives: it names LOCAL addresses of this package (R431).
Marked: DESIGN CHOICE, not safe, log 9; DEDUCED, not safe, log 79. -/
def bringupLeaf (pkg va : Nat) : Except Nat (BitVec 64 × Nat) :=
  if va < 0x4000000 then .ok (BitVec.ofNat 64 (pkg * 2 ^ 44 + (0x17FFC000000 + va / 0x10000 * 0x10000) + 0x1F), 16)
  else
    let k := field va 44 6
    let a := field va 0 44
    if 2 ^ 56 ≤ va ∧ va < 2 ^ 56 + 2 ^ 50 ∧ a < hbmBytes then
      .ok (BitVec.ofNat 64 (k * 2 ^ 52 + pkg * 2 ^ 44 + a / 2 ^ 30 * 2 ^ 30 + 0x0F), 30)
    else .error 0x281

/-- The walk of a virtual address below 2^57 by a bay's own root (R244, R398, R431). -/
def State.walk (s : State) (bay : Nat) (va : BitVec 64) : Walk :=
  let root := (s.bay bay).root
  if root = 0 then { leaf := .error 0x281, lines := [] }
  else if root = bringupRoot then { leaf := bringupLeaf s.pkgNum va.toNat, lines := [] }
  else s.walkFrom bay va 4 root.toNat

/-! ## Kept translations (R247) -/

/-- The die of a core: 64 cores on each of the four compute dies, and 4 for what stands beside them (R13). -/
def dieOf (core : Nat) : Nat := core / 64

/-- The last-level translation cache of a core's die. -/
def lastLevelOf (core : Nat) : Nat := 512 + dieOf core

/-- A kept translation that covers an address of a bay. -/
def TlbEntry.covers (t : TlbEntry) (bay : Nat) (va : BitVec 64) : Bool :=
  t.bay == bay && t.page * 65536 / 2 ^ t.logSize == va.toNat / 2 ^ t.logSize

/-- A kept translation in the first-level cache of a core, or in the last-level one of its die. -/
def TlbEntry.serves (t : TlbEntry) (core : Nat) : Bool := t.unit == core || t.unit == lastLevelOf core

/-- Last-level entries of a die for one size of page (R247).
Marked: DESIGN CHOICE, safe, log 109. -/
def lastLevelEntries (logSize : Nat) : Nat :=
  match logSize with
  | 30 => 512
  | 21 => 16384
  | _ => 65536

/-- The share of a bay that holds n of a die's 32 pairs: n/32 (R247). The steward core, and what stands beside the compute dies, share
theirs with nobody.
Marked: DESIGN CHOICE, safe, log 109. -/
def State.lastLevelShare (s : State) (bay die logSize : Nat) : Nat :=
  if die < 4 then ((s.bay bay).pairs.filter (fun k => k / 32 == die)).length * lastLevelEntries logSize / 32 else lastLevelEntries logSize

/-- A cache of `cap` entries keeps a translation; from a full one another of those it competes with leaves first.
Marked: DESIGN CHOICE, safe, log 109. -/
def State.keepIn (s : State) (t : TlbEntry) (cap : Nat) (rivals : List TlbEntry) : State :=
  if cap = 0 then s
  else if rivals.length < cap then s.modCache (fun c => { c with tlb := t :: c.tlb.filter (· != t) })
  else
    let (n, s1) := s.takeFree
    s1.modCache (fun c => { c with tlb := t :: c.tlb.filter (fun u => u != t && some u != rivals[Config.tlbVictim n % cap]?) })

/-- First-level entries of a core (R247). -/
def firstLevelEntries : Nat := 64

/-- A translation that a core's walk has found is kept in both levels (R247). -/
def State.keepLeaf (s : State) (bay core page logSize : Nat) (leaf : BitVec 64) : State :=
  let t (unit : Nat) : TlbEntry := { bay := bay, unit := unit, page := page, logSize := logSize, leaf := leaf }
  let first := t core
  let last := t (lastLevelOf core)
  let s1 := if 256 < core then s else
    s.keepIn first firstLevelEntries (s.cache.tlb.filter (fun u => u.unit == core && u != first))
  s1.keepIn last (s1.lastLevelShare bay (dieOf core) logSize)
    (s1.cache.tlb.filter (fun u => u.unit == lastLevelOf core && u.bay == bay && u.logSize == logSize && u != last))

/-- Kept translations of an address that a walk no longer finds.
Marked: DESIGN CHOICE, safe, log 28. -/
def State.keptFor (s : State) (bay core : Nat) (va : BitVec 64) : List (BitVec 64 × Nat) :=
  ((s.cache.tlb.filter (fun t => t.covers bay va && t.serves core)).map (fun t => (t.leaf, t.logSize))).filter (fun t =>
    match (s.walk bay va).leaf with
    | .ok w => w != t
    | .error _ => true)

/-- The translation an access uses: the walk's, or any kept one, until a TLBI that covers it completes (R247). `n` is the index of
the free choice.
Marked: DESIGN CHOICE, safe, log 28. -/
def State.leafFor (s : State) (n bay core : Nat) (va : BitVec 64) : Except Nat (BitVec 64 × Nat) :=
  match s.keptFor bay core va with
  | [] => (s.walk bay va).leaf
  | ts =>
    match ts[Config.keptChoice n % (ts.length + 1)]? with
    | some t => .ok t
    | none => (s.walk bay va).leaf

/-! ## Checks of an access (R246, R249, R360) -/

/-- Physical address of a virtual one under a leaf (R245). -/
def leafAddr (e : BitVec 64) (sh : Nat) (va : BitVec 64) : PAddr :=
  let pa := field e.toNat 8 44 * 256 / 2 ^ sh * 2 ^ sh + va.toNat % 2 ^ sh
  { key := field e.toNat 52 6, pkg := field pa 44 8, loc := pa % 2 ^ 44 }

/-- Orders 5 to 7 of R246 on a leaf.
Marked: DEDUCED, not safe, log 78. -/
def leafCause (level : Nat) (kind : AccKind) (e : BitVec 64) : Option Nat :=
  let x := e.getLsbD 4
  let w := e.getLsbD 3
  let r := e.getLsbD 2
  if e.getLsbD 5 && level == 0 then some 0x284
  else match kind with
  | .read => if r then none else some 0x282
  | .fetch => if x then none else some 0x28A
  | .inval => if r || x then none else some 0x282
  | .write => if w then none else some 0x283
  | .atomic => if !r then some 0x282 else if w then none else some 0x283

/-- Orders 8 to 11 of R246 at the home, as an access of a bay, or of the steward (R249, R361, R384). An entry with an uncorrectable
error answers 0x287 before its fields are judged (R391). -/
def State.homeCause (s : State) (who : Requester) (kind : AccKind) (key loc : Nat) : Option Nat :=
  let mem := s.hasMemory loc
  let e := s.ownerEntry loc
  let held (b : Nat) : Bool := (s.bay b).keySet.getLsbD key
  let order8 : Bool :=
    match who.st with
    | some (b, k) => key == k && held b && (!mem || entryKey e == key)
    | none => if who.bay = 12 then key == 0 && (!mem || entryKey e == 0) else held who.bay && (!mem || entryKey e == key)
  let owner : Nat :=
    match who.st with
    | some (b, _) => b
    | none => if who.bay = 12 then 0xE else who.bay
  if mem && memb (loc / 65536) s.chip.ownersBad then some 0x287
  else if !order8 then some 0x286
  else if !mem then some 0x289
  else if entryOwner e != owner then some 0x287
  else if kind.writes && entryRdonly e then some 0x288
  else none

/-- Steps 1 and 2 of R360 for an access to another package: a channel, and a route. -/
def State.remoteCause (s : State) (who : Requester) (pkg : Nat) : Option Nat :=
  if who.st.isSome then some 0x28C
  else if (s.channels who.bay).isEmpty then some 0x28C
  else if !memb pkg s.cache.routes then some 0x28B
  else none

/-- Orders 2 to 11 of R246 for one access: the physical address, or the cause. -/
def State.translate (s : State) (n : Nat) (who : Requester) (kind : AccKind) (va : BitVec 64) : Except Nat PAddr :=
  if va.extractLsb' 57 7 ≠ 0 then .error 0x280
  else
    match s.leafFor n who.bay who.core va with
    | .error k => .error k
    | .ok (e, sh) =>
      match leafCause who.level kind e with
      | some k => .error k
      | none =>
        let pa := leafAddr e sh va
        match (if pa.pkg = s.pkgNum then s.homeCause who kind pa.key pa.loc else s.remoteCause who pa.pkg) with
        | some k => .error k
        | none => .ok pa

/-! ## What walks leave behind -/

/-- Walk reads make claims of code 30 with claimant 257 at the homes of the lines read (R262, R263), and the translation
found is kept (R247) beside those kept before. A line that no slice holds is brought in. -/
def State.walked (s : State) (bay core : Nat) (va : BitVec 64) : State :=
  if va.extractLsb' 57 7 ≠ 0 then s else
    let w := s.walk bay va
    let s := w.lines.foldl (fun s line =>
      match if (s.l2? line).isSome then some s else s.refill (entryKey (s.ownerEntry (line * 128))) line bay with
      | some s' => (((s'.homeRead line 257 30 (s.ct core) bay).count bay 4 (if bay < 12 then 1 else 0)).dropTransient line).turnTaken line (some bay)
      | none => s) s
    match w.leaf with
    | .ok (e, sh) => s.keepLeaf bay core (va.toNat / 2 ^ sh * 2 ^ sh / 65536) sh e
    | .error _ => s

end Sys2Proof.Machine
end

