-- ==== Sys2Proof/Machine/Link.lean ====
section
/-! DEFINITION. Sharing with other packages (R357 to R371): what a home slice does before an access of its own, the
transactions it opens, and what a guest slice answers. -/

namespace Sys2Proof.Machine

/-- The key of a line by its package: a LOCAL line of this package, or a guest line (R362). -/
def State.lineKey (s : State) (pkg line : Nat) : Nat := if pkg = s.pkgNum then line else 2 ^ 43 + pkg * 2 ^ 37 + line

/-- The packages of the groups of SHG that a route reaches (R363, R366). -/
def State.sharers (s : State) (shg : Nat) : List Nat :=
  s.cache.routes.filter (fun p => shg.testBit (p % 8) && p != s.pkgNum)

/-- SHG with a package's group set. -/
def withGroup (shg pkg : Nat) : Nat := shg ||| 2 ^ (pkg % 8)

/-- Send one message to each of some packages. -/
def State.sendAll (s : State) (g : Nat → Message) (pkgs : List Nat) : State := pkgs.foldl (fun s p => s.send (g p)) s

/-- Open a transaction of a line, which closes at once when it waits for nobody. -/
def State.putTxn (s : State) (line : Nat) (t : HomeTxn) : State := s.modCache (fun c => { c with txns := c.txns.put line t })

/-- Data that came back from another package is written to HBM, and to the slice's copy (R366); it stands past every lease
granted here, so that no core that reads it hits in an older copy (R296, R367). The bytes count for the line's bay (R422). -/
def State.dirtyHome (s : State) (line : Nat) (d : Option (BitVec 1024 × Bool)) : State :=
  match d with
  | none => s
  | some (v, p) =>
    let w := s.leaseMost + 1
    let b := s.lineBay line
    let s := (s.writeBack (s.granuleKey line) line v p).count b 7 (if b < 12 then 128 else 0)
    match s.l2? line with
    | some l => (s.putLine line { l with data := v, poison := p, dirty := false, wts := w, rts := w }).raiseClk l.slice w
    | none => s.modCache (fun c => { c with mrts := c.mrts.put (s.sliceOf line) w })

/-- The data of a line is lost (R370): it reads as poison, with record 0x3FB. -/
def State.loseLine (s : State) (line : Nat) : State :=
  let s := s.modMem (fun m => { m with poison := insertNum line m.poison })
  let s := match s.l2? line with
    | some l => s.putLine line { l with poison := true }
    | none => s
  (s.setSill line (mkSill 0 0 0 true)).record 0xF 0x3FB (BitVec.ofNat 64 (line * 128))

/-- The value of a line at its home, for an answer to another package. -/
def State.homeData (s : State) (line : Nat) : BitVec 1024 × Bool × Nat × Nat :=
  match s.l2? line with
  | some l => (l.data, l.poison, l.wts, l.rts)
  | none => let (d, p) := s.backing (s.granuleKey line) line; (d, p, s.clockAt 0, s.clockAt 0)

/-- Answer a request of another package with the line and a permission (0 S, 1 E, 2 O, 3 M). -/
def State.answer (s : State) (pkg line req ch perm : Nat) : State :=
  let (d, p, w, r) := s.homeData line
  s.send (.data pkg line req ch perm d p w r)

/-- The accesses of this package that waited for the end of a transaction come before every request that arrived after it (R367). -/
def State.giveTurn (s : State) (line : Nat) (t : HomeTxn) : State :=
  s.modCache (fun c => { c with homeTurn := t.askers.foldl (fun ts w => if ts.any (· == (line, w)) then ts else ts ++ [(line, w)]) c.homeTurn })

/-- A write-back or clean notice of an owner is applied as the eviction row for the state it finds, and acknowledged; where ownership
has passed on it is discarded (R366, R367). The acknowledgement returns on the channel that the line's bay uses toward this package
(R359). -/
def State.takeBack (s : State) (pkg line : Nat) (dirty : Option (BitVec 1024 × Bool)) : State :=
  let v := s.sill line
  let s' := if sillOwner v = pkg ∧ 2 ≤ sillSt v ∧ sillSt v ≤ 4 then
      (s.dirtyHome line dirty).setSill line
        (let p := (dirty.map (·.2)).getD (sillPois v)
         if sillSt v = 3 then mkSill 1 0 (sillShg v) p else mkSill 0 0 0 p)
    else s
  s'.send (.ack pkg line (s.channelTo (s.lineBay line) s.pkgNum) none)

/-- The write-backs that waited for the end of a line's transaction are applied (R367). -/
def State.takeBacks (s : State) (line : Nat) : State :=
  (s.cache.backs.filter (fun b => b.line == line)).foldl (fun s b => s.takeBack b.pkg b.line b.dirty)
    (s.modCache (fun c => { c with backs := c.backs.filter (fun b => b.line != line) }))

/-- The end of a transaction: the next state of R366's table, R370 or R371. -/
def State.txnOutcome (s : State) (line : Nat) (t : HomeTxn) : State :=
  let v := s.sill line
  let q := sillOwner v
  let own := sillSt v == 3
  let pois := (t.dirty.map (·.2)).getD (sillPois v)
  let s := s.modCache (fun c => { c with txns := c.txns.drop line })
  match t.kind with
  | .homeRead => ((s.dirtyHome line t.dirty).setSill line (mkSill 1 0 (withGroup (if own then sillShg v else 0) q) pois)).giveTurn line t
  | .homeWrite => ((s.dirtyHome line t.dirty).setSill line (mkSill 0 0 0 pois)).giveTurn line t
  | .sharedWrite => s
  | .remoteRead r =>
    let p := r.pkg
    match sillSt v with
    | 2 => s.setSill line (if t.dirty.isSome then mkSill 3 q (withGroup 0 p) pois
        else mkSill 1 0 (withGroup (withGroup 0 p) q) pois)
    | 3 => s.setSill line (mkSill 3 q (withGroup (sillShg v) p) pois)
    | _ => s.setSill line (mkSill 3 q (withGroup 0 p) pois)
  | .remoteOwn r =>
    let s' := s.setSill line (mkSill 4 r.pkg 0 pois)
    if sillSt v = 1 ∨ (own ∧ r.pkg = q) then s'.answer r.pkg line r.req r.ch 3 else s'
  | .rebuild =>
    let lost := t.dirty.isNone && !s.cache.failedPaths.isEmpty
    let bad := lost || (t.dirty.map (·.2)).getD (memb line s.mem.poison)
    let s := (s.dirtyHome line t.dirty).setSill line (mkSill 0 0 0 bad)
    let s := if lost then s.modMem (fun m => { m with poison := insertNum line m.poison }) else s
    s.record 0xF (if lost then 0x3FB else 0x3FA) (BitVec.ofNat 64 (line * 128))
  | .lost => s.loseLine line

/-- A transaction ends: its outcome, the line of a request held only for it, and the write-backs that waited (R267, R366, R367).
Marked: DEDUCED, not safe, log 72. -/
def State.finishTxn (s : State) (line : Nat) (t : HomeTxn) : State :=
  let s1 := s.txnOutcome line t
  let s2 := match t.kind with
    | .remoteRead _ => s1.dropTransient line
    | .remoteOwn _ => s1.dropTransient line
    | _ => s1
  s2.takeBacks line

/-- Open a transaction, or finish it at once when nobody is awaited. -/
def State.startTxn (s : State) (line : Nat) (kind : TxnKind) (waits : List Nat) : State :=
  let t : HomeTxn := { kind := kind, waits := waits, dirty := none }
  if waits.isEmpty then s.finishTxn line t else s.putTxn line t

/-- An acknowledgement from a package, with dirty data where it held some (R362, R366). -/
def State.ackTxn (s : State) (pkg line : Nat) (dirty : Option (BitVec 1024 × Bool)) : State :=
  match SMap.find s.cache.txns line with
  | none => s
  | some t =>
    if !memb pkg t.waits then s
    else
      let t' := { t with waits := t.waits.erase pkg, dirty := t.dirty.orElse (fun _ => dirty) }
      if t'.waits.isEmpty then s.finishTxn line t' else s.putTxn line t'

/-- The owner named by a sill cannot be reached any more (R370): the access goes on from the state this leaves.
Marked: DEDUCED, safe, log 93. -/
def State.ownerLost (s : State) (line : Nat) : State :=
  let v := s.sill line
  match sillSt v with
  | 2 => s.setSill line (mkSill 0 0 0 (sillPois v))
  | 3 =>
    let ps := (s.sharers (sillShg v)).filter (· != sillOwner v)
    (s.sendAll (fun p => .inval p line (s.channelTo (s.lineBay line) p)) ps).startTxn line .lost ps
  | _ => s.loseLine line

/-- The rebuilding of a damaged sill: a recall to every package that can be reached (R371). -/
def State.startRebuild (s : State) (line : Nat) : State :=
  let ps := s.cache.routes.filter (· != s.pkgNum)
  (s.sendAll (fun p => .recall p line (s.channelTo (s.lineBay line) p) false) ps).startTxn line .rebuild ps

/-- A memory word of this package still has an access of a line to make. -/
def State.wordWaits (s : State) (line : Nat) : Bool :=
  s.ops.any (fun p => p.2.acc.any (fun a => !a.done && !a.pane && s.lineKey a.pkg (a.addr / 128) == line))

/-- An access of this package that waited at a line has its turn before the requests that came after it (R367). -/
def State.homeFirst (s : State) (line : Nat) : Bool :=
  s.cache.homeTurn.any (fun t => t.1 == line && (t.2.isSome || s.wordWaits line))

/-- Who waits for the end of a home read or write is noted in its transaction. -/
def State.noteAsker (s : State) (line : Nat) (who : Option Nat) : State :=
  match SMap.find s.cache.txns line with
  | none => s
  | some t => if t.askers.any (· == who) then s else s.putTxn line { t with askers := t.askers ++ [who] }

/-- A request for an SC access at SYS waits until every one with a lower ticket that its slice has received is performed: those of this
package, and those that other packages have sent (R284, R368). -/
def State.ticketWaits (s : State) (r : HomeReq) : Bool :=
  r.ticket != 0 &&
  (s.cache.held.any (fun h => h.ticket != 0 && decide (h.ticket < r.ticket) && s.sliceOf h.line == s.sliceOf r.line) ||
   s.ops.any (fun p => p.2.order == 4 && p.2.scope == 3 && p.2.kind != .fetch &&
    (match p.2.ticket with
      | some t => decide (t + 1 < r.ticket)
      | none => false) &&
    p.2.acc.any (fun a => !a.done && !a.pane && a.pkg == s.pkgNum && s.sliceOf (a.addr / 128) == s.sliceOf r.line)))

/-- What stands before a home access that finds no transaction of its line open (R366): none when the access may go on, otherwise the
state to go on from while it waits. It waits behind requests that came before it, but for those that a ticket holds back (R367,
R368). -/
def State.opening (s : State) (line : Nat) (write : Bool) : Option State :=
  if s.cache.held.any (fun r => r.line == line && !s.ticketWaits r) && !s.homeFirst line then some s
  else if s.chip.dom.mode || decide (tierBase / 128 ≤ line) then none
  else
    let v := s.sill line
    if sillBad false v then some (s.startRebuild line)
    else if sillSt v ≤ 1 then none
    else
      let q := sillOwner v
      if memb q s.cache.failedPaths then some (s.ownerLost line)
      else
        let ch (p : Nat) : Nat := s.channelTo (s.lineBay line) p
        if !write then some ((s.send (.recall q line (ch q) true)).startTxn line .homeRead [q])
        else
          let ps := if sillSt v = 3 then s.sharers (sillShg v) else []
          some (((s.send (.recall q line (ch q) false)).sendAll (fun p => .inval p line (ch p)) ps).startTxn line .homeWrite
            (q :: ps))

/-- Whether something must happen before an access of a memory word of this package at a line: none when the access may go on, otherwise
the state to go on from while it waits, behind a transaction of the line among others (R366, R367). -/
def State.openLine (s : State) (line : Nat) (write : Bool) : Option State :=
  if (SMap.find s.cache.txns line).isSome then some (s.noteAsker line none)
  else (s.opening line write).map (·.noteAsker line none)

/-- The same for an access of a bay that no memory word makes: a walk, a fetch, a job or a copy (R366, R367). -/
def State.openFor (s : State) (b line : Nat) (write : Bool) : Option State :=
  if (SMap.find s.cache.txns line).isSome then some (s.noteAsker line (some b))
  else (s.opening line write).map (·.noteAsker line (some b))

/-- A line of this package can be brought in, or is there (R267): a request for a line whose every candidate way is pinned waits. -/
def State.canEnter (s : State) (line : Nat) : Bool := (s.l2? line).isSome || (s.place line (s.lineBay line)).isSome

/-- The first of some lines of this package that a bay's walks cannot read yet, or that no way can take, with what its opening
leaves. -/
def State.openLines (s : State) (b : Nat) : List Nat → Option State
  | [] => none
  | l :: ls =>
    match s.openFor b l false with
    | some s' => some s'
    | none => if s.canEnter l then s.openLines b ls else some s

/-- A home write in SHR sends the invalidations and leaves INV; SYS waits for their acknowledgements (R366, R368).
Marked: DEDUCED, not safe, log 92. -/
def State.sharedWrite (s : State) (line : Nat) : State :=
  let v := s.sill line
  if s.chip.dom.mode || sillSt v != 1 then s
  else
    let ps := (s.sharers (sillShg v)).filter (fun p => !memb p s.cache.failedPaths)
    ((s.setSill line (mkSill 0 0 0 (sillPois v))).sendAll (fun p => .inval p line (s.channelTo (s.lineBay line) p)) ps).startTxn line
      .sharedWrite ps

/-! ## Requests of other packages at this home -/

/-- The bay a channel names here: 12 for the steward's channel 1, none when no bay holds it (R359, R361). -/
def State.bayOfChannel (s : State) (ch : Nat) : Option Nat :=
  if ch = 1 then some 12 else if ch = 0 then none
  else (List.range 12).find? (fun b => (s.bay b).vcmask.testBit ch)

/-- The checks of R360 step 4 and R361 on a request of another package. -/
def State.requestCause (s : State) (write : Bool) (ch key line : Nat) : Option Nat :=
  match s.bayOfChannel ch with
  | none => some 0x287
  | some b =>
    match s.homeCause { bay := b, level := 1, st := none } (if write then .write else .read) key (line * 128) with
    | some k => some k
    | none => if tierBase / 128 ≤ line then some 0x289 else none

/-- A request that passed its checks makes its claim as claimant 258 on the line, brought in where it is absent (R252, R262,
R263, R423). -/
def State.claimRemote (s : State) (r : HomeReq) : Option State :=
  let b := (s.bayOfChannel r.ch).getD 12
  match (if (s.l2? r.line).isSome then some s else s.refill (s.granuleKey r.line) r.line b) with
  | none => none
  | some s' =>
    let s'' := s'.homeRead r.line 258 r.k r.cts b
    some (if b < 12 then s''.count b 4 1 else s'')

/-- A request waits at this home.
Marked: DEDUCED, not safe, log 72. -/
def State.hold (s : State) (r : HomeReq) : State :=
  if s.cache.held.any (· == r) then s else s.modCache (fun c => { c with held := c.held ++ [r] })

/-- A request waits no longer. -/
def State.unhold (s : State) (r : HomeReq) : State := s.modCache (fun c => { c with held := c.held.filter (· != r) })

/-- The row of R366 for a remote read of a line whose owner, if any, can be reached. -/
def State.serveRead (s : State) (r : HomeReq) : State :=
  let v := s.sill r.line
  let q := sillOwner v
  match sillSt v with
  | 0 => ((s.setSill r.line (mkSill 2 r.pkg 0 (sillPois v))).answer r.pkg r.line r.req r.ch 1).dropTransient r.line
  | 1 => ((s.setSill r.line (mkSill 1 0 (withGroup (sillShg v) r.pkg) (sillPois v))).answer r.pkg r.line r.req r.ch 0).dropTransient
      r.line
  | _ => (s.send (.fwd q r.line r.ch r.pkg true)).startTxn r.line (.remoteRead r) [q]

/-- The row of R366 for an ownership request of a line whose owner, if any, can be reached. -/
def State.serveOwn (s : State) (r : HomeReq) : State :=
  let v := s.sill r.line
  let q := sillOwner v
  let sharers := (s.sharers (sillShg v)).filter (fun p => !memb p s.cache.failedPaths)
  match sillSt v with
  | 0 => ((s.setSill r.line (mkSill 4 r.pkg 0 (sillPois v))).answer r.pkg r.line r.req r.ch 3).dropTransient r.line
  | 1 => (s.sendAll (fun p => .inval p r.line r.ch) sharers).startTxn r.line (.remoteOwn r) sharers
  | st =>
    let ps := if st = 3 then sharers else []
    let qs := if st = 3 ∧ r.pkg = q then [] else [q]
    ((qs.foldl (fun s q => s.send (.fwd q r.line r.ch r.pkg false)) s).sendAll (fun p => .inval p r.line r.ch) ps).startTxn r.line
      (.remoteOwn r) (qs ++ ps)

/-- A request has its turn at its line: no other one came before it there, but for those that wait for its ticket or behind them
(R367, R368). -/
def State.requestTurn (s : State) (r : HomeReq) : Bool :=
  match (s.cache.held.filter (fun h => h.line == r.line)).find? (fun h => h == r || (r.ticket != 0 && decide (r.ticket < h.ticket))) with
  | none => false
  | some h => (s.cache.held.find? (fun q => q.line == r.line)) == some h

/-- A request of another package at this home (R360, R361, R366, R367): refused, served, or held behind the transaction of its
line, the requests that came before it and SC accesses with lower tickets. -/
def State.request (s : State) (r : HomeReq) : State :=
  match s.requestCause r.own r.ch r.key r.line with
  | some c => (s.unhold r).send (.failure r.pkg r.line r.req r.ch c)
  | none =>
    let s := s.hold r
    if (SMap.find s.cache.txns r.line).isSome || !s.requestTurn r || s.homeFirst r.line || s.ticketWaits r then s
    else if sillBad false (s.sill r.line) then s.startRebuild r.line
    else if 2 ≤ sillSt (s.sill r.line) ∧ memb (sillOwner (s.sill r.line)) s.cache.failedPaths then s.ownerLost r.line
    else match s.claimRemote r with
      | none => s
      | some s' => if r.own then (s'.unhold r).serveOwn r else (s'.unhold r).serveRead r

/-- A write-back or a clean notice of an owner (R366, R367): it waits for the end of a transaction of its line. -/
def State.ownerReturns (s : State) (pkg line : Nat) (dirty : Option (BitVec 1024 × Bool)) : State :=
  if (SMap.find s.cache.txns line).isSome then
    s.modCache (fun c => { c with backs := c.backs ++ [{ pkg := pkg, line := line, dirty := dirty }] })
  else s.takeBack pkg line dirty

/-! ## Requests that reach this package for its guest lines (R361, R362, R367) -/

/-- The line a forward or recall finds: the guest line, or the data kept from a write-back that is not yet acknowledged. -/
def State.guestHeld (s : State) (key : Nat) : Option (BitVec 1024 × Bool × Bool) :=
  match s.l2? key with
  | some l => some (l.data, l.poison, l.guest == some .m || l.guest == some .o)
  | none => (SMap.find s.cache.keptBacks key).map (fun p => (p.1, p.2, true))

/-- A guest line keeps its data under another permission, or is dropped with MRTS raised. -/
def State.yieldGuest (s : State) (key : Nat) (keepAs : Option GuestPerm) : State :=
  match s.l2? key with
  | none => s
  | some l =>
    match keepAs with
    | some p => s.modCache (fun c => { c with
        lines := c.lines.put key { l with guest := some p }
        mrts := c.mrts.put l.slice (max (SMap.get 0 c.mrts l.slice) l.rts) })
    | none => s.dropLine key l

/-- A forward: the line goes to the requester, and the home learns whether it was dirty. -/
def State.forwarded (s : State) (home line requester : Nat) (keep : Bool) (ch : Nat) : State :=
  let key := s.lineKey home line
  match (if (s.bayOfChannel ch).isSome then s.guestHeld key else none) with
  | none => s.send (.ack home line ch none)
  | some (d, p, dirty) =>
    let s1 := s.send (.data requester line 0 ch (if keep then 0 else 3) d p s.clkMost s.leaseMost)
    (s1.yieldGuest key (if keep then some (if dirty then .o else .s) else none)).send
      (.ack home line ch (if dirty then some (d, p) else none))

/-- A recall: dirty data goes home, and the copy stays under S or is dropped. -/
def State.recalled (s : State) (home line : Nat) (keep : Bool) (ch : Nat) : State :=
  let key := s.lineKey home line
  match (if (s.bayOfChannel ch).isSome then s.guestHeld key else none) with
  | none => s.send (.ack home line ch none)
  | some (d, p, dirty) =>
    (s.yieldGuest key (if keep then some .s else none)).send (.ack home line ch (if dirty then some (d, p) else none))

/-- An invalidation drops an S copy only. -/
def State.invalidated (s : State) (home line ch : Nat) : State :=
  let key := s.lineKey home line
  let s1 := match s.l2? key with
    | some l => if (s.bayOfChannel ch).isSome && l.guest == some GuestPerm.s then s.yieldGuest key none else s
    | none => s
  s1.send (.ack home line ch none)

end Sys2Proof.Machine
end

