-- ==== Sys2Proof/Machine/Access.lean ====
section
/-! DEFINITION. Memory operations in flight: their pieces, when they may be performed, and how they are performed at the
home slice, at a guest slice, in L1 and in the pane (R241, R242, R252, R257, R271, R276 to R285, R292 to R299, R368). -/

namespace Sys2Proof.Machine

/-! ## The pane (R241, R242, R257) -/

/-- Pane bytes as a number.
Marked: DESIGN CHOICE, not safe, log 10. -/
def Frame.paneRead (fr : Frame) (key n : Nat) : Nat := ofBytes ((List.range n).map (fun i => SMap.get 0 fr.paneMem (key + i)))

/-- Whether any of some pane bytes is poisoned (R256: by 4-byte word). -/
def Frame.panePoisoned (fr : Frame) (key n : Nat) : Bool := (List.range n).any (fun i => memb ((key + i) / 4) fr.panePoison)

/-- A wait judged by its latch as it stands (R342, R349): a read that finds the phase left ends it, whatever follows. A wait that has
not read its latch yet is judged only by its own read (`reads`).
Marked: DEDUCED, safe, log 50. -/
def Frame.judged (fr : Frame) (reads : Bool) (w : LatchWait) : LatchWait :=
  match w.q, w.seen with
  | none, _ => w
  | _, .left _ _ => w
  | some q, sn =>
    if sn = .unread ∧ !reads then w
    else
      let v := fr.paneRead w.latch 16
      let bad := fr.panePoisoned w.latch 16
      { w with seen := if bad ∨ v % 2 ^ 32 ≠ q then .left v bad else .same }

/-- The waits of the frame's rods after a change of pane bytes. -/
def Frame.noted (fr : Frame) : Frame :=
  { fr with units := fr.units.map (fun u => { u with waits := u.waits.map (fr.judged false) }) }

/-- Write pane bytes; poison marks the words touched, and a clean write clears the words it covers whole (R257). -/
def Frame.paneWrite (fr : Frame) (key : Nat) (bs : List Byte) (poison : Bool) : Frame :=
  let n := bs.length
  Frame.noted { fr with
    paneMem := (bs.zipIdx).foldl (fun m p => SMap.set 0 m (key + p.2) p.1) fr.paneMem
    panePoison := (List.range n).foldl (fun ps i =>
      let a := key + i
      if poison then insertNum (a / 4) ps
      else if a % 4 = 0 ∧ i + 4 ≤ n then removeNum (a / 4) ps else ps) fr.panePoison }

/-- Write pane bytes of which some bits stay: no word is covered whole, so poison is added and none goes (R257). -/
def Frame.paneMerge (fr : Frame) (key : Nat) (bs : List Byte) (poison : Bool) : Frame :=
  Frame.noted { fr with
    paneMem := (bs.zipIdx).foldl (fun m p => SMap.set 0 m (key + p.2) p.1) fr.paneMem
    panePoison := if poison then (List.range bs.length).foldl (fun ps i => insertNum ((key + i) / 4) ps) fr.panePoison
      else fr.panePoison }

/-- The allocation a pane address names: its key, or the cause and the offset of the first failing byte (R241, R246 order 1).
`n` is the access's size, `al` its alignment. -/
def paneKey (fr : Frame) (side addr n al : Nat) : Except (Nat × Nat) Nat :=
  let off := addr % 2 ^ 19
  let partner := field addr 19 1
  if addr % al ≠ 0 then .error (0x202, addr)
  else if 2 ^ 20 ≤ addr then .error (0x200, addr)
  else if partner = 1 ∧ fr.sides < 2 then .error (0x201, addr)
  else if fr.pane * 1024 < off + n then .error (0x200, addr + (max off (fr.pane * 1024) - off))
  else .ok ((if partner = 1 then 1 - side else side) * 2 ^ 20 + off)

/-! ## Latches (R341 to R343, R346, R348) -/

/-- A latch from its 128 bits. -/
def latchOf (v : Nat) : LatchVal :=
  { sec := field v 96 32, arr := field v 76 20, rld := field v 56 20, reg := field v 44 12, obs := field v 32 12, rsv := field v 4 28,
    ph := field v 0 4 }

/-- The 128 bits of a latch. -/
def LatchVal.bits (x : LatchVal) : Nat :=
  x.sec % 2 ^ 32 * 2 ^ 96 + x.arr % 2 ^ 20 * 2 ^ 76 + x.rld % 2 ^ 20 * 2 ^ 56 + x.reg % 2 ^ 12 * 2 ^ 44 + x.obs % 2 ^ 12 * 2 ^ 32 +
    x.rsv % 2 ^ 28 * 2 ^ 4 + x.ph % 2 ^ 4

/-- What an update answers. -/
inductive LatchAnswer where
  | corrupt
  | refused
  | accepted (x : LatchVal)
  deriving DecidableEq, Repr

/-- LatchUpdate (R343) with `n` arrivals and a decrement of `s` sectors modulo 2^32. -/
def LatchVal.update (x : LatchVal) (n s : Nat) : LatchAnswer :=
  if x.rsv ≠ 0 then .corrupt
  else if x.obs < x.reg ∨ x.arr < n then .refused
  else
    let sec := (x.sec + 2 ^ 32 - s % 2 ^ 32) % 2 ^ 32
    let arr := x.arr - n
    if arr = 0 ∧ sec = 0 then .accepted { x with sec := sec, arr := x.rld, obs := 0, ph := (x.ph + 1) % 16 }
    else .accepted { x with sec := sec, arr := arr }

/-- The latch at a pane key. -/
def Frame.latchAt (fr : Frame) (key : Nat) : LatchVal := latchOf (fr.paneRead key 16)

/-- Put a latch. -/
def Frame.putLatch (fr : Frame) (key : Nat) (x : LatchVal) : Frame := fr.paneWrite key (toBytes 16 x.bits) false

/-- What a latch word makes of a latch, and whether the update is accepted; or the cause of its trap (R346 to R348). -/
def LatchVal.act (x : LatchVal) : LatchAct → Except Nat (Option LatchVal)
  | .init v => .ok (some v)
  | .update n sec => (match x.update n sec with
    | .corrupt => .error 0x395
    | .refused => .ok none
    | .accepted y => .ok (some y))
  | .register => if x.rsv ≠ 0 then .error 0x395 else if x.reg = 4095 then .error 0x392 else .ok (some { x with reg := x.reg + 1, obs := x.obs + 1 })
  | .withdraw =>
    if x.rsv ≠ 0 then .error 0x395 else if x.reg = 0 ∨ x.obs = 0 then .error 0x392 else .ok (some { x with reg := x.reg - 1, obs := x.obs - 1 })

/-- A latch word acts on the latch at a pane key: the frame after it and whether it was accepted. LINIT alone reads no byte; a poisoned
one is consumed (R345). -/
def Frame.actOn (fr : Frame) (key : Nat) (a : LatchAct) : Except Nat (Frame × Bool) :=
  match a with
  | .init v => .ok (fr.putLatch key v, true)
  | _ =>
    if fr.panePoisoned key 16 then .error 0x3F0
    else match (fr.latchAt key).act a with
      | .error k => .error k
      | .ok none => .ok (fr, false)
      | .ok (some y) => .ok (fr.putLatch key y, true)

/-! ## Pieces of an operation -/

/-- The line key of an access (R252). -/
def State.accLine (s : State) (a : LaneAccess) : Nat := s.lineKey a.pkg (a.addr / 128)

/-- The key of the piece an access belongs to: 0 for the pane, one more than the line key otherwise. -/
def State.pieceKey (s : State) (a : LaneAccess) : Nat := if a.pane then 0 else s.accLine a + 1

/-- The pieces of an operation in order of their first access: each line is one request (R278). -/
def State.pieces (s : State) (o : MemOp) : List Nat :=
  o.acc.foldl (fun ps a => if memb (s.pieceKey a) ps then ps else ps ++ [s.pieceKey a]) []

/-- An operation with a part not yet performed. -/
def MemOp.unperformed (o : MemOp) : Bool := o.acc.any (fun a => !a.done)

/-- An operation that others must wait for: a prefetch orders nothing (R280). -/
def MemOp.undone (o : MemOp) : Bool := o.kind != .fetch && o.unperformed

/-- The same for the accesses of some lanes. -/
def MemOp.undoneIn (o : MemOp) (lanes : BitVec 64) : Bool :=
  o.kind != .fetch && o.acc.any (fun a => !a.done && lanes.getLsbD a.lane)

/-- Reads and writes by kind (R287). -/
def MemOp.reads (o : MemOp) : Bool :=
  match o.kind with
  | .load => true
  | .elemLoad => true
  | .atomic => true
  | .compareSwap => true
  | .reduce => true
  | _ => false

/-- An operation that writes. -/
def MemOp.writes (o : MemOp) : Bool :=
  match o.kind with
  | .load => false
  | .elemLoad => false
  | .fetch => false
  | _ => true

/-- An acquire: ACQ, AR and SC reads (R276). -/
def MemOp.acquires (o : MemOp) : Bool := o.reads && (o.order == 1 || o.order == 3 || o.order == 4)

/-- A release: REL, AR and SC writes (R276). -/
def MemOp.releases (o : MemOp) : Bool := o.writes && (o.order == 2 || o.order == 3 || o.order == 4)

/-- Two accesses with a byte in common. -/
def LaneAccess.overlaps (a b : LaneAccess) : Bool :=
  a.pane == b.pane && a.pkg == b.pkg && decide (a.addr < b.addr + b.size) && decide (b.addr < a.addr + a.size)

/-- An invalidation round of a write in SHR is still open: nothing is performed at SYS before it ends (R368).
Marked: DEDUCED, not safe, log 92. -/
def State.sysPending (s : State) : Bool := s.cache.txns.any (fun p => p.2.kind == .sharedWrite)

/-- Every write of another rod that the unit has read before it was performed is performed now (R297). -/
def State.observedDone (s : State) (fid ui : Nat) : Bool :=
  match s.unit? fid ui with
  | some u => u.observed.all (fun n => match SMap.find s.ops n with
    | some o => !o.undone
    | none => true)
  | none => true

/-- Every earlier access of some lanes of the unit is performed at the scope, and so is every write the unit has observed (R276,
R297).
Marked: DESIGN CHOICE, not safe, log 17. -/
def State.earlierDone (s : State) (fid ui id scope : Nat) (lanes : BitVec 64) : Bool :=
  !s.ops.any (fun p => decide (p.1 < id) && p.2.frame == fid && p.2.unit == ui && p.2.undoneIn lanes) &&
  s.observedDone fid ui && (scope != 3 || !s.sysPending)

/-- SC accesses of this package of one order, and of some kind, that have a ticket below `t` and are not performed (R284).
Marked: DESIGN CHOICE, not safe, log 17. -/
def State.lowerUndone (s : State) (scope t : Nat) (q : MemOp → Bool) : Bool :=
  s.ops.any (fun p => p.2.order == 4 && p.2.undone && q p.2 && (p.2.scope == 3) == (scope == 3) &&
    (match p.2.ticket with
      | some t' => decide (t' < t)
      | none => false))

/-- SC accesses of one order with a lower ticket that are not performed: those of this package, at SYS with the invalidations they
wait for, and those that other packages have sent to a slice that the word reaches too (R284, R368).
Marked: DESIGN CHOICE, not safe, log 17. -/
def State.lowerTickets (s : State) (o : MemOp) : Bool :=
  match o.ticket with
  | none => true
  | some t => s.lowerUndone o.scope t (fun _ => true) ||
    (o.scope == 3 && (s.sysPending || s.cache.held.any (fun r => r.ticket != 0 && decide (r.ticket < t + 1) &&
      o.acc.any (fun a => !a.done && !a.pane && a.pkg == s.pkgNum && s.sliceOf (a.addr / 128) == s.sliceOf r.line))))

/-- A write not yet performed that touches a byte of the operation: an earlier one of its own unit, or one of another rod of
the core that the unit has already read (R291, R293). -/
def State.bytesPending (s : State) (id : Nat) (o : MemOp) : Bool :=
  let seen := match s.unit? o.frame o.unit with
    | some u => u.observed
    | none => []
  o.kind != .fetch && s.ops.any (fun p => (decide (p.1 < id) && p.2.frame == o.frame && p.2.unit == o.unit || memb p.1 seen) &&
    p.1 != id && p.2.kind != .fetch &&
    p.2.acc.any (fun a => !a.done && o.acc.any (fun b => !b.done && a.overlaps b)))

/-- Whether an operation may be performed now (R293): its remote checks are answered, those of a prefetch line by line, no earlier word of the unit touches a
byte of it, a release finds everything before it performed, and an SC word has its ticket and its turn.
Marked: DESIGN CHOICE, not safe, log 17. -/
def State.mayPerform (s : State) (id : Nat) (o : MemOp) : Bool :=
  (o.kind == .fetch || o.acc.all (·.ok)) &&
  !s.bytesPending id o &&
  (!o.releases || s.earlierDone o.frame o.unit id o.scope (BitVec.allOnes 64)) &&
  (o.order != 4 || !s.lowerTickets o)

/-- A fence that orders nothing any more (R285): what stands before it in its logical rods is performed, and, with an acquire order,
so are the writes that their reads returned (R295). An SC fence also has its ticket, and every SC write of its order with a lower one is
performed (R298).
Marked: DESIGN CHOICE, not safe, log 17. -/
def State.fenceDone (s : State) (id : Nat) (f : FenceRec) : Bool :=
  match f.order with
  | 1 => !s.ops.any (fun p => decide (p.1 < id) && p.2.frame == f.frame && p.2.unit == f.unit && p.2.reads && p.2.undoneIn f.lanes) &&
      s.observedDone f.frame f.unit
  | 4 => s.earlierDone f.frame f.unit id f.scope f.lanes && (match f.ticket with
      | none => false
      | some t => !s.lowerUndone f.scope t (·.writes) &&
          !(f.scope == 3 && s.cache.held.any (fun r => r.own && r.ticket != 0 && decide (r.ticket < t + 1))))
  | _ => s.earlierDone f.frame f.unit id f.scope f.lanes

/-- The next memory word of some lanes of the unit must wait: an acquire before it, or a fence of its logical rods, is not complete
(R276, R285).
Marked: DESIGN CHOICE, not safe, log 17. -/
def State.memBlocked (s : State) (fid ui : Nat) (lanes : BitVec 64) : Bool :=
  s.ops.any (fun p => p.2.frame == fid && p.2.unit == ui && p.2.acquires && p.2.undone) ||
  s.fences.any (fun p => p.2.frame == fid && p.2.unit == ui && (p.2.lanes &&& lanes) != 0 && !s.fenceDone p.1 p.2)

/-! ## Scopes (R289) -/

/-- CT(c) passes what some cores have written or read. -/
def State.syncWith (s : State) (core : Nat) (cores : List Nat) : State := s.raiseCt core (cores.foldl (fun m k => max m (s.ct k)) 0)

/-- The cores of a frame. -/
def State.coresOf (s : State) (fid : Nat) : List Nat := ((s.frame? fid).map (·.cores)).getD []

/-- What the threads that a scope includes have written or read comes before the core's later reads (R289, R290): the frame's cores,
the core pair, or every party.
Marked: DESIGN CHOICE, not safe, log 17; DEDUCED, safe, log 80. -/
def State.syncScope (s : State) (fid core scope : Nat) : State :=
  match scope with
  | 0 => s.syncWith core (s.coresOf fid)
  | 1 => s.syncWith core ((core ^^^ 1) :: s.coresOf fid)
  | _ => s.syncCore core

/-! ## L1 (R252, R271) -/

/-- Key of a core's copy of a line. -/
def l1Key (core lineKey : Nat) : Nat := core * 2 ^ 52 + lineKey

/-- The copy a core holds. -/
def State.l1? (s : State) (core lineKey : Nat) : Option L1Copy := SMap.find s.cache.l1 (l1Key core lineKey)

/-- Put a core's copy. -/
def State.putL1 (s : State) (core lineKey : Nat) (c : L1Copy) : State :=
  s.modCache (fun ch => { ch with l1 := ch.l1.put (l1Key core lineKey) c })

/-- A read under a KEYID hits: the copy is there, under that KEYID, and its lease has not lapsed (R250, R252). -/
def State.l1Hit (s : State) (core lineKey key : Nat) : Option L1Copy :=
  match s.l1? core lineKey with
  | some c => if s.ct core ≤ c.rts ∧ c.key = key then some c else none
  | none => none

/-- Copies of a core. -/
def State.l1Of (s : State) (core : Nat) : List (Nat × L1Copy) := s.cache.l1.filter (fun p => p.1 / 2 ^ 52 == core)

/-- The way a copy takes in its set: a free one, a lapsed one, or that whose RTS lies furthest ahead, the lowest on a tie
(R271). -/
def l1Way (ct : Nat) (here : List (Nat × L1Copy)) : Nat × Option Nat :=
  match (List.range 16).find? (fun w => !here.any (fun p => p.2.way == w)) with
  | some w => (w, none)
  | none =>
    let at_ (w : Nat) : Option (Nat × L1Copy) := here.find? (fun p => p.2.way == w)
    let lapsed := (List.range 16).find? (fun w => match at_ w with
      | some p => decide (p.2.rts < ct)
      | none => false)
    let far := bestWay (fun w => match at_ w with
      | some p => (p.2.rts : Int)
      | none => -1) (List.range 16)
    let w := (lapsed.orElse (fun _ => far)).getD 0
    (w, (at_ w).map (·.1))

/-- The set of an L1 that a line falls in, of its 64 (R271).
Marked: DESIGN CHOICE, safe, log 24. -/
def l1SetOf (lineKey : Nat) : Nat := Config.l1Set lineKey % 64

/-- A refill or renewal of a core's copy (R252, R271). -/
def State.l1Fill (s : State) (core lineKey key : Nat) (data : BitVec 1024) (poison : Bool) (rts : Nat) : State :=
  match s.l1? core lineKey with
  | some c => s.putL1 core lineKey { c with data := data, poison := poison, rts := rts, key := key }
  | none =>
    let set := l1SetOf lineKey
    let mine := s.l1Of core
    let here := mine.filter (fun p => p.2.set == set)
    let (way, out) := l1Way (s.ct core) here
    let l1 := if mine.length < 16 then s.cache.l1 else match out with
      | some k => s.cache.l1.drop k
      | none => s.cache.l1
    (s.modCache (fun ch => { ch with l1 := l1 })).putL1 core lineKey
      { set := set, way := way, key := key, data := data, poison := poison, rts := rts }

/-- A core's copy is dropped. -/
def State.l1Drop (s : State) (core lineKey : Nat) : State :=
  s.modCache (fun ch => { ch with l1 := ch.l1.drop (l1Key core lineKey) })

/-! ## Values in a line -/

/-- Bit position of an access in its line, or in its run of pane bytes. -/
def LaneAccess.bitPos (a : LaneAccess) : Nat := 8 * (a.addr % 128) + a.bitOff

/-- The bits of an access in a line. -/
def LaneAccess.fromLine (a : LaneAccess) (d : BitVec 1024) : Nat := field d.toNat a.bitPos a.bits

/-- A line with the bits of an access replaced. -/
def LaneAccess.intoLine (a : LaneAccess) (d : BitVec 1024) (v : Nat) : BitVec 1024 :=
  let mask : BitVec 1024 := BitVec.ofNat 1024 ((2 ^ a.bits - 1) * 2 ^ a.bitPos)
  (d &&& ~~~ mask) ||| (BitVec.ofNat 1024 (v % 2 ^ a.bits * 2 ^ a.bitPos))

/-- The bits of a line that some accesses cover. -/
def coverOf (as : List LaneAccess) : BitVec 1024 :=
  as.foldl (fun m a => m ||| BitVec.ofNat 1024 ((2 ^ a.bits - 1) * 2 ^ a.bitPos)) 0

/-- FP32 sum rounded by RNE, as an atomic computes it: no flag, canonical NaN (R282). -/
def atomFadd (m b : Nat) : Nat := (fp32.round .rne false 0 ((fp32.decode m).add .rne (fp32.decode b)).1).1

/-- The new value of an atomic (R282). -/
def atomOp (op w m b : Nat) : Nat :=
  match op with
  | 0 => (m + b) % 2 ^ w
  | 1 => if signed w b < signed w m then b else m
  | 2 => if signed w m < signed w b then b else m
  | 3 => min m b
  | 4 => max m b
  | 5 => m &&& b
  | 6 => m ||| b
  | 7 => m ^^^ b
  | 8 => b
  | 9 => atomFadd m b
  | 10 => fpMinMax false m b
  | _ => fpMinMax true m b

/-- What one lane of a word makes of the old bits and their poison: the new bits, if it writes, and the poison of what it
writes (R257, R282, R283, R286). -/
def MemOp.update (o : MemOp) (a : LaneAccess) (m : Nat) (mp : Bool) : Option (Nat × Bool) :=
  match o.kind with
  | .load => none
  | .elemLoad => none
  | .fetch => none
  | .compareSwap =>
    if m = a.cmp.toNat % 2 ^ a.bits then some (a.data.toNat % 2 ^ a.bits, mp || a.poison) else some (m, mp)
  | .atomic => some (atomOp o.op a.bits m (a.data.toNat % 2 ^ a.bits), mp || a.poison)
  | .reduce => some (atomOp o.op a.bits m (a.data.toNat % 2 ^ a.bits), mp || a.poison)
  | _ => some (a.data.toNat % 2 ^ a.bits, a.poison)

/-! ## Performing a piece -/

/-- The accesses of a piece, performed one after the other on a line value: the line after them, its poison, and the
accesses with what they read (R278, R283). A clean word that covers the whole line clears its poison (R257). -/
def MemOp.onLine (o : MemOp) (d : BitVec 1024) (poison : Bool) (mine : LaneAccess → Bool) :
    BitVec 1024 × Bool × List LaneAccess :=
  let (d', p', acc) := o.acc.foldl (fun (st : BitVec 1024 × Bool × List LaneAccess) a =>
    if mine a && !a.done then
      let m := a.fromLine st.1
      let a' := { a with done := true, got := BitVec.ofNat 128 m, gotPoison := st.2.1 }
      match o.update a m st.2.1 with
      | none => (st.1, st.2.1, st.2.2 ++ [a'])
      | some (v, p) => (a.intoLine st.1 v, st.2.1 || p, st.2.2 ++ [a'])
    else (st.1, st.2.1, st.2.2 ++ [a])) (d, poison, [])
  let mineAcc := o.acc.filter (fun a => mine a && !a.done)
  let clears := o.writes && !o.reads && coverOf mineAcc == BitVec.allOnes 1024 && !mineAcc.any (·.poison)
  (d', if clears then false else p', acc)

/-- The accesses of a piece in the pane (R242, R257, R279, R283). -/
def MemOp.onPane (o : MemOp) (fr : Frame) : Frame × List LaneAccess :=
  o.acc.foldl (fun (st : Frame × List LaneAccess) a =>
    if a.pane && !a.done then
      let whole := st.1.paneRead a.addr a.size
      let m := field whole a.bitOff a.bits
      let mp := st.1.panePoisoned a.addr a.size
      let a' := { a with done := true, got := BitVec.ofNat 128 m, gotPoison := mp }
      match o.update a m mp with
      | none => (st.1, st.2 ++ [a'])
      | some (v, p) =>
        let w := whole - m * 2 ^ a.bitOff + v % 2 ^ a.bits * 2 ^ a.bitOff
        (if a.bits = 8 * a.size then st.1.paneWrite a.addr (toBytes a.size w) p else st.1.paneMerge a.addr (toBytes a.size w) p,
          st.2 ++ [a'])
    else (st.1, st.2 ++ [a])) (fr, [])

/-- Put an operation's accesses; a word that returns nothing leaves the queue when all of them are performed (R277). -/
def State.putAcc (s : State) (id : Nat) (o : MemOp) (acc : List LaneAccess) : State :=
  let o' := { o with acc := acc }
  if o'.producer.isNone && !o'.unperformed then { s with ops := s.ops.drop id } else { s with ops := s.ops.put id o' }

/-- A store whose every check is passed stands in the core's L1 copies until it is performed (R252, R275). One that touches another
package's memory reaches them only when it is performed, since a path to that package can still fail (R370, R382).
Marked: DESIGN CHOICE, not safe, log 110. -/
def State.inL1 (s : State) (o : MemOp) : Bool :=
  (o.kind == .store || o.kind == .elemStore) && o.acc.all (fun a => a.ok && (a.pane || a.pkg == s.pkgNum))

/-- A line and its poison with the core's stores to it that are not performed yet, in the order they issued: what its L1 copy
holds (R252, R257). -/
def State.withPending (s : State) (core line : Nat) (d : BitVec 1024 × Bool) : BitVec 1024 × Bool :=
  s.ops.foldl (fun d p =>
    if p.2.core = core ∧ s.inL1 p.2 then
      p.2.acc.foldl (fun d a =>
        if !a.done && !a.pane && s.accLine a == line then (a.intoLine d.1 a.data.toNat, d.2 || a.poison) else d) d
    else d) d

/-- Copies of lines in L1 that hold a store which is not to be performed are dropped: no read finds what no write produced (R292). -/
def State.forgetStores (s : State) (o : MemOp) : State :=
  if !s.inL1 o then s else o.acc.foldl (fun s a => if a.done || a.pane then s else s.l1Drop o.core (s.accLine a)) s

/-- Events that an operation counts, kept with it. -/
def MemOp.note (o : MemOp) (n k : Nat) : MemOp := { o with counts := o.counts ++ [(n, k)] }

/-- A word fails late (R165, R382): it leaves the queue and its data the core's L1, its destination is full with its old contents, it
counts as an issue only (R423), and the trap waits. -/
def State.failOp (s0 : State) (id : Nat) (o : MemOp) (t : TrapInfo) : State :=
  let s := o.counts.foldl (fun s c => s.uncount o.bay c.1 c.2) (s0.forgetStores o)
  let s1 := { s with ops := s.ops.drop id, producers := s.producers.drop id }
  s1.modUnit o.frame o.unit (fun u =>
    let v := match SMap.find s.producers id with
      | some p => u.completeProducer { p with faulted := true } Effect.none
      | none => u
    { v with late := v.late ++ [t] })

/-- The accesses of a latch word act on their latches one after the other (R345): an access holds 1 where its update was accepted. -/
def actOnLatches (fr : Frame) : List (LaneAccess × LatchAct) → Except (Nat × Nat) (Frame × List LaneAccess)
  | [] => .ok (fr, [])
  | (a, act) :: rest =>
    match fr.actOn a.addr act with
    | .error k => .error (k, a.lane)
    | .ok (fr', ok) => match actOnLatches fr' rest with
      | .error e => .error e
      | .ok (fr'', as) => .ok (fr'', { a with done := true, got := if ok then 1 else 0 } :: as)

/-- A latch word that waited is performed; a fault of either rod leaves no effect.
Marked: DEDUCED, not safe, log 18. -/
def State.performLatch (s : State) (id : Nat) (o : MemOp) (fr : Frame) : State :=
  match actOnLatches fr (o.acc.zip o.latch) with
  | .error (k, lane) => s.failOp id o { cause := k, imp := true, lane := some lane, widx := some o.pc }
  | .ok (fr', as) => (s.putFrame o.frame fr').putAcc id o as

/-- Perform the pane piece of an operation. An acquire there joins with the threads of the frame, which alone reach the pane (R289). -/
def State.performPane (s : State) (id : Nat) (o : MemOp) : State :=
  match s.frame? o.frame with
  | none => { s with ops := s.ops.drop id }
  | some fr =>
    if o.kind = .latch then s.performLatch id o fr
    else
    let (fr', acc) := o.onPane fr
    let s1 := (s.putFrame o.frame fr').putAcc id o acc
    if o.acquires then s1.syncWith o.core fr.cores else s1

/-- Serve a line's piece from the core's L1 copy (R252): the unit observes writes not yet performed (R294, R297). -/
def State.performL1 (s : State) (id : Nat) (o : MemOp) (line : Nat) (c : L1Copy) : State :=
  let (_, _, acc) := o.onLine c.data c.poison (fun a => !a.pane && s.accLine a == line)
  let seen := (s.ops.filter (fun p => p.2.core == o.core && p.2.writes && p.1 != id &&
    p.2.acc.any (fun a => !a.done && !a.pane && s.accLine a == line))).map (·.1)
  let s1 := s.modUnit o.frame o.unit (fun u => { u with observed := seen.foldl (fun l n => insertNum n l) u.observed })
  (s1.putAcc id (o.note 3 1) acc).count o.bay 3 1

/-- A read reaches the slice that holds its line (R252): claim, lease, data and stamps; L1 takes the copy unless k is 0. -/
def State.performRead (s : State) (id : Nat) (o : MemOp) (line : Nat) : State :=
  let bare := o.kind == .fetch && o.op == 0
  let s1 := if bare then s.claimLine line o.clm o.k else s.homeRead line o.clm o.k (s.ct o.core) o.bay
  match s1.l2? line with
  | none => s
  | some l =>
    let (_, _, acc) := o.onLine l.data l.poison (fun a => !a.pane && s.accLine a == line)
    let s2 := ((s1.putAcc id (o.note 4 1) acc).raiseCt o.core l.wts).count o.bay 4 1
    let (d, p) := s2.withPending o.core line (l.data, l.poison)
    let s3 := if o.k = 0 || bare then s2 else s2.l1Fill o.core line l.key d p l.rts
    (s3.dropTransient line).turnTaken line none

/-- A write or atomic reaches the slice that holds its line (R252, R283), with the invalidations of a home write in SHR. -/
def State.performWrite (s : State) (id : Nat) (o : MemOp) (line : Nat) : State :=
  match s.l2? line with
  | none => s
  | some l =>
    let mine (a : LaneAccess) : Bool := !a.pane && s.accLine a == line
    let (d, p, acc) := o.onLine l.data l.poison mine
    let (s1, wts) := s.homeWrite line o.clm o.k (s.ct o.core) (fun _ => (d, p))
    let s2 := match l.guest with
      | none => s1.sharedWrite line
      | some _ => match s1.l2? line with
        | some l' => s1.putLine line { l' with guest := some .m, dirty := false }
        | none => s1
    let s3 := (s2.putAcc id o acc).raiseCt o.core wts
    let s4 := match s3.l1? o.core line with
      | some c =>
        let (d', p') := s3.withPending o.core line (d, p)
        if o.reads || !s.inL1 o then s3.putL1 o.core line { c with data := d', poison := p' } else s3
      | none => s3
    (s4.dropTransient line).turnTaken line none

/-- A store whose checks are all passed writes the core's L1 copies (R252); a store that another package may still refuse has no
effect yet (R275). -/
def State.storeL1 (s : State) (o : MemOp) : State :=
  if !s.inL1 o then s
  else o.acc.foldl (fun s a =>
    if a.pane then s else
      match s.l1? o.core (s.accLine a) with
      | none => s
      | some c => s.putL1 o.core (s.accLine a)
          { c with data := a.intoLine c.data a.data.toNat, poison := c.poison || a.poison }) s

/-- A guest line serves an access of a bay under a KEYID (R250, R360, R362): it was brought for that bay under that KEYID, by a request
that the home has checked, and a write finds it under E or M.
Marked: DEDUCED, not safe, log 72. -/
def L2Line.serves (l : L2Line) (bay key : Nat) (write : Bool) : Bool :=
  l.bay == bay && l.key == key && (!write || l.guest == some .e || l.guest == some .m)

/-- The KEYID under which an operation reaches a line. -/
def MemOp.keyOf (o : MemOp) (s : State) (line : Nat) : Nat :=
  ((o.acc.find? (fun a => !a.pane && s.accLine a == line)).map (·.key)).getD 0

/-- A guest line that another bay, or another KEYID, has brought leaves its slice before the line is asked for anew, its data going home
first (R250, R360, R362); a pinned one stays for the operations that hold it.
Marked: DEDUCED, not safe, log 72. -/
def State.guestLeaves (s : State) (line b key : Nat) : Option State :=
  match s.l2? line with
  | none => none
  | some l => if l.bay == b && l.key == key then none else some (if l.pins.isEmpty then s.evict line else s)

/-- Count events of an operation in the queue, and keep them with it (R422, R423). -/
def State.countOp (s : State) (id b n k : Nat) : State := { s with ops := s.ops.modify id (fun o => o.note n k) }.count b n k

/-- Ask another package for a line, once (R359, R360, R362). -/
def State.ask (s : State) (id piece : Nat) (o : MemOp) (line : Nat) (own : Bool) : State :=
  if (SMap.find s.cache.asks line).isSome then s
  else match s.guestLeaves line o.bay (o.keyOf s line) with
  | some s' => s'
  | none =>
    let (pkg, l) := guestHome line
    let ch := s.channelTo o.bay pkg
    let key := o.keyOf s line
    let tk := if o.scope = 3 then (o.ticket.map (· + 1)).getD 0 else 0
    let s1 := s.send (if own then .ownReq pkg l ch key o.k (s.ct o.core) tk else .readReq pkg l ch key o.k (s.ct o.core) tk)
    (s1.modCache (fun c => { c with
      asks := c.asks.put line { own := own, op := id, piece := piece, bay := o.bay, key := key } })).countOp id o.bay 13 1

/-- A bay asks another package for a line that no memory word names, with the distance code of its access, once (R359, R360); `fetch`
tells that a tile fetch waits for it (R267). -/
def State.askLine (s : State) (b line key k : Nat) (own fetch : Bool) : State :=
  if (SMap.find s.cache.asks line).isSome then
    (if fetch then s.modCache (fun c => { c with asks := c.asks.modify line (fun a => { a with fetch := true }) }) else s)
  else match s.guestLeaves line b key with
  | some s' => s'
  | none =>
    let (pkg, l) := guestHome line
    let ch := s.channelTo b pkg
    ((s.send (if own then .ownReq pkg l ch key k (s.clockAt 0) 0 else .readReq pkg l ch key k (s.clockAt 0) 0)).modCache
      (fun c => { c with asks := c.asks.put line { own := own, op := 0, piece := line, bay := b, key := key, fetch := fetch } })).count b 13
      (if b < 12 then 1 else 0)

/-- A word that writes and touches another package's memory: its lines are written together, once all of them stand ready, so that a
failure that comes late finds it without effect in any lane (R246, R360, R382).
Marked: DESIGN CHOICE, not safe, log 110. -/
def State.together (s : State) (o : MemOp) : Bool := o.writes && o.acc.any (fun a => !a.pane && a.pkg != s.pkgNum)

/-- A line stands ready at its slice for a write of an operation (R252, R362, R366). -/
def State.writeReady (s : State) (o : MemOp) (line : Nat) : Bool :=
  match s.l2? line with
  | none => false
  | some l =>
    (if 2 ^ 43 ≤ line then l.serves o.bay (o.keyOf s line) true
      else (SMap.find s.cache.txns line).isNone && (s.opening line true).isNone) && !s.homeWriteWaits l

/-- The pieces of such a word are performed, one after the other, once all of them can be.
Marked: DESIGN CHOICE, not safe, log 110. -/
def State.performTogether (s : State) (id : Nat) (o : MemOp) : State :=
  if !(s.pieces o).all (fun key => s.writeReady o (key - 1)) then s
  else (s.pieces o).foldl (fun s key => match SMap.find s.ops id with
    | some o' => s.performWrite id o' (key - 1)
    | none => s) s

/-- The step of a piece at its slice: a request to another package, or the access itself when the line is there, the sill
state allows it and the word may be performed (R252, R276, R293, R360, R362, R366). `write` tells HOME_WRITE from HOME_READ. -/
def State.homeAccess (s : State) (write : Bool) (id piece : Nat) : State :=
  match SMap.find s.ops id with
  | none => s
  | some o =>
    match (s.pieces o)[piece]? with
    | none => s
    | some key =>
      if o.writes != write then s
      else if key = 0 then (if s.mayPerform id o then s.performPane id o else s)
      else
        let line := key - 1
        if !o.acc.any (fun a => !a.done && s.pieceKey a == key) then s
        else if 2 ^ 43 ≤ line then
          match s.l2? line with
          | some l =>
            if !l.serves o.bay (o.keyOf s line) write then
              (if o.order = 4 ∧ s.lowerTickets o then s else s.ask id piece o line write)
            else
              let o1 := { o with acc := o.acc.map (fun a => if s.pieceKey a = key then { a with ok := true } else a) }
              let s1 := { s with ops := s.ops.put id o1 }
              if !s1.mayPerform id o1 then s1
              else if write then s1.performTogether id o1 else s1.performRead id o1 line
          | none => if o.order = 4 ∧ s.lowerTickets o then s else s.ask id piece o line write
        else if !s.mayPerform id o then s
        else
          match s.openLine line write with
          | some s' => s'
          | none =>
            match s.l2? line with
            | none => s
            | some l =>
              if !write then s.performRead id o line
              else if s.together o then s.performTogether id o
              else if s.homeWriteWaits l then s else s.performWrite id o line

/-! ## A word's accesses as it issues -/

/-- A write of the core to a line that is not performed yet. -/
def State.pendingWrite (s : State) (id core line : Nat) : Bool :=
  s.ops.any (fun p => p.2.core == core && p.2.writes && p.1 != id && p.2.acc.any (fun a => !a.done && !a.pane && s.accLine a == line))

/-- An operation enters the queue; what can be performed at once is: the pane, and reads that hit in L1 (R242, R252). An SC
read is never served by L1, nor an acquire at SYS of another package's line (R299, R368), nor an acquire where a write of the core is
not performed yet: it waits for the home's value, so that what it synchronises with is performed (R295, R296). -/
def State.enqueue (s : State) (id : Nat) (o : MemOp) : State :=
  let s1 := { s with ops := s.ops.put id o }
  let s2 := s1.storeL1 o
  let s3 := if o.acc.any (·.pane) && s2.mayPerform id o then s2.performPane id o else s2
  if o.writes || o.order == 4 || o.kind == .fetch then s3
  else
    (s.pieces o).foldl (fun s key =>
      match SMap.find s.ops id with
      | none => s
      | some o' =>
        if key = 0 || !s.mayPerform id o' || (o'.order == 1 && o'.scope == 3 && decide (2 ^ 43 ≤ key - 1)) ||
           (o'.acquires && s.pendingWrite id o.core (key - 1)) then s
        else match s.l1Hit o.core (key - 1) (o'.keyOf s (key - 1)) with
          | some c => s.performL1 id o' (key - 1) c
          | none => s) s3

end Sys2Proof.Machine
end

