-- ==== Sys2Proof/Machine/MemWords.lean ====
section
/-! DEFINITION. The words of row 0x8: loads, stores, packed elements, prefetch, cache control, atomics and FENCE (R272 to
R286), with the delivery of flags and job faults (R188, R189, R338). -/

namespace Sys2Proof.Machine

/-! ## Delivery (R188, R189, R338, R352) -/

/-- What a delivery point finds. -/
inductive Delivery where
  | clear
  /-- Flag-setting producers are still in flight (R188). -/
  | waits
  /-- The trap, and for a job fault the logical rod whose pending fault it delivers. -/
  | traps (t : TrapInfo) (job : Option Nat)
  deriving DecidableEq, Repr

/-- The trap of a pending job fault (R338, R435). -/
def jobFaultTrap (lane : Option Nat) (j : JobFault) : TrapInfo :=
  { cause := 0x388, lane := lane, imp := true, inner := j.inner, widx := some j.widx, taddr := j.value, more := j.more }

/-- Delivery for some logical rods, one after the other: first the job fault, then the lowest enabled flag (R189). -/
def deliverRods (width : Nat) (u : RodUnit) (lanes : BitVec 64) : List Nat → Delivery
  | [] => .clear
  | i :: is =>
    let r := u.rod i
    let lane := lowestLaneOf width lanes i
    let d : Nat := field r.fpx.toNat 8 7 &&& field r.fpx.toNat 0 7
    match r.jobFault with
    | some j => .traps (jobFaultTrap lane j) (some i)
    | none =>
      if d ≠ 0 then .traps { cause := 0x180 + lowestSet 7 d, lane := lane, imp := true, taddr := BitVec.ofNat 64 d } none
      else deliverRods width u lanes is

/-- Delivery at a word for some logical rods. -/
def State.delivery (s : State) (c : IssueCtx) (rods : List Nat) : Delivery :=
  if s.flagsInFlight c rods then .waits else deliverRods c.fr.width c.u c.e.lanes rods

/-- A delivery trap is taken; a job fault is cleared as it is delivered (R338). -/
def State.deliverTrap (s : State) (c : IssueCtx) (t : TrapInfo) (job : Option Nat) : State :=
  let s1 := match job with
    | some i => s.modUnit c.fid c.ui (fun u => u.setRod i (fun r => { r with jobFault := none }))
    | none => s
  s1.trapWord c t

/-! ## Addresses (R275, R239, R279) -/

/-- The lanes for which a memory word acts: its active lanes, or the lowest lane of each logical rod for a scalar word.
Marked: DEDUCED, not safe, log 70; DESIGN CHOICE, not safe, log 117. -/
def memLanes (fm : Form) (f : SFields) (x : Issue) : List Nat :=
  if fm.uniform f then x.rods.filterMap (lowestLaneOf x.width x.e.lanes) else x.lanes

/-- A part of a lane's access: its address (a virtual address, or a pane address), its size in bytes, where its bits stand
in the lane's value, and the packed element's bits within it. -/
structure Part where
  addr : Nat
  size : Nat
  part : Nat
  bitOff : Nat
  bits : Nat
  deriving DecidableEq, Repr

/-- Whether an operand of a lane's address is poisoned (R258). -/
def addrPoisoned (x : Issue) (index : Bool) (l : Nat) : Bool :=
  (x.srcA (if x.f.space = 0 then 64 else 32) l).2 || (x.f.space == 2 && (x.srcA 64 l).2) || (index && (x.srcB 64 0 l).2 && x.f.bc != .vec) ||
    (index && x.f.bc == .vec && (x.srcB 32 0 l).2)

/-- The index of a lane (R275). -/
def indexOf (x : Issue) (l : Nat) : Nat :=
  match x.f.bc with
  | .vec => let b := (x.srcB 32 0 l).1; if x.f.iz then b else signExtendTo 32 64 b
  | _ => (x.srcB 64 0 l).1

/-- The thread index of R239.
Marked: DEDUCED, not safe, log 70. -/
def threadIndex (x : Issue) (l : Nat) : Nat :=
  (x.u.rodBase + rodOfLane x.width l) * x.width + logicalLane x.width l

/-- EffAddr (R275): the base, the index scaled, and OFF, in the width of the space. -/
def effAddr (x : Issue) (index : Bool) (scale l : Nat) : Nat :=
  let idx := if index then indexOf x l * scale else 0
  if x.f.space = 0 then ((x.srcA 64 l).1 + idx + x.f.off.toNat) % 2 ^ 64
  else if x.f.space = 1 then ((x.srcA 32 l).1 + idx + x.f.off.toNat) % 2 ^ 32
  else (idx + x.f.off.toNat) % 2 ^ 32

/-- The 4-byte units of a private access at offset `o` (R239).
Marked: DEDUCED, not safe, log 82. -/
def privateParts (x : Issue) (o n l : Nat) : List Part :=
  let threads := x.fr.rods * x.width
  let unit (j : Nat) : Nat := ((x.srcA 64 l).1 + 4 * ((o / 4 + j) * threads + threadIndex x l)) % 2 ^ 64
  if n < 4 then [{ addr := (unit 0 + o % 4) % 2 ^ 64, size := n, part := 0, bitOff := 0, bits := 8 * n }]
  else (List.range (n / 4)).map (fun j => { addr := unit j, size := 4, part := 32 * j, bitOff := 0, bits := 32 })

/-- The parts of a lane's access of `n` bytes at an effective address. -/
def wholePart (ea n : Nat) : List Part := [{ addr := ea, size := n, part := 0, bitOff := 0, bits := 8 * n }]

/-- The parts of a packed element of W bits: one run of bytes, cut at line boundaries of 128 bytes (R279). -/
def elemParts (base bit w : Nat) : List Part :=
  let first := base + bit / 8
  let sh := bit % 8
  let n := (sh + w + 7) / 8
  let room := 128 - first % 128
  if n ≤ room then [{ addr := first, size := n, part := 0, bitOff := sh, bits := w }]
  else
    let b1 := 8 * room - sh
    [{ addr := first, size := room, part := 0, bitOff := sh, bits := b1 },
     { addr := first + room, size := n - room, part := b1, bitOff := 0, bits := w - b1 }]

/-- The parts of a lane's access, or the failing check of order 1 (R240, R246) for a global or private one. -/
def laneParts (x : Issue) (elem index : Bool) (n w l : Nat) : Except TrapInfo (List Part) :=
  if addrPoisoned x index l then .error (poisonAt l)
  else if elem then
    let a := effAddr x false 1 l
    let i := if x.f.bc = .vec then (x.srcB 32 0 l).1 else (x.srcB 64 0 l).1
    .ok (elemParts a (i * w) w)
  else
    let ea := effAddr x index (if x.f.m 5 1 = 1 then n else 1) l
    if x.f.space = 1 then .ok (wholePart ea n)
    else if x.f.space = 0 then
      if ea % n ≠ 0 then .error { cause := 0x203, lane := some l, taddr := BitVec.ofNat 64 ea } else .ok (wholePart ea n)
    else
      let ps := privateParts x ea n l
      let va := BitVec.ofNat 64 ((ps.head?.map (·.addr)).getD 0 / 4 * 4)
      if ea % n ≠ 0 then .error { cause := 0x203, lane := some l, taddr := va }
      else if (x.srcA 64 l).1 % 128 ≠ 0 then .error { cause := 0x204, lane := some l, taddr := va }
      else .ok ps

/-- Who makes a thread's data accesses; STKEY lets the steward act for a bay (R384). -/
def State.dataRequester (s : State) (c : IssueCtx) : Requester :=
  let k := s.chip.stkey
  { bay := c.fr.bay, level := c.level,
    st := if c.fr.bay = 12 ∧ k.getLsbD 63 then some (field k.toNat 48 4, field k.toNat 0 6) else none
    core := c.fr.core c.u.side }

/-- One part checked: its place in the pane, or its physical address (R241, R246).
Marked: DEDUCED, not safe, log 82; DESIGN CHOICE, not safe, log 119. -/
def State.checkPart (s : State) (c : IssueCtx) (kind : AccKind) (pane elem : Bool) (al l : Nat) (data cmp : Nat) (poison : Bool)
    (p : Part) : Except TrapInfo LaneAccess :=
  let acc : LaneAccess :=
    { lane := l, addr := 0, pkg := 0, key := 0, pane := pane, va := BitVec.ofNat 64 p.addr, size := p.size, part := p.part,
      bitOff := p.bitOff, bits := p.bits, data := BitVec.ofNat 128 (data / 2 ^ p.part % 2 ^ p.bits),
      cmp := BitVec.ofNat 128 cmp, poison := poison, ok := true, done := false, got := 0, gotPoison := false }
  if pane then
    match paneKey c.fr c.u.side p.addr p.size (if elem then 1 else al) with
    | .error (k, a) => .error { cause := k, lane := some l, taddr := BitVec.ofNat 64 a }
    | .ok key => .ok { acc with addr := key }
  else
    let bad (k : Nat) : Except TrapInfo LaneAccess := .error { cause := k, lane := some l, taddr := BitVec.ofNat 64 p.addr }
    if 2 ^ 57 ≤ p.addr then bad 0x280
    else match s.translate (s.free * 64 + l) (s.dataRequester c) kind (BitVec.ofNat 64 p.addr) with
      | .error k => bad k
      | .ok pa =>
        let line := s.lineKey pa.pkg (pa.loc / 128)
        let served := (match s.l2? line with
          | some g => g.serves c.fr.bay pa.key kind.writes
          | none => false) || (!kind.writes && (s.l1Hit (c.fr.core c.u.side) line pa.key).isSome)
        .ok { acc with addr := pa.loc, pkg := pa.pkg, key := pa.key, ok := pa.pkg == s.pkgNum || served }

/-- What a word moves for a lane: the data and the compare value, and whether they are poisoned. -/
abbrev LaneData := Nat → Nat × Nat × Bool

/-- The accesses of a word, every lane checked in lane order (R246).
Marked: DESIGN CHOICE, not safe, log 119. -/
def State.wordAccesses (s : State) (c : IssueCtx) (x : Issue) (kind : AccKind) (elem index : Bool) (n w : Nat)
    (data : LaneData) : List Nat → Except TrapInfo (List LaneAccess)
  | [] => .ok []
  | l :: ls =>
    match laneParts x elem index n w l with
    | .error t => .error t
    | .ok ps =>
      let (d, cm, p) := data l
      match ps.mapM (s.checkPart c kind (x.f.space == 1) elem n l d cm p) with
      | .error t => .error t
      | .ok as =>
        match s.wordAccesses c x kind elem index n w data ls with
        | .error t => .error t
        | .ok rest => .ok (as ++ rest)

/-! ## Issue of a memory word -/

/-- The virtual addresses of a word's parts that are walked, one for each 64 KiB page. -/
def wordPages (x : Issue) (elem index : Bool) (n w : Nat) (ls : List Nat) : List Nat :=
  if x.f.space = 1 then [] else
    ls.foldl (fun ps l =>
      match laneParts x elem index n w l with
      | .error _ => ps
      | .ok parts => parts.foldl (fun ps p => if ps.any (fun q => q / 65536 == p.addr / 65536) then ps else ps ++ [p.addr]) ps) []

/-- Lines of table entries that some addresses walk through. -/
def State.walkLines (s : State) (bay : Nat) (vas : List Nat) : List Nat :=
  vas.flatMap (fun va => if 2 ^ 57 ≤ va then [] else (s.walk bay (BitVec.ofNat 64 va)).lines)

/-- What the walks of some addresses leave behind (R244, R247, R262). -/
def State.walkedAll (s : State) (bay core : Nat) (vas : List Nat) : State :=
  let s1 := vas.foldl (fun s va => if 2 ^ 57 ≤ va then s else s.walked bay core (BitVec.ofNat 64 va)) s
  { s1 with free := s1.free + 1 }

/-- The core a unit runs on. -/
def IssueCtx.core (c : IssueCtx) : Nat := c.fr.core c.u.side

/-- The claimant of a unit's accesses: its bay core, or 259 on the steward core (R263). -/
def IssueCtx.claimant (c : IssueCtx) : Nat := if c.fr.bay = 12 then 259 else (c.fr.bayCores[c.u.side]?).getD 0

/-- The quarter a unit issues in. -/
def IssueCtx.quarter (c : IssueCtx) : Nat := (c.u.slots.head?.map (·.1)).getD 0

/-- Code k of a word; the steward's accesses carry 30 (R262). -/
def IssueCtx.code (c : IssueCtx) (f : SFields) : Nat := if c.fr.bay = 12 then 30 else f.dist

/-- A memory word leaves its slot empty: an acquire or fence before it, a full queue, or throttling (R160, R255, R276, R277,
R285). -/
def State.memWaits (s : State) (c : IssueCtx) : Bool :=
  s.memBlocked c.fid c.ui c.e.lanes ||
  decide (64 ≤ (s.ops.filter (fun p => p.2.core == c.core && p.2.quarter == c.quarter && p.2.kind != .latch)).length) ||
  (let tl := SMap.get 0 s.chip.throttle c.core
   tl != 0 && c.u.slots.any (fun q => decide (16 / 2 ^ tl ≤ q.2)))

/-- A memory word passes the unit's fences that are complete. After one with an acquire order, what the frame's threads gave each
other through the pane comes before the core's later reads; after an SC one, so does all that its scope includes (R285, R289, R295,
R298). -/
def State.passFences (s : State) (c : IssueCtx) : State :=
  let mine (p : Nat × FenceRec) : Bool := p.2.frame == c.fid && p.2.unit == c.ui && s.fenceDone p.1 p.2
  let s1 := { s with fences := s.fences.filter (fun p => !mine p) }
  (s.fences.filter mine).foldl (fun s p =>
    if p.2.order = 4 then s.syncScope c.fid c.core p.2.scope else if p.2.order = 2 then s else s.syncScope c.fid c.core 0) s1

/-- An SC word at SYS asks the sequencer of package SEQPKG for its ticket, where that is another package (R284, R368). -/
def State.wantTicket (s : State) (bay order scope : Nat) : State :=
  let q := s.chip.dom.seqpkg.toNat
  if order = 4 ∧ scope = 3 ∧ q ≠ s.pkgNum then s.send (.ticketReq q (s.channelTo bay q)) else s

/-- The issue of a word of row 0x8 with its accesses: it waits, traps, or enters the memory queue; a word that returns a
value marks its destination empty (R165, R246, R277, R278). -/
def memIssue (fm : Form) (kind : OpKind) (acc : AccKind) (elem index : Bool) (n w op : Nat) (data : Issue → LaneData)
    (f : SFields) (s : State) : Out :=
  withWord fm f (fun c x s =>
    if s.memWaits c then .next (s.waitWord c)
    else
      let ls := memLanes fm f x
      if ls.isEmpty then .next (s.finish c (fun u => u))
      else
        let pages := wordPages x elem index n w ls
        match s.openLines c.fr.bay (s.walkLines c.fr.bay pages) with
        | some s' => .next (s'.waitWord c)
        | none =>
          match s.wordAccesses c x acc elem index n w (data x) ls with
          | .error t => .next (s.trapWord c t)
          | .ok as =>
            let s1 := (s.passFences c).walkedAll c.fr.bay c.core pages
            let returns := kind == .load || kind == .elemLoad || kind == .atomic || kind == .compareSwap
            let rods := if fm.uniform f then x.rods else rodsActive x.width x.u x.act
            let id := s1.nextId
            let o : MemOp :=
              { frame := c.fid, unit := c.ui, kind := kind, rod := none, scope := f.scope, order := f.order, k := c.code f, op := op,
                dst := if returns then some (f.dc, f.dst.toNat) else none, size := n, core := c.core, quarter := c.quarter,
                clm := c.claimant, bay := c.fr.bay, pc := c.e.pc, acc := as, ticket := none,
                producer := if returns then some id else none, failed := none }
            let s2 := (if returns then s1.produce c rods (destsOf (fm.regs f)) Effect.none true else { s1 with nextId := id + 1 }).wantTicket
              c.fr.bay f.order f.scope
            .next ((s2.enqueue id o).finish c (fun u => u))) s

/-! ## Completion of a load or atomic (R257, R278, R279, R282) -/

/-- The value a lane receives and its poison. -/
def MemOp.laneValue (o : MemOp) (l : Nat) : Nat × Bool :=
  (o.acc.filter (fun a => a.lane == l)).foldl (fun (v : Nat × Bool) a =>
    (v.1 + a.got.toNat * 2 ^ a.part, v.2 || a.gotPoison)) (0, false)

/-- A loaded value extended for its destination (R278). -/
def extendLoad (kind : OpKind) (size width v : Nat) : Nat :=
  match kind, size with
  | .load, 1 => signExtendTo 8 width v
  | .load, 3 => signExtendTo 16 width v
  | _, _ => v

/-- What an operation writes when it completes: a poisoned lane gets zero data and the mark (R257). -/
def MemOp.effect (o : MemOp) (width : Nat) : Effect :=
  let lanes := o.acc.foldl (fun ls a => if memb a.lane ls then ls else ls ++ [a.lane]) []
  match o.dst with
  | none => Effect.none
  | some (cls, reg) =>
    { writes := lanes.flatMap (fun l =>
        let (v, p) := o.laneValue l
        let v := if p then 0 else v
        if cls = .scl then [.scl (rodOfLane width l) reg (BitVec.ofNat 64 (extendLoad o.kind o.op 64 v)) p]
        else
          let v := extendLoad o.kind o.op 32 v
          (List.range (max 1 (o.size / 4))).map (fun j => .vec (reg + j) l (BitVec.ofNat 32 (v / 2 ^ (32 * j))) p)), flags := [] }

/-- What LARR and LEXP write when their update has been made (R347): 1 where it was accepted, in the lanes that wait. -/
def MemOp.latchEffect (o : MemOp) (p : Producer) (width : Nat) : Effect :=
  { p.effect with writes := p.effect.writes.map (fun w => match w with
      | .prd r l _ po => .prd r l (o.acc.any (fun a => rodOfLane width a.lane == rodOfLane width l && a.got == 1)) po
      | w => w) }

/-! ## The words -/

/-- A lane's data for ST: one register, a pair or a quad, or a scalar (R274, R278). -/
def storeData (n : Nat) (x : Issue) : LaneData := fun l =>
  match x.f.dc with
  | .vec =>
    let k := max 1 (n / 4)
    ((List.range k).foldl (fun v j => v + (x.u.vec (x.f.dst.toNat + j) l).toNat * 2 ^ (32 * j)) 0, 0,
     (List.range k).any (fun j => x.u.vecPoisoned (x.f.dst.toNat + j) l))
  | _ => let d := x.srcD 64 l; (d.1, 0, d.2)

/-- No data. -/
def noData (_ : Issue) : LaneData := fun _ => (0, 0, false)

/-- LD (R278). -/
def ldWord (f : SFields) (s : State) : Out := memIssue formLd .load .read false true f.bytes 0 f.size noData f s

/-- ST (R278). -/
def stWord (f : SFields) (s : State) : Out :=
  memIssue formSt .store .write false true f.bytes 0 f.size (storeData f.bytes) f s

/-- Width of a packed element (R272). -/
def elemWidth (f : SFields) : Nat := f.m 2 5 + 1

/-- LDE (R279). -/
def ldeWord (f : SFields) (s : State) : Out := memIssue formLde .elemLoad .read true true 4 (elemWidth f) 0 noData f s

/-- STE (R279). -/
def steWord (f : SFields) (s : State) : Out :=
  memIssue formSte .elemStore .write true true 4 (elemWidth f) 0 (storeData 4) f s

/-- Bytes of an atomic (R282). -/
def atomBytes (f : SFields) : Nat := if atomWide f then 8 else 4

/-- Operand, and compare value, of an atomic. -/
def atomData (cmp : Bool) (x : Issue) : LaneData := fun l =>
  let w := 8 * atomBytes x.f
  let b := x.srcB w 0 l
  if cmp then let d := x.srcD w l; (b.1, d.1, b.2 || d.2) else (b.1, 0, b.2)

/-- ATOM, ATOMC and RED (R282, R283). -/
def atomWord (fm : Form) (kind : OpKind) (f : SFields) (s : State) : Out :=
  memIssue fm kind .atomic false false (atomBytes f) 0 (f.m 3 4) (atomData (kind == .compareSwap)) f s

/-- The accesses of a prefetch: lanes that are poisoned or would fault are dropped (R280). -/
def State.prefetchAccesses (s : State) (c : IssueCtx) (x : Issue) (ls : List Nat) : List LaneAccess :=
  ls.flatMap (fun l =>
    match s.wordAccesses c x .read false true 1 0 (noData x) [l] with
    | .ok as => as
    | .error _ => [])

/-- PF (R280). -/
def pfWord (f : SFields) (s : State) : Out :=
  withWord formPf f (fun c x s =>
    if s.memWaits c then .next (s.waitWord c)
    else
      let ls := memLanes formPf f x
      if ls.isEmpty || f.dist == 0 then .next (s.finish c (fun u => u))
      else
        let pages := wordPages x false true 1 0 (ls.filter (fun l => !addrPoisoned x true l))
        match s.openLines c.fr.bay (s.walkLines c.fr.bay pages) with
        | some s' => .next (s'.waitWord c)
        | none =>
          let as := s.prefetchAccesses c x ls
          let s1 := s.walkedAll c.fr.bay c.core pages
          let (id, s2) := s1.fresh
          let o : MemOp :=
            { frame := c.fid, unit := c.ui, kind := .fetch, rod := none, scope := 0, order := 0, k := c.code f, op := f.m 2 1,
              dst := none, size := 1, core := c.core, quarter := c.quarter, clm := c.claimant, bay := c.fr.bay, pc := c.e.pc,
              acc := as, ticket := none, producer := none, failed := none }
          .next ((if as.isEmpty then s2 else s2.enqueue id o).finish c (fun u => u))) s

/-- The instruction caches that a scope names (R281): the core, the pair, or every core of the bay. -/
def State.scopeCores (s : State) (c : IssueCtx) (scope : Nat) : List Nat :=
  match scope with
  | 0 => [c.core]
  | 1 => [c.core, c.core ^^^ 1]
  | _ => if c.fr.bay = 12 then [c.core] else (s.bay c.fr.bay).pairs.flatMap (fun k => [2 * k, 2 * k + 1])

/-- Key of an instruction-cache line. -/
def icKey (core lineKey : Nat) : Nat := core * 2 ^ 52 + lineKey

/-- What the checks of a word's addresses at other packages' homes come to (R360). -/
inductive HomeChecks where
  | passed
  | waits (s : State)
  | failed (a : LaneAccess) (cause : Nat)

/-- The checks of orders 8 to 11 for addresses of other packages, lane by lane: each home is asked once, by a read.
Marked: DEDUCED, not safe, log 78. -/
def State.homeChecks (s : State) (b : Nat) : List LaneAccess → HomeChecks
  | [] => .passed
  | a :: as =>
    if a.ok then s.homeChecks b as
    else match s.deniedTo (s.accLine a) b a.key false with
      | some k => .failed a k
      | none => .waits (s.askLine b (s.accLine a) a.key 30 false false)

/-- A fault that another package returned for a word which has issued: its rod takes it at the next selected word (R382). -/
def IssueCtx.lateTrap (c : IssueCtx) (a : LaneAccess) (cause : Nat) : TrapInfo :=
  { cause := cause, imp := true, lane := some a.lane, taddr := a.va, widx := some c.e.pc }

/-- CCTL: the named lines leave the instruction caches of the scope, or the core's L1 (R281). An address of another package is checked by
its home first (R360), which fails late (R382).
Marked: DEDUCED, not safe, log 78. -/
def cctlWord (l1 : Bool) (f : SFields) (s : State) : Out :=
  withWord formCctl f (fun c x s =>
    if s.memWaits c then .next (s.waitWord c)
    else
      let ls := memLanes formCctl f x
      if ls.isEmpty then .next (s.finish c (fun u => u))
      else
        let pages := wordPages x false true 1 0 ls
        match s.openLines c.fr.bay (s.walkLines c.fr.bay pages) with
        | some s' => .next (s'.waitWord c)
        | none =>
          match s.wordAccesses c x (if l1 then .read else .inval) false true 1 0 (noData x) ls with
          | .error t => .next (s.trapWord c t)
          | .ok as => match s.homeChecks c.fr.bay as with
          | .waits s' => .next (s'.waitWord c)
          | .failed a k => .next ((s.forgetAsked c.fr.bay).finish c (fun u => { u with late := u.late ++ [c.lateTrap a k] }))
          | .passed =>
            let s1 := s.walkedAll c.fr.bay c.core pages
            let s2 := as.foldl (fun s a =>
              if l1 then s.l1Drop c.core (s.accLine a)
              else (s.scopeCores c f.scope).foldl (fun s core =>
                s.modCache (fun ch => { ch with icache := ch.icache.drop (icKey core (s.accLine a)) })) s) s1
            .next (s2.finish c (fun u => u))) s

/-- The fence events of a FENCE, one for each logical rod that takes it (R287); they share the word's ticket (R284). -/
def State.addFences (s : State) (c : IssueCtx) (f : SFields) (rods : List Nat) : State :=
  rods.foldl (fun t i =>
    let (id, t1) := t.fresh
    let r : FenceRec :=
      { frame := c.fid, unit := c.ui, lanes := rodLanes c.fr.width i, order := f.order, scope := f.scope, ticket := none, word := s.nextId }
    { t1 with fences := t1.fences.put id r }) s

/-- FENCE (R285): delivery, then an order that holds back the later memory words of the logical rods that take it (R147, R287).
Marked: DESIGN CHOICE, not safe, log 17. -/
def fenceWord (f : SFields) (s : State) : Out :=
  withWord formFence f (fun c _ s =>
    let taking := takingSet c.fr.width c.u c.e.lanes
    let rods := (uniformRods c.fr.width c.u f c.e.lanes).filter (fun i => (taking &&& rodLanes c.fr.width i) != 0)
    if rods.isEmpty then .next (s.finish c (fun u => u))
    else if s.memBlocked c.fid c.ui c.e.lanes then .next (s.waitWord c)
    else
      match s.delivery c rods with
      | .waits => .next (s.waitEmpty c)
      | .traps t j => .next (s.deliverTrap c t j)
      | .clear =>
        .next (((s.addFences c f rods).wantTicket c.fr.bay f.order f.scope).finish c (fun u => u))) s

end Sys2Proof.Machine
end

