-- ==== Sys2Proof/Machine/Fetch.lean ====
section
/-! DEFINITION. Instruction fetch: the bytes of a word through translation and the core's instruction cache, the selection of
an entry, and the look at the word before a target (R33, R132, R143, R144, R157). -/

namespace Sys2Proof.Machine

/-- What the fetch of one word gives. -/
inductive Fetched where
  /-- Its 12 bytes are present. -/
  | bytes (bs : List Byte)
  /-- Some of its lines are not in the core's instruction cache. -/
  | missing (lines : List (Nat × Nat))
  /-- It faults; the record. -/
  | faults (t : TrapInfo)
  /-- A table line stands open at another package; what asking for it leaves. -/
  | opens (s : State)

/-- Who fetches for a unit: STKEY never matters (R384). -/
def fetchRequester (c : IssueCtx) : Requester := { bay := c.fr.bay, level := c.level, st := none, core := c.core }

/-- The runs of bytes of a word within lines: the virtual address and the count. -/
def wordRuns (va : Nat) : List (Nat × Nat) :=
  let n := min 12 (128 - va % 128)
  if n = 12 then [(va, 12)] else [(va, n), (va + n, 12 - n)]

/-- The line of a run of bytes, its offset and KEYID, or the fault of its translation (R246). -/
def State.runLine (s : State) (c : IssueCtx) (va : Nat) : Except TrapInfo (Nat × Nat × Nat) :=
  let bad (k : Nat) : Except TrapInfo (Nat × Nat × Nat) := .error { cause := k, taddr := BitVec.ofNat 64 va }
  if 2 ^ 57 ≤ va then bad 0x280
  else match s.translate (s.free * 64) (fetchRequester c) .fetch (BitVec.ofNat 64 va) with
    | .error k => bad k
    | .ok pa =>
      let line := s.lineKey pa.pkg (pa.loc / 128)
      match s.deniedTo line c.fr.bay pa.key false with
      | some k => bad k
      | none => .ok (line, pa.loc % 128, pa.key)

/-- A line of the core's instruction cache under a KEYID, which is part of its tag (R250). -/
def State.icacheLine (s : State) (core line key : Nat) : Option (BitVec 1024) :=
  match SMap.find s.cache.icache (icKey core line) with
  | some (d, k) => if k = key then some d else none
  | none => none

/-- The bytes of a run that is present in the core's instruction cache. -/
def State.cachedRun (s : State) (core line key off n : Nat) : Option (List Byte) :=
  (s.icacheLine core line key).map (fun d => toBytes n (lineBytes d off n))

/-- The word at an index of the unit's code space (R33, R144): a fault at or beyond its length is 0x080. -/
def State.fetchAt (s : State) (c : IssueCtx) (n : Nat) : Fetched :=
  if c.codeWords ≤ n then .faults (trapOf 0x080)
  else
    let runs := wordRuns (codeVa c.fr c.u n).toNat
    match s.openLines c.fr.bay (s.walkLines c.fr.bay (runs.map (·.1))) with
    | some s' => .opens s'
    | none =>
      match runs.mapM (fun r => (s.runLine c r.1).map (fun p => (p.1, p.2, r.2))) with
      | .error t => .faults t
      | .ok places =>
        match places.mapM (fun p => s.cachedRun c.core p.1 p.2.1.2 p.2.1.1 p.2.2) with
        | some bs => .bytes bs.flatten
        | none => .missing ((places.map (fun p => (p.1, p.2.1.2))).filter (fun l => (s.icacheLine c.core l.1 l.2).isNone))

/-- The fetch of missing lines of the word at an index starts, where it is not in flight (R144); its translations are walked, and
kept (R247). -/
def State.startFetch (s : State) (c : IssueCtx) (n : Nat) (lines : List (Nat × Nat)) : State :=
  if lines.all (fun l => (SMap.find s.cache.fetching (icKey c.core l.1)).isSome) then s
  else (s.walkedAll c.fr.bay c.core ((wordRuns (codeVa c.fr c.u n).toNat).map (·.1))).modCache (fun ch =>
    { ch with fetching := lines.foldl (fun m l => m.put (icKey c.core l.1) (c.fr.bay, l.2)) ch.fetching })

/-- What stands before a target (R132). -/
inductive Before where
  | clear
  | transom
  /-- The word before it is not present yet; what asking for it leaves. -/
  | waits (s : State)

/-- The look at the word before index `t`; a word that cannot be fetched is no transom.
Marked: DEDUCED, not safe, log 41. -/
def State.before (s : State) (c : IssueCtx) (t : Nat) : Before :=
  if t = 0 then .clear
  else match s.fetchAt c (t - 1) with
    | .bytes bs => if isTransom (wordOfBytes bs) then .transom else .clear
    | .missing ls => .waits (s.startFetch c (t - 1) ls)
    | .opens s' => .waits s'
    | .faults _ => .clear

/-- What an issue opportunity of a unit selects (R143, R144). -/
inductive Selected where
  /-- A word that hits, in the state that the misses before it leave. -/
  | word (pc : Nat) (bs : List Byte) (s : State)
  | fault (e : Entry) (t : TrapInfo)
  /-- The slot stays empty. -/
  | none (s : State)

/-- The first of some entries whose word hits.
Marked: DEDUCED, not safe, log 89. -/
def State.firstHit (s : State) (c : IssueCtx) : List Entry → Option (Nat × List Byte)
  | [] => .none
  | e :: es =>
    match s.fetchAt { c with e := e } e.pc with
    | .bytes bs => some (e.pc, bs)
    | _ => s.firstHit c es

/-- The head misses: the first later entry that hits, in the state that the miss leaves; a consumer that misses causes no switch. -/
def State.afterMiss (s : State) (c : IssueCtx) : Selected :=
  if c.u.transom.isSome then .none s
  else match s.firstHit c (c.u.frontier.filter (fun x => x.pc != c.e.pc)) with
    | some (pc, bs) => .word pc bs s
    | .none => .none s

/-- A word that was selected and could not issue, where it is still present: it stays selected (R143, R160). -/
def State.blockedWord (s : State) (c : IssueCtx) : Option (Nat × List Byte) :=
  match c.u.blocked with
  | .none => .none
  | some pc => s.firstHit c (c.u.frontier.filter (fun x => x.pc == pc))

/-- The selection of R143 and R144 among the entries of a unit.
Marked: DEDUCED, not safe, log 89. -/
def State.select (s : State) (c : IssueCtx) : Selected :=
  match s.blockedWord c with
  | some (pc, bs) => .word pc bs s
  | .none =>
    match s.fetchAt c c.e.pc with
    | .bytes bs => .word c.e.pc bs s
    | .faults t => .fault c.e t
    | .opens s' => s'.afterMiss c
    | .missing ls => (s.startFetch c c.e.pc ls).afterMiss c

/-- The entry that is judged first: a transom's consumer, else the head (R143). -/
def RodUnit.headEntry (u : RodUnit) : Option Entry :=
  match u.transom with
  | some t => u.frontier.find? (fun e => e.pc == t.pc + 1)
  | .none => u.frontier.head?

/-- The claimant of a core for a bay (R96, R263). -/
def State.claimantOf (s : State) (b core : Nat) : Nat :=
  if b = 12 then 259
  else 2 * (((s.bay b).pairs.findIdx? (· == core / 2)).getD 0) + core % 2

/-- Lines of an instruction cache: 64 KiB of 128 bytes (R16, R144). -/
def icacheLines : Nat := 512

/-- A line becomes present in a core's instruction cache under a KEYID; from a full one another line leaves first (R144).
Marked: DESIGN CHOICE, safe, log 94. -/
def State.icachePut (s : State) (core line key : Nat) (d : BitVec 1024) : State :=
  let mine := (s.cache.icache.filter (fun p => p.1 / 2 ^ 52 == core)).map (·.1)
  let (n, s1) := s.takeFree
  let full := decide (icacheLines ≤ mine.length) && !memb (icKey core line) mine
  s1.modCache (fun ch => { ch with
    icache := (if full then ch.icache.drop ((mine[Config.icacheVictim n % icacheLines]?).getD 0) else ch.icache).put
      (icKey core line) (d, key) })

/-- ICACHE_FILL: a missing line is read at the slice that holds it, with the claim of code 30 and no lease, and becomes present
(R144, R253).
Marked: DESIGN CHOICE, not safe, log 27. -/
def State.fillIcache (s : State) (core line : Nat) : State :=
  match SMap.find s.cache.fetching (icKey core line) with
  | none => s
  | some (b, key) =>
    let clm := s.claimantOf b core
    let done (s : State) : State :=
      match s.l2? line with
      | none => s
      | some l =>
        let (n, s1) := s.takeFree
        let d := if l.poison then Config.poisonedLine n else l.data
        let s2 := (s1.claimLine line clm 30).count b 4 (if b < 12 then 1 else 0)
        (((s2.icachePut core line key d).modCache (fun ch => { ch with
          fetching := ch.fetching.drop (icKey core line) })).dropTransient line).turnTaken line (some b)
    if 2 ^ 43 ≤ line then
      (if (s.l2? line).any (fun l => l.serves b key false) then done s else s.askLine b line key 30 false false)
    else match s.openFor b line false with
      | some s' => s'
      | none =>
        match (if (s.l2? line).isSome then some s else s.refill (s.granuleKey line) line b) with
        | some s' => done s'
        | none => s

end Sys2Proof.Machine
end

