-- ==== Sys2Proof/Machine/Reads.lean ====
section
/-! DEFINITION. Reads and writes of virtual ranges that the part makes for a context outside the memory queue: function tables,
launch records, blocks, tables, images, descriptors and completion pairs (R39, R86, R154, R393, R399). -/

namespace Sys2Proof.Machine

/-- Who reads, and with which claim.
Marked: DEDUCED, not safe, log 19. -/
structure Reader where
  who : Requester
  core : Nat
  clm : Nat
  /-- Only memory of this package may be read: an address of another one is 0x289 (R36, R393). -/
  own : Bool
  /-- Distance code of its claims. -/
  k : Nat := 30
  deriving DecidableEq, Repr

/-- What a read of a range gives. -/
inductive BulkRead where
  | value (bs : List Byte) (poison : Bool) (s : State)
  | fault (cause : Nat) (va : BitVec 64)
  /-- Lines must be brought from another package first; what asking leaves. -/
  | waits (s : State)

/-- A range cut at line boundaries: virtual address and length. -/
def lineRuns (va n : Nat) : List (Nat × Nat) :=
  if n = 0 then [] else
    (List.range ((va % 128 + n + 127) / 128)).map (fun i =>
      let lo := max va (va / 128 * 128 + 128 * i)
      (lo, min (va + n) (va / 128 * 128 + 128 * (i + 1)) - lo))

/-- A run's place: line key, key, offset and length. -/
structure Place where
  line : Nat
  key : Nat
  off : Nat
  n : Nat
  deriving DecidableEq, Repr

/-- The places of some runs, or the first fault (R246, R393). -/
def State.places (s : State) (r : Reader) (kind : AccKind) : List (Nat × Nat) → Except (Nat × Nat) (List Place)
  | [] => .ok []
  | (va, n) :: rest =>
    if 2 ^ 57 ≤ va then .error (0x280, va)
    else match s.translate (s.free * 64) r.who kind (BitVec.ofNat 64 va) with
      | .error k => .error (if r.own ∧ (k = 0x28B ∨ k = 0x28C) then 0x289 else k, va)
      | .ok pa =>
        let line := s.lineKey pa.pkg (pa.loc / 128)
        if r.own ∧ pa.pkg ≠ s.pkgNum then .error (0x289, va)
        else match s.deniedTo line r.who.bay pa.key kind.writes with
          | some k => .error (k, va)
          | none =>
            match s.places r kind rest with
            | .error e => .error e
            | .ok ps => .ok ({ line := line, key := pa.key, off := pa.loc % 128, n := n } :: ps)

/-- What must happen before some lines can be used by a bay's accesses of a distance code: none when they are ready. A line must be
able to enter its slice (R267). HomeWrite's wait for CLK is not made here: the stamp it ends with, RTS + 1, is taken at once (R252).
Marked: DEDUCED, safe, log 81. -/
def State.linesOpen (s : State) (b k : Nat) (write : Bool) : List (Nat × Nat) → Option State
  | [] => none
  | (l, key) :: ls =>
    if 2 ^ 43 ≤ l then
      (if (s.l2? l).any (fun g => g.serves b key write) then s.linesOpen b k write ls else some (s.askLine b l key k write false))
    else match s.openFor b l write with
      | some s' => some s'
      | none => if s.canEnter l then s.linesOpen b k write ls else some s

/-- The value of a line as it stands now. -/
def State.lineNow (s : State) (key line : Nat) : BitVec 1024 × Bool :=
  match s.l2? line with
  | some l => (l.data, l.poison)
  | none => if 2 ^ 43 ≤ line then (0, true) else s.backing key line

/-- The reply of a slice raises a core's CT to the line's WTS (R252); what stands beside the cores has none. -/
def State.replied (s : State) (core line : Nat) : State :=
  match s.l2? line with
  | some l => if core ≤ 256 then s.raiseCt core l.wts else s
  | none => s

/-- The read request of a line reaches its slice: refill where it is absent, the claim, and the reply (R252, R262). -/
def State.touch (s : State) (r : Reader) (p : Place) : State :=
  match (if (s.l2? p.line).isSome then some s else if 2 ^ 43 ≤ p.line then none else s.refill p.key p.line r.who.bay) with
  | none => s
  | some s' =>
    ((((s'.homeRead p.line r.clm r.k (s.timeOf r.core) r.who.bay).replied r.core p.line).count r.who.bay 4
      (if r.who.bay < 12 then 1 else 0)).dropTransient p.line).turnTaken p.line (some r.who.bay)

/-- Addresses of a range, one for each 64 KiB page. -/
def rangePages (va n : Nat) : List Nat :=
  if n = 0 then [] else (List.range ((va % 65536 + n + 65535) / 65536)).map (fun i => max va (va / 65536 * 65536 + 65536 * i))

/-- The read of a range. -/
def State.bulkRead (s : State) (r : Reader) (va n : Nat) : BulkRead :=
  let pages := rangePages va n
  match s.openLines r.who.bay (s.walkLines r.who.bay pages) with
  | some s' => .waits s'
  | none =>
    match s.places r .read (lineRuns va n) with
    | .error (k, a) => .fault k (BitVec.ofNat 64 a)
    | .ok ps =>
      match s.linesOpen r.who.bay r.k false (ps.map (fun p => (p.line, p.key))) with
      | some s' => .waits s'
      | none =>
        let got := ps.map (fun p => let (d, q) := s.lineNow p.key p.line; (toBytes p.n (lineBytes d p.off p.n), q))
        let s1 := ps.foldl (fun s p => s.touch r p) (s.walkedAll r.who.bay r.core pages)
        .value (got.flatMap (·.1)) (got.any (·.2)) s1

/-- Bytes put into a line value. -/
def putBytes (d : BitVec 1024) (off : Nat) (bs : List Byte) : BitVec 1024 :=
  let n := bs.length
  let mask : BitVec 1024 := BitVec.ofNat 1024 ((2 ^ (8 * n) - 1) * 2 ^ (8 * off))
  (d &&& ~~~ mask) ||| BitVec.ofNat 1024 (ofBytes bs * 2 ^ (8 * off))

/-- A write within a line reaches its slice, as a change of the line's value and poison (R252, R257). -/
def State.putRunWith (s : State) (r : Reader) (p : Place) (g : BitVec 1024 × Bool → BitVec 1024 × Bool) : State :=
  match (if (s.l2? p.line).isSome then some s else s.refill p.key p.line r.who.bay) with
  | none => s
  | some s' =>
    let guest := ((s'.l2? p.line).bind (·.guest)).isSome
    let (s1, wts) := s'.homeWrite p.line r.clm r.k (s.timeOf r.core) g
    let s2 := if !guest then s1.sharedWrite p.line else match s1.l2? p.line with
      | some l => s1.putLine p.line { l with guest := some .m, dirty := false }
      | none => s1
    ((s2.raiseCt r.core wts).dropTransient p.line).turnTaken p.line (some r.who.bay)

/-- A write of a run of bytes: 128 clean bytes clear the line's poison (R257). -/
def State.putRun (s : State) (r : Reader) (p : Place) (bs : List Byte) (poison : Bool) : State :=
  s.putRunWith r p (fun q => (putBytes q.1 p.off bs, if bs.length = 128 ∧ !poison then false else q.2 || poison))

/-- What a write of a range gives: the state after it, a fault, or a wait. -/
inductive BulkWrite where
  | done (s : State)
  | fault (cause : Nat) (va : BitVec 64)
  | waits (s : State)

/-- Write a list of bytes over some places. -/
def State.putRuns (s : State) (r : Reader) (poison : Bool) : List Place → List Byte → State
  | [], _ => s
  | p :: ps, bs => (s.putRun r p (bs.take p.n) poison).putRuns r poison ps (bs.drop p.n)

/-- The write of a range. -/
def State.bulkWrite (s : State) (r : Reader) (va : Nat) (bs : List Byte) : BulkWrite :=
  let pages := rangePages va bs.length
  match s.openLines r.who.bay (s.walkLines r.who.bay pages) with
  | some s' => .waits s'
  | none =>
    match s.places r .write (lineRuns va bs.length) with
    | .error (k, a) => .fault k (BitVec.ofNat 64 a)
    | .ok ps =>
      match s.linesOpen r.who.bay r.k true (ps.map (fun p => (p.line, p.key))) with
      | some s' => .waits s'
      | none => .done ((s.walkedAll r.who.bay r.core pages).putRuns r false ps bs)

/-- A 64-bit word of some bytes. -/
def word64 (bs : List Byte) (n : Nat) : BitVec 64 := BitVec.ofNat 64 (ofBytes ((bs.drop (8 * n)).take 8))

end Sys2Proof.Machine
end

