-- ==== Sys2Proof/Machine/Graph.lean ====
section
/-! DEFINITION. The launch graph engine: queues, node records, descriptors, acceptance with its edges, refusals and retirement
(R34 to R42, R68, R74 to R92, R113, R380). -/

namespace Sys2Proof.Machine

/-! ## What the host reaches (R23, R26, R28) -/

/-- The physical function answers (R28, R29): not before stage 0x02, but in recovery; a halted part answers for BOOTST alone (R23). -/
def State.barOpen (s : State) : Bool := decide (2 ≤ s.chip.boot.stage.toNat) && !s.chip.boot.halt

/-- Virtual functions answer: none is enabled in recovery (R26). -/
def State.vfOpen (s : State) : Bool := s.barOpen && !s.chip.boot.recov

/-! ## Queues (R74 to R77) -/

/-- The virtual function bound to a bay (R74, R430). -/
def State.functionOf (s : State) (b : Nat) : Option Nat := (s.chip.vfbind.find? (fun p => p.2 == b)).map (·.1)

/-- The function that owns a queue of a bay: 0 is the physical one. -/
def State.queueFn (s : State) (b : Nat) (q : QueueId) : Nat :=
  match q with
  | .host _ => (s.functionOf b).getD 0
  | _ => 0

/-- A host or steward queue of a bay; the device queue has no registers. -/
def Bay.queue? (b : Bay) (q : QueueId) : Option Queue :=
  match q with
  | .steward => some b.steward
  | .host n => b.hosts[n]?
  | .device => none

/-- Change a queue's registers. -/
def Bay.modQueue (b : Bay) (q : QueueId) (g : Queue → Queue) : Bay :=
  match q with
  | .steward => { b with steward := g b.steward }
  | .host n => { b with hosts := b.hosts.modify n g }
  | .device => b

/-- Place n of the rotation of R77. -/
def rotationQueue (n : Nat) : QueueId := if n = 0 then .steward else if n < 17 then .host (n - 1) else .device

/-- A queue's interrupt, where its MSIV names a vector (R75). -/
def State.queueIrq (s : State) (b : Nat) (q : QueueId) (k : Queue) : State :=
  if k.msiv.toNat ≤ 31 then s.msix (s.queueFn b q) k.msiv.toNat else s

/-- A refusal or fault is recorded in QSTAT (R91). -/
def Queue.note (k : Queue) (cause : Nat) : Queue :=
  if k.statValid then { k with statMore := true }
  else { k with statValid := true, statIndex := k.head, statCause := BitVec.ofNat 10 cause }

/-- The record the pipeline holds, where it is of another queue; a queue that is switched off gives its record up, and it is read again
once EN is set.
Marked: DESIGN CHOICE, not safe, log 115. -/
def Bay.leftOf (y : Bay) (q : QueueId) : Option TakenRecord := y.taken.filter (fun r => rotationQueue r.place != q)

/-- QUEUE_FAULT (R76): EN is cleared, the fault recorded, the interrupt raised under IRQREF.
Marked: DESIGN CHOICE, not safe, log 115. -/
def State.queueFault (s : State) (b : Nat) (q : QueueId) (cause : Nat) : State :=
  match (s.bay b).queue? q with
  | none => s
  | some k =>
    let s1 := s.modBay b (fun y => { y.modQueue q (fun k => { k.note cause with en := false }) with taken := y.leftOf q })
    if k.irqRef then s1.queueIrq b q k else s1

/-- Records posted and not taken, as counts run freely. -/
def Queue.posted (k : Queue) : Nat := (k.tail - k.head).toNat

/-- Whether a queue holds more than its ring, or LOG2N is out of range (R76). -/
def Queue.broken (k : Queue) : Bool :=
  decide (k.log2n.toNat < 4) || decide (2 ^ k.log2n.toNat < k.posted)

/-- Whether a queue of the bay has a pending record. -/
def Bay.pending (y : Bay) (b : Nat) (q : QueueId) : Bool :=
  match q with
  | .device => !y.device.isEmpty
  | .steward => y.steward.en && y.steward.posted != 0
  | .host n => decide (n < y.hostq) && b != 12 && (match y.hosts[n]? with
    | some k => k.en && k.posted != 0
    | none => false)

/-- The next place of the rotation with a pending record. -/
def Bay.nextPlace (y : Bay) (b : Nat) : Option Nat :=
  ((List.range 18).map (fun i => (y.rotation + 1 + i) % 18)).find? (fun n => y.pending b (rotationQueue n))

/-- A host read of `n` words at a bus address.
Marked: DESIGN CHOICE, not safe, log 7. -/
def State.hostWords (s : State) (addr n : Nat) : List (BitVec 64) :=
  (List.range n).map (fun i => BitVec.ofNat 64 (ofBytes ((List.range 8).map (fun j => SMap.get 0 s.host (addr + 8 * i + j)))))

/-- A host write of one word.
Marked: DESIGN CHOICE, not safe, log 7. -/
def State.hostPut (s : State) (addr : Nat) (v : BitVec 64) : State :=
  { s with host := (List.range 8).foldl (fun m j => SMap.set 0 m (addr + j) (v.extractLsb' (8 * j) 8)) s.host }

/-! ## Records (R78 to R80) -/

/-- Word n of a record. -/
def recWord (ws : List (BitVec 64)) (n : Nat) : BitVec 64 := (ws[n]?).getD 0

/-- A window of two words (R79): none when absent, an error when the rule is broken. A reserved bit set inside a present window breaks
the window's form, order 2 of R80, and is no reserved field of the record for order 1.
Marked: DEDUCED, not safe, log 98. -/
def parseWindow (a b : BitVec 64) : Except Unit (Option Window) :=
  let base := field a.toNat 0 57
  if !a.getLsbD 63 then (if a = 0 ∧ b = 0 then .ok none else .error ())
  else if field a.toNat 57 5 ≠ 0 then .error ()
  else if !a.getLsbD 62 then
    let len := field b.toNat 0 40
    if field b.toNat 40 24 ≠ 0 ∨ len = 0 ∨ 2 ^ 57 < base + len then .error ()
    else .ok (some { pane := false, base := base, rows := 1, len := len, stride := 0 })
  else
    let rows := field b.toNat 44 20
    let len := field b.toNat 22 22
    let stride := field b.toNat 0 22 * 64
    if rows < 2 ∨ len = 0 ∨ stride < len ∨ 2 ^ 57 < base + (rows - 1) * stride + len then .error ()
    else .ok (some { pane := false, base := base, rows := rows, len := len, stride := stride })

/-- The bytes of a window, and where it ends. -/
def Window.bytes (w : Window) : Nat := w.rows * w.len
/-- E of R81. -/
def Window.finish (w : Window) : Nat := w.base + (w.rows - 1) * w.stride + w.len
/-- The covering range (R81). -/
def Window.cover (w : Window) : Nat × Nat := (w.base / 128 * 128, (w.finish + 127) / 128 * 128)
/-- Two windows overlap (R81). -/
def Window.overlap (v w : Window) : Bool := decide (v.cover.1 < w.cover.2) && decide (w.cover.1 < v.cover.2)

/-- KIND, CLASS, FENCE, IRQ, CHOST and TAG of a record (R78). -/
def recKind (ws : List (BitVec 64)) : Nat := field (recWord ws 0).toNat 60 4
/-- CLASS. -/
def recClass (ws : List (BitVec 64)) : Nat := field (recWord ws 0).toNat 58 2
/-- FENCE. -/
def recFence (ws : List (BitVec 64)) : Bool := (recWord ws 0).getLsbD 57
/-- IRQ. -/
def recIrq (ws : List (BitVec 64)) : Bool := (recWord ws 0).getLsbD 56
/-- CHOST. -/
def recChost (ws : List (BitVec 64)) : Bool := (recWord ws 0).getLsbD 55
/-- TAG. -/
def recTag (ws : List (BitVec 64)) : BitVec 32 := (recWord ws 0).setWidth 32
/-- GX, GY and GZ. -/
def recGrid (ws : List (BitVec 64)) : Nat × Nat × Nat :=
  let w := (recWord ws 2).toNat
  (field w 48 16, field w 32 16, field w 16 16)
/-- Frames of a grid. -/
def recFrames (ws : List (BitVec 64)) : Nat := let (x, y, z) := recGrid ws; x * y * z

/-- The windows of a record: 4 for reading, 2 for writing. -/
def recWindows (ws : List (BitVec 64)) : Except Unit (List (Option Window)) :=
  (List.range 6).mapM (fun i => parseWindow (recWord ws (8 + 2 * i)) (recWord ws (9 + 2 * i)))

/-- The read windows of an accepted record. -/
def recReads (ws : List (BitVec 64)) : List Window :=
  match recWindows ws with
  | .ok l => (l.take 4).filterMap id
  | .error _ => []
/-- The write windows. -/
def recWrites (ws : List (BitVec 64)) : List Window :=
  match recWindows ws with
  | .ok l => (l.drop 4).filterMap id
  | .error _ => []

/-- The checks of R80. -/
def recordCause (ws : List (BitVec 64)) : Option Nat :=
  let grid := recKind ws == 0
  let zero (ns : List Nat) : Bool := ns.all (fun n => recWord ws n == 0)
  let bad1 := decide (2 < recKind ws) || field (recWord ws 0).toNat 32 23 != 0 || field (recWord ws 2).toNat 0 16 != 0 ||
    !zero [6, 7, 20, 21, 22, 23, 24, 25, 26, 27, 28, 29, 30, 31] || field (recWord ws 4).toNat 0 4 != 0 ||
    (!grid && !zero [1, 2, 3])
  if bad1 then some 0x3D8
  else match recWindows ws with
  | .error _ => some 0x3D9
  | .ok l =>
    let frames := recFrames ws
    if grid && (frames == 0 || decide (2 ^ 32 - 1 < frames)) then some 0x3DB
    else if recKind ws ≠ 1 then none
    else match l with
      | [some r, none, none, none, some w, none] => if r.bytes ≠ w.bytes ∨ r.overlap w then some 0x3D7 else none
      | _ => some 0x3D7

/-! ## Descriptors (R34 to R37, R41, R42, R380) -/

/-- What reading for acceptance gives, with the state that the reads leave. -/
inductive Judge (α : Type) where
  | ok (a : α) (s : State)
  | refuse (cause : Nat) (s : State)
  | waits (s : State)

/-- Sequencing of acceptance checks. -/
def Judge.andThen {α β : Type} (j : Judge α) (g : α → State → Judge β) : Judge β :=
  match j with
  | .ok a s => g a s
  | .refuse k s => .refuse k s
  | .waits s => .waits s

/-- The number the engine's reads carry as a core; it lies above every core's. -/
def engineCore : Nat := 300

/-- The level of a queue's grids (R378).
Marked: DEDUCED, not safe, log 48. -/
def queueLevel (b : Nat) (q : QueueId) : Nat := if b = 12 then 2 else if q = .steward then 1 else 0

/-- The reader of acceptance: loads of the bay, within the package (R36).
Marked: DEDUCED, not safe, log 19 and 48. -/
def acceptReader (b lvl : Nat) : Reader :=
  { who := { bay := b, level := lvl, st := none }, core := engineCore, clm := 259, own := true }

/-- Bytes read for acceptance, once for each record (R34); a fault, another package, missing memory or poison refuses with 0x3D6. -/
def State.acceptBytes (s : State) (b lvl va n : Nat) : Judge (List Byte) :=
  match ((s.bay b).taken.bind (fun r => r.read.find? (fun q => q.1 == va && q.2.1 == n))).map (·.2.2) with
  | some bs => .ok bs s
  | none => match s.bulkRead (acceptReader b lvl) va n with
    | .value bs poison s' =>
      if poison then .refuse 0x3D6 s'
      else .ok bs (s'.modBay b (fun y => { y with taken := y.taken.map (fun r => { r with read := (va, n, bs) :: r.read }) }))
    | .fault _ _ => .refuse 0x3D6 s
    | .waits s' => .waits s'

/-- Words read for acceptance. -/
def State.acceptRead (s : State) (b lvl va n : Nat) : Judge (List (BitVec 64)) :=
  (s.acceptBytes b lvl va (8 * n)).andThen fun bs s => .ok ((List.range n).map (word64 bs)) s

/-- A descriptor's fields (R34). -/
def parseDescriptor (ws : List (BitVec 64)) : Descriptor :=
  let w (n : Nat) : Nat := (recWord ws n).toNat
  { entry := field (w 0) 40 24, entryPri := BitVec.ofNat 8 (field (w 0) 32 8),
    width := match field (w 0) 30 2 with
      | 0 => 32
      | 1 => 16
      | _ => 64
    span := field (w 0) 29 1 == 1, rods := field (w 0) 16 8, vgran := field (w 0) 0 7, pane := field (w 1) 16 10,
    board := field (w 1) 0 7, codeBase := recWord ws 2, codeWords := field (w 5) 0 24, ftab := recWord ws 3,
    ftlen := field (w 5) 48 16, ppt := recWord ws 4, features := recWord ws 8 ++ recWord ws 7 }

/-- Hardware rods on a core for some logical rods of a width (R35, R107). -/
def hardRods (width rods : Nat) : Nat :=
  match width with
  | 16 => (rods + 1) / 2
  | 64 => 2 * rods
  | _ => rods

/-- Logical rods on each core of a frame: all on one core, or the first half rounded up on the even one (R107). -/
def sideRods (span : Bool) (rods : Nat) : List Nat := if span then [(rods + 1) / 2, rods - (rods + 1) / 2] else [rods]

/-- Hardware rods of the fuller core. -/
def Descriptor.perCore (d : Descriptor) : Nat := hardRods d.width ((sideRods d.span d.rods).headD 0)

/-- Checks 1 to 5 of R36 on a descriptor's words. -/
def State.descriptorCause (s : State) (b : Nat) (ws : List (BitVec 64)) : Option Nat :=
  let w (n : Nat) : Nat := (recWord ws n).toNat
  let d := parseDescriptor ws
  let high (n : Nat) : Bool := field (w n) 57 7 != 0
  let stew := b == 12
  let feats := s.features b
  if field (w 0) 24 5 ≠ 0 ∨ field (w 0) 7 9 ≠ 0 ∨ field (w 1) 26 38 ≠ 0 ∨ field (w 1) 7 9 ≠ 0 ∨ field (w 5) 28 20 ≠ 0 ∨
     (List.range 6).any (fun i => w (10 + i) != 0) ∨ field (w 2) 0 16 ≠ 0 ∨ field (w 3) 0 4 ≠ 0 ∨ field (w 4) 0 5 ≠ 0 ∨
     field (w 6) 0 4 ≠ 0 ∨ high 2 ∨ high 3 ∨ high 4 ∨ high 6 ∨ d.codeWords = 0 ∨ 14 < field (w 5) 24 4 then some 0x3D0
  else if field (w 0) 30 2 = 3 ∨ (stew ∧ d.width ≠ 32) then some 0x3D1
  else if d.rods = 0 ∨ d.vgran = 0 ∨ 64 < d.vgran ∨ (if stew then 64 else 448) < d.pane ∨ (if stew then 0 else 64) < d.board ∨
     (if stew then 16 else 64) < d.perCore ∨ (if stew then 64 else 256) < d.perCore * d.vgran then some 0x3D2
  else if d.codeWords ≤ d.entry then some 0x3D3
  else if d.features &&& ~~~ feats ≠ 0 ∨ (d.span ∧ !feats.getLsbD 7) then some 0x3D4
  else none

/-- Whether a point table entry breaks R42 apart from the order of WORDs. -/
def pointBad (d : Descriptor) (us : List (BitVec 64)) : Bool :=
  let u (n : Nat) : Nat := (recWord us n).toNat
  decide (d.codeWords ≤ field (u 0) 40 24) || field (u 0) 32 8 != 0 || field (u 3) 10 54 != 0 ||
  u 1 / 2 ^ d.vgran != 0 || u 2 / 2 ^ d.board != 0 || decide (d.pane < field (u 3) 0 10)

/-- Check 6: the header and the entries in order (R42).
Marked: DESIGN CHOICE, not safe, log 114. -/
def State.pointsOk (s : State) (b lvl : Nat) (d : Descriptor) : Nat → Nat → Option Nat → Judge Unit
  | 0, _, _ => .ok () s
  | n + 1, va, last =>
    (s.acceptRead b lvl va 4).andThen fun us s =>
      let word := field (recWord us 0).toNat 40 24
      let ordered := match last with
        | some l => decide (l < word)
        | none => true
      if pointBad d us || !ordered then .refuse 0x3D5 s else s.pointsOk b lvl d n (va + 32) (some word)

/-- Check 6 of R36. -/
def State.pointTable (s : State) (b lvl : Nat) (d : Descriptor) : Judge Unit :=
  if d.ppt = 0 then .ok () s
  else (s.acceptRead b lvl d.ppt.toNat 4).andThen fun h s =>
    if (recWord h 0).toNat / 65536 ≠ 0 ∨ recWord h 1 ≠ 0 ∨ recWord h 2 ≠ 0 ∨ recWord h 3 ≠ 0 then .refuse 0x3D5 s
    else s.pointsOk b lvl d ((recWord h 0).toNat % 65536) (d.ppt.toNat + 32) none

/-- Check 7 on the code space: every page mapped readable in the bay, on this package, with memory. Its table lines are read as any walk
reads them (R246). -/
def State.codePages (s : State) (b lvl : Nat) (d : Descriptor) : Judge Unit :=
  let pages := rangePages d.codeBase.toNat (12 * d.codeWords)
  match s.openLines b (s.walkLines b pages) with
  | some s' => .waits s'
  | none =>
    let good := pages.all (fun va =>
      decide (va < 2 ^ 57) && (match s.translate (s.free * 64) { bay := b, level := lvl, st := none } .read (BitVec.ofNat 64 va) with
        | .ok pa => pa.pkg == s.pkgNum
        | .error _ => false))
    let s1 := s.walkedAll b engineCore pages
    if good then .ok () s1 else .refuse 0x3D6 s1

/-- The image a requirement entry names, if the bay may bind one (R37, R68, R380). -/
def State.imageFor (s : State) (b : Nat) (lo hi : BitVec 64) : Option Image :=
  if b = 12 then none
  else if hi.getLsbD 63 then
    ((s.bay b).store.find? (fun i => !i.withdrawn && i.image.digest.setWidth 64 == lo)).map (·.image)
  else vendorImage (field hi.toNat 0 16)

/-- Check 9 of R36 with R37: the entries in list order.
Marked: DEDUCED, not safe, log 47. -/
def State.bindList (s : State) (b : Nat) : Nat → List (BitVec 64 × BitVec 64) → Except Nat (SMap Binding)
  | _, [] => .ok []
  | slot, (lo, hi) :: rest =>
    let kind := hi.getLsbD 63
    if field hi.toNat 16 46 ≠ 0 ∨ (kind ∧ field hi.toNat 0 16 ≠ 0) ∨ (!kind ∧ lo ≠ 0) then .error 0x3D0
    else match s.imageFor b lo hi, hi.getLsbD 62 with
      | some i, _ =>
        match s.bindList b (slot + 1) rest with
        | .error k => .error k
        | .ok m => .ok ((slot, .image i) :: m)
      | none, true => s.bindList b (slot + 1) rest
      | none, false => .error 0x350

/-- The distinct customer images of some bindings. -/
def customImages (m : SMap Binding) : List Image :=
  m.foldl (fun is p => match p.2 with
    | .image i => if i.isCustom && !is.any (· == i) then is ++ [i] else is
    | _ => is) []

/-- How many distinct customer images the entries of a requirement list name (R37, R113).
Marked: DEDUCED, not safe, log 47. -/
def customNamed (entries : List (BitVec 64 × BitVec 64)) : Nat :=
  (entries.foldl (fun (ds : List (BitVec 64)) e => if e.2.getLsbD 63 && !ds.any (· == e.1) then ds ++ [e.1] else ds) []).length

/-- A grid's descriptor, judged by R36, R37 and R113.
Marked: DEDUCED, not safe, log 47. -/
def State.judgeDescriptor (s : State) (b lvl : Nat) (desc : BitVec 64) : Judge (Descriptor × SMap Binding) :=
  if desc.toNat % 128 ≠ 0 then .refuse 0x3D0 s
  else (s.acceptRead b lvl desc.toNat 16).andThen fun ws s =>
    match s.descriptorCause b ws with
    | some k => .refuse k s
    | none =>
      let d := parseDescriptor ws
      let n := field (recWord ws 5).toNat 24 4
      (s.pointTable b lvl d).andThen fun _ s =>
      (s.acceptRead b lvl (recWord ws 6).toNat (2 * n)).andThen fun fs s =>
      (s.codePages b lvl d).andThen fun _ s =>
        let before : Judge Bool := if d.entry = 0 then .ok false s else
          (s.acceptBytes b lvl (d.codeBase.toNat + 12 * (d.entry - 1)) 12).andThen fun bs s => .ok (ofBytes bs / 2 ^ 94 == 2) s
        before.andThen fun transom s =>
        if transom then .refuse 0x3D3 s
        else
          let entries := (List.range n).map (fun i => (recWord fs (2 * i), recWord fs (2 * i + 1)))
          if b != 12 && entries.any (fun e => e.2.getLsbD 63) && !(s.features b).getLsbD 8 then .refuse 0x3D4 s
          else match s.bindList b 2 entries with
            | .error k => .refuse k s
            | .ok m => if 6 < customNamed entries then .refuse 0x351 s else .ok (d, m) s

/-! ## Completion pairs and refusals (R86, R91) -/

/-- An entry of the refusal log (R399): 64 entries, the newest over the oldest. -/
def Bay.logRefusal (y : Bay) (r : Refused) : Bay :=
  { y with refusals := (y.refusals ++ [r]).drop (y.refusals.length - 63), refusalCount := y.refusalCount + 1 }

/-- CSTAT for a cause (R86). -/
def cstat (cause : Option Nat) : BitVec 64 :=
  match cause with
  | none => 0
  | some k => BitVec.ofNat 64 (2 ^ 63 + k % 1024)

/-- COMPLETION_WRITE (R86): CSTAT, then CVAL; a fault enters the refusal log with CW set. None while a line has to come from
another package.
Marked: DEDUCED, not safe, log 48. -/
def State.completion (s : State) (b lvl : Nat) (ws : List (BitVec 64)) (cause : Option Nat) : State × Bool :=
  let compl := recWord ws 4
  if compl = 0 then (s, true)
  else if recChost ws then ((s.hostPut (compl.toNat + 8) (cstat cause)).hostPut compl.toNat (recWord ws 5), true)
  else
    match s.bulkWrite { acceptReader b lvl with own := false } compl.toNat
        (toBytes 8 (recWord ws 5).toNat ++ toBytes 8 (cstat cause).toNat) with
    | .done s' => (s', true)
    | .waits s' => (s', false)
    | .fault k _ => (s.modBay b (·.logRefusal { cw := true, cause := k, tag := recTag ws }), true)

/-- The record at a queue's head leaves the queue. -/
def Bay.takeHead (y : Bay) (q : QueueId) : Bay :=
  match q with
  | .device => { y with device := y.device.drop 1 }
  | _ => y.modQueue q (fun k => { k with head := k.head + 1 })

/-- NODE_REFUSE (R91). -/
def State.refuse (s : State) (b : Nat) (place : Nat) (ws : List (BitVec 64)) (cause : Nat) : State :=
  let q := rotationQueue place
  let (s1, done) := if cause = 0x3D8 then (s, true) else s.completion b (queueLevel b q) ws (some cause)
  if !done then s1
  else
    let k := (s1.bay b).queue? q
    let s2 := s1.modBay b (fun y =>
      let y1 := y.modQueue q (fun k => k.note cause)
      let y2 := if q = .device then y1.logRefusal { cw := false, cause := cause, tag := recTag ws } else y1
      { y2.takeHead q with rotation := place, taken := none })
    let s3 := (s2.forgetAsked b).count b 15 (if b < 12 then 1 else 0)
    match k with
    | some k => if k.irqRef then s3.queueIrq b q k else s3
    | none => s3

/-! ## Acceptance (R77, R82, R83, R89, R90) -/

/-- The unretired nodes of a bay. -/
def State.bayNodes (s : State) (b : Nat) : List (Nat × Node) := s.nodes.filter (fun p => p.2.bay == b)

/-- Whether an earlier node gives an edge to a record (R82, R83). -/
def edgeFrom (m : Node) (mid : Nat) (q : QueueId) (launcher : Option Nat) (ws : List (BitVec 64)) : Bool :=
  launcher != some mid &&
  ((recWrites m.words).any (fun v => (recReads ws ++ recWrites ws).any v.overlap) ||
   (recReads m.words).any (fun v => (recWrites ws).any v.overlap) ||
   (recFence ws && m.queue == q))

/-- The predecessors a record takes. -/
def State.predsOf (s : State) (b : Nat) (q : QueueId) (launcher : Option Nat) (ws : List (BitVec 64)) : List Nat :=
  ((s.bayNodes b).filter (fun p => edgeFrom p.2 p.1 q launcher ws)).map (·.1)

/-- A node whose count is 0 goes on: into the pool, or for a marker straight to its retirement (R85). -/
def Node.released (n : Node) (now : Nat) : Node :=
  { n with state := if recKind n.words = 2 then .draining else .ready, entered := now * 2 ^ 32 + n.seq }

/-- Whether the bay's quotas let a record with some edges in (R89, R90). -/
def State.roomForNode (s : State) (b : Nat) (edges : Nat) : Bool :=
  let nodes := s.bayNodes b
  let quota := if b = 12 then 64 else (s.bay b).nodeq
  let store := if b = 12 then 4096 else 64 * quota
  decide (nodes.length < quota) && decide ((nodes.map (·.2.preds.length)).sum + edges ≤ store)

/-- A checked record becomes a node of the graph, or the pipeline stops at it (R90).
Marked: DEDUCED, not safe, log 45. -/
def State.accept (s : State) (b place : Nat) (launcher : Option Nat) (ws : List (BitVec 64)) (d : Option Descriptor)
    (m : SMap Binding) : State :=
  let q := rotationQueue place
  let preds := s.predsOf b q launcher ws
  if !s.roomForNode b preds.length then s
  else
    let (id, s1) := s.fresh
    let n : Node :=
      { bay := b, queue := q, seq := (s.bay b).seq, words := ws, state := .waiting, preds := preds, cls := recClass ws, entered := 0,
        aged := 0, desc := d, bindings := m, nextFrame := 0, live := 0, cause := none, dispatch := none, launcher := launcher }
    { s1.modBay b (fun y => { y.takeHead q with seq := y.seq + 1, rotation := place, taken := none }) with
      nodes := s1.nodes.put id (if preds.isEmpty then n.released s1.now else n) }

/-- The record at a place of the rotation, and the node that launched it. -/
def State.recordAt (s : State) (b place : Nat) : List (BitVec 64) × Option Nat :=
  let y := s.bay b
  match rotationQueue place with
  | .device => match y.device with
    | r :: _ => (r.words, some r.launcher)
    | [] => ([], none)
  | q => match y.queue? q with
    | some k => (s.hostWords (field k.base.toNat 8 56 * 256 + 256 * (k.head.toNat % 2 ^ k.log2n.toNat)) 32, none)
    | none => ([], none)

/-- A record's checks (R36, R80). -/
def State.checkRecord (s : State) (bay : Nat) (r : TakenRecord) : Judge Verdict :=
  match recordCause r.words with
  | some k => .ok (.refused k) s
  | none =>
    if recKind r.words ≠ 0 then .ok (.passes none []) s
    else match s.judgeDescriptor bay (queueLevel bay (rotationQueue r.place)) (recWord r.words 1) with
      | .refuse k s' => .ok (.refused k) s'
      | .waits s' => .waits s'
      | .ok (d, m) s' => .ok (.passes (some d) m) s'

/-- A record is refused, or accepted where there is room, as its checks came out (R77, R90). -/
def State.carryOut (s : State) (bay : Nat) (r : TakenRecord) : Verdict → State
  | .refused k => s.refuse bay r.place r.words k
  | .passes d m => s.accept bay r.place r.launcher r.words d m

/-- A record that has been read is checked, once, and refused or accepted where there is room (R36, R77, R80, R90). -/
def State.judgeRecord (s : State) (bay : Nat) (r : TakenRecord) : State :=
  match r.verdict with
  | some v => s.carryOut bay r v
  | none => match s.checkRecord bay r with
    | .ok v s' => (s'.modBay bay (fun y => { y with taken := y.taken.map (fun r => { r with verdict := some v, read := [] }) })).carryOut bay r v
    | .waits s' => s'
    | .refuse k s' => s'.carryOut bay r (.refused k)

/-- NODE_ACCEPT (R77): the pipeline reads a record once and keeps it until it is accepted or refused, and the bay's other queues wait
(R76, R90); `readError` tells whether the read from host memory failed.
Marked: DEDUCED, not safe, log 45. -/
def execNodeAccept (bay : Nat) (readError : Bool) (s : State) : Out :=
  let y := s.bay bay
  if y.state ≠ .reserved ∧ bay ≠ 12 then .next s
  else match y.taken with
    | some r => .next (s.judgeRecord bay r)
    | none => match y.nextPlace bay with
      | none => .next s
      | some place =>
        if readError ∧ rotationQueue place ≠ .device then .next (s.queueFault bay (rotationQueue place) 0x3DC)
        else
          let (ws, launcher) := s.recordAt bay place
          let r : TakenRecord := { place := place, words := ws, launcher := launcher }
          .next ((s.modBay bay (fun y => { y with taken := some r })).judgeRecord bay r)

/-! ## Queue registers -/

/-- The queue a register names: 0 the steward queue, n + 1 host queue n. -/
def queueOf (n : Nat) : QueueId := if n = 0 then .steward else .host (n - 1)

/-- Whether a queue's registers answer: a host queue needs a bound function and to lie within the bay's quota (R74). -/
def State.queueLives (s : State) (b n : Nat) : Bool :=
  s.barOpen && decide (b < 13) &&
    (n == 0 || (s.vfOpen && decide (b < 12) && decide (n ≤ (s.bay b).hostq) && (s.functionOf b).isSome))

/-- QUEUE_TAIL_WRITE (R76). -/
def execQueueTailWrite (bay queue : Nat) (v : BitVec 64) (s : State) : Out :=
  let q := queueOf queue
  if !s.queueLives bay queue then .next s
  else
    let s1 := s.modBay bay (fun y => y.modQueue q (fun k => { k with tail := v.setWidth 16 }))
    match (s1.bay bay).queue? q with
    | some k => .next (if k.en && k.broken then s1.queueFault bay q 0x3DD else s1)
    | none => .next s1

/-- QUEUE_CONTROL_WRITE (R75, R76): LOG2N is ignored while EN is 1.
Marked: DESIGN CHOICE, not safe, log 115. -/
def execQueueControlWrite (bay queue : Nat) (v : BitVec 64) (s : State) : Out :=
  let q := queueOf queue
  if !s.queueLives bay queue then .next s
  else
    let s1 := s.modBay bay (fun y => { y.modQueue q (fun k =>
      { k with msiv := v.extractLsb' 16 8, log2n := if k.en then k.log2n else v.extractLsb' 4 4, irqRef := v.getLsbD 3,
               irqCmp := v.getLsbD 2, en := v.getLsbD 0 }) with
      taken := if v.getLsbD 0 then y.taken else y.leftOf q })
    match (s1.bay bay).queue? q with
    | some k => .next (if k.en && k.broken then s1.queueFault bay q 0x3DD else s1)
    | none => .next s1

end Sys2Proof.Machine
end

