-- ==== Sys2Proof/Machine/Shake.lean ====
section
/-! DEFINITION. SHAKE256, by which images, keys and saved frames are named (R56, R66, R410); its definition is that of FIPS 202
(log 21). -/

namespace Sys2Proof.Machine

/-- A lane of the state, in the order x + 5 y. -/
def lane (st : List (BitVec 64)) (x y : Nat) : BitVec 64 := (st[x % 5 + 5 * (y % 5)]?).getD 0

/-- Round constants. -/
def roundConstants : List (BitVec 64) :=
  [0x0000000000000001, 0x0000000000008082, 0x800000000000808A, 0x8000000080008000, 0x000000000000808B, 0x0000000080000001,
   0x8000000080008081, 0x8000000000008009] ++
  [0x000000000000008A, 0x0000000000000088, 0x0000000080008009, 0x000000008000000A, 0x000000008000808B, 0x800000000000008B,
   0x8000000000008089, 0x8000000000008003] ++
  [0x8000000000008002, 0x8000000000000080, 0x000000000000800A, 0x800000008000000A, 0x8000000080008081, 0x8000000000008080,
   0x0000000080000001, 0x8000000080008008]

/-- Rotation of lane (x, y), in the order x + 5 y. -/
def rhoOffsets : List Nat :=
  [0, 1, 62, 28, 27, 36, 44, 6, 55, 20, 3, 10, 43, 25, 39, 41, 45, 15, 21, 8, 18, 2, 61, 56, 14]

/-- The 25 places of the state as pairs. -/
def places25 : List (Nat × Nat) := (List.range 25).map (fun i => (i % 5, i / 5))

/-- The step θ. -/
def keccakTheta (st : List (BitVec 64)) : List (BitVec 64) :=
  let c (x : Nat) : BitVec 64 := (List.range 5).foldl (fun a y => a ^^^ lane st x y) 0
  let cs := (List.range 5).map c
  let d (x : Nat) : BitVec 64 := ((cs[(x + 4) % 5]?).getD 0) ^^^ (((cs[(x + 1) % 5]?).getD 0).rotateLeft 1)
  let ds := (List.range 5).map d
  places25.map (fun p => lane st p.1 p.2 ^^^ (ds[p.1]?).getD 0)

/-- The steps ρ and π: lane (x, y) of the result comes from lane (x + 3 y, x). -/
def keccakRhoPi (st : List (BitVec 64)) : List (BitVec 64) :=
  places25.map (fun p =>
    let x := (p.1 + 3 * p.2) % 5
    let y := p.1
    (lane st x y).rotateLeft ((rhoOffsets[x + 5 * y]?).getD 0))

/-- The step χ. -/
def keccakChi (st : List (BitVec 64)) : List (BitVec 64) :=
  places25.map (fun p => lane st p.1 p.2 ^^^ (~~~ lane st (p.1 + 1) p.2 &&& lane st (p.1 + 2) p.2))

/-- One round. -/
def keccakRound (st : List (BitVec 64)) (rc : BitVec 64) : List (BitVec 64) :=
  match keccakChi (keccakRhoPi (keccakTheta st)) with
  | [] => []
  | a :: rest => (a ^^^ rc) :: rest

/-- The permutation.
Marked: PRESUMED, not safe, log 21. -/
def keccakF (st : List (BitVec 64)) : List (BitVec 64) := roundConstants.foldl keccakRound st

/-- A block of 136 bytes taken into the state. -/
def absorbBlock (st : List (BitVec 64)) (block : List Byte) : List (BitVec 64) :=
  keccakF (st.zipIdx.map (fun p =>
    if p.2 < 17 then p.1 ^^^ BitVec.ofNat 64 (ofBytes ((block.drop (8 * p.2)).take 8)) else p.1))

/-- Padding of SHAKE: 0x1F, zeros, and 0x80 in the last byte of a block.
Marked: PRESUMED, not safe, log 21. -/
def shakePad (n : Nat) : List Byte :=
  let k := 136 - n % 136
  if k = 1 then [0x9F] else 0x1F :: (List.replicate (k - 2) 0 ++ [0x80])

/-- Blocks taken in one after the other. -/
def absorbAll : Nat → List (BitVec 64) → List Byte → List (BitVec 64)
  | 0, st, _ => st
  | n + 1, st, bs => absorbAll n (absorbBlock st (bs.take 136)) (bs.drop 136)

/-- The first 64 bytes of SHAKE256, as the number whose bytes in memory order they are.
Marked: PRESUMED, not safe, log 21. -/
def shake256 (bs : List Byte) : BitVec 512 :=
  let m := bs ++ shakePad bs.length
  let st := absorbAll (m.length / 136) (List.replicate 25 0) m
  BitVec.ofNat 512 (ofBytes ((st.take 8).flatMap (fun l => toBytes 8 l.toNat)))

end Sys2Proof.Machine
end

