-- ==== Sys2Proof/Machine/Settle.lean ====
section
/-! DEFINITION. What follows when frames leave their cores: the save area with its graph and counter sections, the end of a save,
the change of turns, and the end of a bay's work (R75, R92, R96, R103, R104, R265, R401, R404, R405, R410, R414 to R417, R425). -/

namespace Sys2Proof.Machine

/-! ## Cores of a bay (R96, R103) -/

/-- The number of the steward core, above those of the compute dies. -/
def stewardCore : Nat := 256

/-- Package logical cores of a bay by bay core number. -/
def State.bayCores (s : State) (b : Nat) : List Nat :=
  if b = 12 then [stewardCore] else (s.bay b).pairs.flatMap (fun k => [2 * k, 2 * k + 1])

/-- The package core of a bay core number. -/
def State.coreOf (s : State) (b n : Nat) : Nat := ((s.bayCores b)[n]?).getD 0

/-- The bay that a group's running turn names, if any (R102, R103). -/
def Group.turnBay (g : Group) : Option Nat :=
  if !g.running then none
  else match g.entries[g.turn]? with
    | some e => if e.getLsbD 31 then some (field e.toNat 27 4) else none
    | none => none

/-- Whether a bay has its cores now: a fixed bay always, a sliced one in its turn (R103). -/
def State.hasTurn (s : State) (b : Nat) : Bool :=
  let g := (s.bay b).group
  b == 12 || g == 0 || (match s.groups[g - 1]? with
    | some x => x.turnBay == some b
    | none => false)

/-- Resident frames of a bay. -/
def State.bayFrames (s : State) (b : Nat) : List (Nat × Frame) := s.frames.filter (fun p => p.2.bay == b && !p.2.exited)

/-- Placement is open: the bay is RESERVED, running in its turn and not stopped (R94, R104, R405). -/
def State.placesNow (s : State) (b : Nat) : Bool :=
  let y := s.bay b
  y.state == .reserved && y.running && !y.stopped && s.hasTurn b


/-- Key of a customer position of a core. -/
def posKey (core pos : Nat) : Nat := core * 32 + pos


/-! ## The save area (R404, R410) -/

/-- The engine's own reader and writer of save areas: it counts for no bay (R423).
Marked: DEDUCED, not safe, log 19. -/
def areaReader : Reader := { who := { bay := 12, level := 2, st := none }, core := engineCore, clm := 259, own := true }

/-- SVKEY as a number. -/
def SaveCtl.svkey (y : SaveCtl) : Nat := y.key.toNat

/-- Bytes written at a LOCAL address under a key.
Marked: DEDUCED, not safe, log 56. -/
def State.areaPut (s : State) (key loc : Nat) (bs : List Byte) : State :=
  s.putRuns areaReader false
    ((lineRuns loc bs.length).map (fun r => { line := r.1 / 128, key := key, off := r.1 % 128, n := r.2 })) bs

/-- Bytes read at a LOCAL address under a key, whether any is poisoned, and the state the reads leave. -/
def State.areaGet (s : State) (key loc n : Nat) : List Byte × Bool × State :=
  (lineRuns loc n).foldl (fun (acc : List Byte × Bool × State) r =>
    let p : Place := { line := r.1 / 128, key := key, off := r.1 % 128, n := r.2 }
    let (d, q) := acc.2.2.lineNow key p.line
    (acc.1 ++ toBytes p.n (lineBytes d p.off p.n), acc.2.1 || q, acc.2.2.touch areaReader p)) ([], false, s)

/-- Words written at a LOCAL address. -/
def State.areaWords (s : State) (key loc : Nat) (ws : List (BitVec 64)) : State :=
  s.areaPut key loc (ws.flatMap (fun w => toBytes 8 w.toNat))

/-- Every line of a range can enter its slice: a write of the save area waits while every way it may take is pinned (R267).
Marked: DEDUCED, not safe, log 121. -/
def State.areaEnters (s : State) (loc n : Nat) : Bool := (lineRuns loc n).all (fun r => s.canEnter (r.1 / 128))

/-- Whether the part may write a range of a bay's save area: the area exists, SVKEY is 0 or one of KEYS, and every granule has
memory, OWNER 0xE, that key and no RDONLY (R246, R249, R404, R411).
Marked: DEDUCED, not safe, log 56. -/
def State.areaUsable (s : State) (b loc n : Nat) : Bool :=
  let y := s.bay b
  let k := y.ctl.svkey
  y.ctl.base != 0 && (k == 0 || y.keySet.getLsbD k) &&
  (List.range ((loc % 65536 + n + 65535) / 65536)).all (fun i =>
    let a := loc / 65536 * 65536 + 65536 * i
    let e := s.ownerEntry a
    s.hasMemory a && !memb (a / 65536) s.chip.ownersBad && entryOwner e == 0xE && entryKey e == k && !entryRdonly e)

/-- Bytes of a core's region. -/
def regionBytes : Nat := 0x800000

/-- LOCAL address of the region of bay core `c`. -/
def Bay.region (y : Bay) (c : Nat) : Nat := y.ctl.base.toNat + c * regionBytes

/-- LOCAL address of the graph section, and its length for the bay's NODEQ (R404). -/
def State.graphAt (s : State) (b : Nat) : Nat := (s.bay b).region (s.bayCores b).length
/-- Bytes of the graph section. -/
def Bay.graphBytes (y : Bay) : Nat := 128 + 320 * y.nodeq

/-- Code of a node state in s0 (R414). -/
def NodeState.code : NodeState → Nat
  | .waiting => 1
  | .ready => 2
  | .dispatching => 3
  | .running => 4
  | .draining => 5

/-- Code of a queue in s0 (R414). -/
def QueueId.code : QueueId → Nat
  | .steward => 0
  | .host n => n + 1
  | .device => 17

/-- The unretired nodes of a bay in acceptance order. -/
def insertNode (p : Nat × Node) : List (Nat × Node) → List (Nat × Node)
  | [] => [p]
  | q :: qs => if p.2.seq < q.2.seq then p :: q :: qs else q :: insertNode p qs

/-- The unretired nodes of a bay in acceptance order (R77). -/
def State.nodesInOrder (s : State) (b : Nat) : List (Nat × Node) := (s.bayNodes b).foldr insertNode []

/-- Frames of a grid that have not been placed yet. -/
def Node.unplaced (n : Node) : Nat := if recKind n.words = 0 then recFrames n.words - n.nextFrame else 0

/-- A node's entry of the graph section: its record as accepted, then s0 to s3 and zeros up to 320 bytes; the frames not yet exited
are those placed or saved and those still to be placed (R414). -/
def Node.entryWords (n : Node) : List (BitVec 64) :=
  (List.range 32).map (recWord n.words) ++
  [BitVec.ofNat 64 (n.state.code + n.queue.code * 16 + n.cls * 512), BitVec.ofNat 64 n.nextFrame, BitVec.ofNat 64 (n.live + n.unplaced),
   BitVec.ofNat 64 (n.cause.getD 0)] ++ List.replicate 4 0

/-- The frame's node as a position among the bay's unretired nodes (R410). -/
def State.nodeIndex (s : State) (b nid : Nat) : Nat := ((s.nodesInOrder b).findIdx? (fun p => p.1 == nid)).getD 0

/-- h2 of an image header: NODE and FRAMEID (R410). -/
def State.nodeWord (s : State) (b : Nat) (fr : Frame) : BitVec 64 := BitVec.ofNat 64 (s.nodeIndex b fr.node * 2 ^ 32 + fr.frameId.toNat)

/-- With the graph section, every published image gets the index that its node has in it: nodes can retire while the bay is saved (R410).
Marked: DEDUCED, not safe, log 121. -/
def State.indexImages (s : State) (b : Nat) : State :=
  let y := s.bay b
  let words := y.saved.map (fun f => s.nodeWord b f.frame)
  ((y.saved.zip words).foldl (fun s q =>
      if q.1.made ∧ s.areaUsable b q.1.addr.toNat 128 then s.areaWords y.ctl.svkey (q.1.addr.toNat + 16) [q.2] else s) s).modBay b (fun y =>
    { y with saved := (y.saved.zip words).map (fun q => if q.1.made then { q.1 with header := q.1.header.set 2 q.2 } else q.1) })

/-- PREEMPT writes the graph section and, directly after its 128 + 320 × NODEQ bytes, the counter section (R414, R425).
Marked: DEDUCED, not safe, log 56. -/
def State.writeGraph (s : State) (b : Nat) : State :=
  let y := s.bay b
  let loc := s.graphAt b
  if !y.ctl.graph then s
  else if !s.areaUsable b loc (y.graphBytes + 128) then s.modBay b (fun y => { y with ctl := { y.ctl with err := 4 } })
  else
    let ns := s.nodesInOrder b
    let k := y.ctl.svkey
    let s1 := ns.zipIdx.foldl (fun s q => s.areaWords k (loc + 128 + 320 * q.2) q.1.2.entryWords) (s.indexImages b)
    let s2 := s1.areaWords k (loc + y.graphBytes) y.counters
    s2.areaWords k loc (BitVec.ofNat 64 (2 ^ 63 + ns.length) :: List.replicate 15 0)

/-! ## The end of a save (R401, R405, R411) -/

/-- A producer that waited for a step has its result: a scalar status of one logical rod.
Marked: DEDUCED, not safe, log 59. -/
def State.giveStatus (s : State) (producer status : Nat) : State :=
  { s with producers := s.producers.modify producer (fun p =>
    { p with
      ready := true
      effect := { p.effect with writes := p.effect.writes.map (fun w => match w with
        | .scl rod reg _ po => .scl rod reg (BitVec.ofNat 64 status) po
        | w => w) } }) }

/-- The lines of the graph and counter sections and of the published images' headers can be written (R267). -/
def State.graphEnters (s : State) (b : Nat) : Bool :=
  let y := s.bay b
  !y.ctl.graph || y.preempts.isEmpty ||
    (s.areaEnters (s.graphAt b) (y.graphBytes + 128) && y.saved.all (fun f => s.areaEnters f.addr.toNat 128))

/-- A save ends once no frame of the bay is resident or being placed: the graph section follows a PREEMPT that asked for it, then the words
that wait are done.
Marked: DEDUCED, not safe, log 121. -/
def State.endSave (s : State) (b : Nat) : State :=
  let y := s.bay b
  if !y.saving || !(s.bayFrames b).isEmpty || y.placing.isSome || !s.graphEnters b then s
  else
    let s1 := if y.preempts.isEmpty then s else s.writeGraph b
    y.preempts.foldl (fun s p => s.giveStatus p 0)
      (s1.modBay b (fun y => { y with saving := false, preempts := [], ctl := { y.ctl with busy := false } }))

/-! ## Turns (R103, R104) -/

/-- Bays of a slice group that are CONFIGURED or RESERVED. -/
def State.members (s : State) (g : Nat) : List Nat :=
  (List.range 12).filter (fun b => (s.bay b).state != .free && (s.bay b).group == g)

/-- Package cores of a group: all its members have the same pairs (R95). -/
def State.groupCores (s : State) (g : Nat) : List Nat :=
  match s.members g with
  | b :: _ => s.bayCores b
  | [] => []

/-- The customer positions of some cores are freed (R104). -/
def State.freeStrips (s : State) (cores : List Nat) : State :=
  s.modChip (fun c => { c with
    strips := c.strips.filter (fun p => !memb (p.1 / 32) cores)
    stripLoads := c.stripLoads.filter (fun p => !memb (p.1 / 32) cores) })

/-- The member of a group that the running turn names; an entry that names another bay runs as an idle turn (R102, R103). -/
def State.turnBay (s : State) (g : Nat) (x : Group) : Option Nat := x.turnBay.filter (fun b => memb b (s.members g))

/-- The incoming bay of a group begins once the last outgoing frame has left, one of its own earlier turn too (R104, R105). -/
def State.settleGroup (s : State) (g : Nat) : State :=
  match s.groups[g - 1]? with
  | none => s
  | some x =>
    if !x.running then s
    else
      let now := s.turnBay g x
      let begun := match now with
        | some b => (s.bay b).running
        | none => false
      if begun || (s.members g).any (fun b => !(s.bayFrames b).isEmpty || (s.bay b).placing.isSome) then s
      else
        let s1 := s.freeStrips (s.groupCores g)
        match now with
        | some b => if (s.bay b).state = .reserved then s1.modBay b (fun y => { y with running := true }) else s1
        | none => s1

/-- What follows when a frame of a bay has left its cores. -/
def State.settle (s : State) (b : Nat) : State :=
  let s1 := s.endSave b
  let g := (s1.bay b).group
  if b = 12 ∨ g = 0 then s1 else s1.settleGroup g

/-! ## The end of a bay's work (R92, R401, R416, R417) -/

/-- Lines of a bay become DEAD (R265). -/
def State.deadLines (s : State) (b : Nat) : State :=
  s.modCache (fun c => { c with lines := c.lines.map (fun p =>
    if p.2.bay = b then (p.1, { p.2 with cls := .dead }) else p) })

/-- The fetch entries a frame holds are given back, and their pins with them (R315, R316). -/
def State.dropHolds (s : State) (fid : Nat) : State :=
  let mine := (s.holds.filter (fun p => p.2.frame == fid)).map (·.1)
  { s with
    holds := s.holds.filter (fun p => p.2.frame != fid)
    cache := { s.cache with lines := s.cache.lines.map (fun p => (p.1, { p.2 with pins := p.2.pins.filter (fun h => !memb h mine) })) } }

/-- What is left of an abandoned word (R277): the other parts of each lane's write of which a part is performed, so that the write is
performed whole; nothing orders them. -/
def MemOp.orphan (o : MemOp) : Option MemOp :=
  let begun (lane : Nat) : Bool := o.acc.any (fun a => a.lane == lane && a.done)
  let acc := if o.writes then o.acc.filter (fun a => !a.done && !a.pane && begun a.lane) else []
  if acc.isEmpty then none else some { o with acc := acc, order := 0, producer := none, ticket := none }

/-- The contexts of a bay end: frames without a save, with all that they issued and had not performed (R277, R401, R417). -/
def State.dropFrames (s : State) (b : Nat) : State :=
  let fids := (s.frames.filter (fun p => p.2.bay == b)).map (·.1)
  let saved := (s.bay b).saved.map (·.frameNo)
  let mine (f : Nat) : Bool := memb f fids || memb f saved
  let loads := s.loads.filter (fun p => (SMap.find s.producers p.2.producer).any (fun q => mine q.frame))
  let s0 := (s.ops.filter (fun p => mine p.2.frame)).foldl (fun s p => s.forgetStores p.2) s
  let s1 := ((fids.foldl (fun s f => s.dropHolds f) s0).forgetAsked b).modBay b (fun y => { y with placing := none })
  { s1 with
    frames := s1.frames.filter (fun p => !mine p.1)
    ops := s1.ops.filterMap (fun p => if mine p.2.frame then p.2.orphan.map (fun o => (p.1, o)) else some p)
    fences := s1.fences.filter (fun p => !mine p.2.frame)
    producers := s1.producers.filter (fun p => !mine p.2.frame)
    jobs := s1.jobs.filter (fun p => !mine p.2.frame)
    matq := s1.matq.filter (fun p => !mine p.2.frame)
    loads := s1.loads.filter (fun p => !loads.any (fun q => q.1 == p.1)) }

/-- The launch state of a bay ends (R92): nodes without completion, the device queue, and the queues it covers. A reset of the bay's
function covers no register of the steward queue; its posted records are discarded by moving HEAD to TAIL, and its other registers stay.
Marked: DESIGN CHOICE, not safe, log 99. -/
def State.dropGraph (s : State) (b : Nat) (byFunction : Bool) : State :=
  { s with
    nodes := s.nodes.filter (fun p => p.2.bay != b)
    bays := s.bays.modify b (fun y => { y with
      device := []
      taken := none
      hosts := List.replicate 16 Queue.blank
      steward := if byFunction then { y.steward with head := y.steward.tail } else Queue.blank }) }

/-- Published images are discarded: every region's COUNT, and the graph section's VALID, are zero (R416). -/
def State.discardSaved (s : State) (b : Nat) : State :=
  let y := s.bay b
  let k := y.ctl.svkey
  let s1 := (List.range (s.bayCores b).length).foldl (fun s c =>
    if s.areaUsable b (y.region c) 128 then s.areaWords k (y.region c) [0, 0] else s) s
  let s2 := if s1.areaUsable b (s1.graphAt b) 128 then s1.areaWords k (s1.graphAt b) [0] else s1
  s2.modBay b (fun y => { y with saved := [], ctl := { y.ctl with saved := 0, busy := false } })

/-- BAYRST, and the reset of a bay's virtual function: every context of the bay ends; its state, block, store, keys, root and
counters stay (R401, R416, R417). The words that wait for a save end with it.
Marked: DEDUCED, not safe, log 59. -/
def State.endBay (s : State) (b : Nat) (byFunction : Bool) : State :=
  let waiting := (s.bay b).preempts
  let s1 := (((s.dropFrames b).dropGraph b byFunction).discardSaved b).deadLines b
  let s2 := s1.modBay b (fun y => { y with thbase := 0, thctl := 0, tcls := 0, saving := false, preempts := [] })
  let g := (s2.bay b).group
  let s3 := waiting.foldl (fun s p => s.giveStatus p 0) s2
  if g = 0 then s3 else s3.settleGroup g

end Sys2Proof.Machine
end

