-- ==== Sys2Proof/Machine/Control.lean ====
section
/-! DEFINITION. The words of row 0xC, transom words, pair words and words that name no instruction (R118, R126 to R133, R149 to
R156). -/

namespace Sys2Proof.Machine

/-! ## Moving lanes -/

/-- The active lanes move to their targets and every other lane of the entry to the next word (R150 to R152). -/
def RodUnit.moveTo (u : RodUnit) (e : Entry) (taken : BitVec 64) (moves : List (Nat × Nat × BitVec 8)) : RodUnit :=
  let rest := arrive (leave u.frontier e.pc) (e.pc + 1) e.pri (e.lanes &&& ~~~ taken)
  { u with frontier := moves.foldl (fun fr m => arrive fr m.2.1 m.2.2 (BitVec.ofNat 64 (2 ^ m.1))) rest }

/-- The return link of R150: the priority and the index after the word. -/
def linkOf (e : Entry) : BitVec 32 := e.pri ++ BitVec.ofNat 24 (e.pc + 1)

/-- The links that CALL and CALLT write into v1. -/
def linkEffect (x : Issue) : Effect :=
  { writes := x.lanes.map (fun l => .vec 1 l (linkOf x.e) false), flags := [] }

/-- What the judgement of one lane's transfer gives. -/
inductive Judged where
  | goes (pc : Nat) (pri : BitVec 8)
  | traps (t : TrapInfo)
  | waits (s : State)

/-- What the judgement of all lanes gives. -/
inductive Targets where
  | go (moves : List (Nat × Nat × BitVec 8))
  | traps (t : TrapInfo)
  | waits (s : State)

/-- Every active lane is judged in lane order, the word before its target last (R132, R151, R152).
Marked: DEDUCED, not safe, log 41. -/
def State.judge (s : State) (c : IssueCtx) (g : Nat → Judged) : List Nat → Targets
  | [] => .go []
  | l :: ls =>
    match g l with
    | .traps t => .traps t
    | .waits s' => .waits s'
    | .goes pc pri =>
      match s.before c pc with
      | .transom => .traps { cause := 0x007, lane := some l }
      | .waits s' => .waits s'
      | .clear =>
        match s.judge c g ls with
        | .go ms => .go ((l, pc, pri) :: ms)
        | r => r

/-! ## BRA, CALL, CALLT, RET, EXIT -/

/-- The target of BRA and CALL: the immediate's, or the one an LBR supplies (R131, R150). -/
def branchTarget (x : Issue) : Int × BitVec 8 :=
  match x.lbr with
  | some p => (((p.extractLsb' 0 24).toNat : Int), p.extractLsb' 24 8)
  | none => ((x.e.pc : Int) + x.f.imm.toInt, x.f.mod.extractLsb' 0 8)

/-- BRA and CALL (R150). -/
def branchWord (fm : Form) (link : Bool) (f : SFields) (s : State) : Out :=
  withWord fm f (fun c x s =>
    if x.act = 0 then .next (s.finish c (fun u => u))
    else
      let (t, tp) := branchTarget x
      if t < 0 ∨ (c.codeWords : Int) ≤ t then .next (s.trapWord c { cause := 0x081, lane := some (lowestLane x.act) })
      else
        match s.before c t.toNat with
        | .transom => .next (s.trapWord c { cause := 0x007, lane := some (lowestLane x.act) })
        | .waits s' => .next (s'.waitWord c)
        | .clear =>
          .next (s.issued c (fun u =>
            (if link then u.apply (linkEffect x) else u).moveTo c.e x.act (x.lanes.map (fun l => (l, t.toNat, tp)))))) s

/-- BRA (R150). -/
def execBra (f : SFields) (s : State) : Out := branchWord formBra false f s

/-- CALL (R150). -/
def execCall (f : SFields) (s : State) : Out := branchWord formCall true f s

/-- The data reader of a unit: its loads outside the memory queue (R39, R154).
Marked: DEDUCED, not safe, log 19. -/
def State.unitReader (s : State) (c : IssueCtx) (own : Bool) : Reader :=
  { who := s.dataRequester c, core := c.core, clm := c.claimant, own := own }

/-- Every earlier memory word of the unit is performed at a scope, and no acquire or fence stands before it.
Marked: DEDUCED, not safe, log 18. -/
def State.allDone (s : State) (c : IssueCtx) (scope : Nat) : Bool :=
  !s.memBlocked c.fid c.ui c.e.lanes && s.earlierDone c.fid c.ui s.nextId scope (BitVec.allOnes 64)

/-- The function table index of a lane (R151). -/
def tableIndex (x : Issue) (l : Nat) : Src := if x.f.ac == .vec then x.srcA 32 l else x.srcA 64 l

/-- One lane of CALLT (R151). -/
def State.calltLane (s : State) (c : IssueCtx) (x : Issue) (l : Nat) : Judged :=
  let trap (k : Nat) : Judged := .traps { cause := k, lane := some l }
  let (k, p) := tableIndex x l
  if p then .traps (poisonAt l)
  else if c.fr.ftab = 0 ∨ c.fr.ftlen ≤ k then trap 0x082
  else
    match s.bulkRead (s.unitReader c false) ((c.fr.ftab.toNat + 16 * k) % 2 ^ 64) 16 with
    | .waits s' => .waits s'
    | .fault k a => .traps { cause := k, lane := some l, taddr := a }
    | .value bs poison _ =>
      let lo := word64 bs 0
      let hi := word64 bs 1
      let target := (hi.extractLsb' 8 24).toNat
      if poison then .traps (poisonAt l)
      else if !lo.getLsbD 63 || lo.extractLsb' 32 31 != 0 then trap 0x083
      else if (hi.extractLsb' 32 32).toNat ≠ (x.srcB 32 x.f.zimm l).1 then trap 0x084
      else if c.codeWords ≤ target then trap 0x085
      else .goes target (hi.extractLsb' 0 8)

/-- The claims of CALLT's table reads, one for each index named (R39). -/
def State.calltTouch (s : State) (c : IssueCtx) (x : Issue) : State :=
  (sortNums (x.lanes.map (fun l => (tableIndex x l).1))).foldl (fun s k =>
    match s.bulkRead (s.unitReader c false) ((c.fr.ftab.toNat + 16 * k) % 2 ^ 64) 16 with
    | .value _ _ s' => s'
    | _ => s) s

/-- CALLT (R151): its table reads are acquire loads at DEV scope.
Marked: DEDUCED, not safe, log 18. -/
def execCallt (f : SFields) (s : State) : Out :=
  withWord formCallt f (fun c x s =>
    if x.act = 0 then .next (s.finish c (fun u => u))
    else if !s.allDone c 2 then .next (s.waitWord c)
    else
      match s.judge c (s.calltLane c x) x.lanes with
      | .traps t => .next (s.trapWord c t)
      | .waits s' => .next (s'.waitWord c)
      | .go ms => .next ((s.calltTouch c x).issued c (fun u => (u.apply (linkEffect x)).moveTo c.e x.act ms))) s

/-- One lane of RET (R152). -/
def retLane (c : IssueCtx) (x : Issue) (l : Nat) : Judged :=
  let (v, p) := x.srcA 32 l
  if p then .traps (poisonAt l)
  else if c.codeWords ≤ v % 2 ^ 24 then .traps { cause := 0x086, lane := some l }
  else .goes (v % 2 ^ 24) (BitVec.ofNat 8 (v / 2 ^ 24))

/-- RET (R152). -/
def execRet (f : SFields) (s : State) : Out :=
  withWord formRet f (fun c x s =>
    match s.judge c (retLane c x) x.lanes with
    | .traps t => .next (s.trapWord c t)
    | .waits s' => .next (s'.waitWord c)
    | .go ms => .next (s.issued c (fun u => u.moveTo c.e x.act ms))) s

/-- The threads of some lanes end: in a handler they leave the entries held aside too (R141, R153, R386). -/
def RodUnit.endHeld (u : RodUnit) (lanes : BitVec 64) : RodUnit :=
  { u with handler := u.handler.map (fun h => { h with
      held := (h.held.map (fun e => { e with lanes := e.lanes &&& ~~~ lanes })).filter (fun e => e.lanes != 0) }) }

/-- EXIT (R153): the active lanes stand in no entry any more. -/
def execExit (f : SFields) (s : State) : Out :=
  withWord formBare f (fun c x s => .next (s.issued c (fun u => (u.moveTo c.e x.act []).endHeld x.act))) s

/-! ## LAUNCH (R154) -/

/-- The record addresses of the active lanes, or the first poisoned or misaligned one. -/
def launchAddrs (x : Issue) : List Nat → Except TrapInfo (List (Nat × Nat))
  | [] => .ok []
  | l :: ls =>
    let (a, p) := x.srcA 64 l
    if p then .error (poisonAt l)
    else if a % 256 ≠ 0 then .error { cause := 0x088, lane := some l, taddr := BitVec.ofNat 64 a }
    else
      match launchAddrs x ls with
      | .error t => .error t
      | .ok as => .ok ((l, a) :: as)

/-- What reading the records gives. -/
inductive Records where
  | got (rs : List (Nat × List (BitVec 64))) (s : State)
  | traps (t : TrapInfo)
  | waits (s : State)

/-- The 256-byte records, read lane by lane as loads of the bay. -/
def State.launchRecords (s : State) (c : IssueCtx) : List (Nat × Nat) → Records
  | [] => .got [] s
  | (l, a) :: rest =>
    match s.bulkRead (s.unitReader c false) a 256 with
    | .waits s' => .waits s'
    | .fault k va => .traps { cause := k, lane := some l, taddr := va }
    | .value bs poison s' =>
      if poison then .traps (poisonAt l)
      else match s'.launchRecords c rest with
        | .got rs s'' => .got ((l, (List.range 32).map (word64 bs)) :: rs) s''
        | r => r

/-- LAUNCH: the release at DEV scope, the reads of every lane, then the records in lane order until the queue holds 256. The predicate is
empty from its issue until the producer completes (R163, R165); a trap of the reads is precise, so the word issues after them.
Marked: DEDUCED, not safe, log 18. -/
def execLaunch (f : SFields) (s : State) : Out :=
  withWord formLaunch f (fun c x s =>
    if x.act = 0 then .next (s.finish c (fun u => u))
    else if !s.allDone c 2 then .next (s.waitWord c)
    else
      match launchAddrs x x.lanes with
      | .error t => .next (s.trapWord c t)
      | .ok as =>
        match s.launchRecords c as with
        | .traps t => .next (s.trapWord c t)
        | .waits s' => .next (s'.waitWord c)
        | .got rs s1 =>
          let room := 256 - (s1.bay c.fr.bay).device.length
          let taken := rs.take room
          let s2 := s1.modBay c.fr.bay (fun b => { b with
            device := b.device ++ taken.map (fun r => { words := r.2, launcher := c.fr.node }) })
          let eff : Effect :=
            { writes := rs.map (fun r => .prd x.f.dst.toNat r.1 (taken.any (fun q => q.1 == r.1)) false), flags := [] }
          .next ((s2.produce c x.rods (destsOf (formLaunch.regs f)) eff true).finish c (fun u => u))) s

/-! ## TRAP and NOP -/

/-- TRAP (R155): a cause that it may not raise gives 0x087.
Marked: DEDUCED, not safe, log 42. -/
def execTrap (f : SFields) (s : State) : Out :=
  withWord formTrap f (fun c x s =>
    if x.act = 0 then .next (s.finish c (fun u => u))
    else
      let k := x.f.i 0 10
      .next (s.trapWord c { cause := if k = 0 ∨ 0x3F0 ≤ k then 0x087 else k, lane := some (lowestLane x.act), byTrap := true })) s

/-- NOP (R135). -/
def execNop (f : SFields) (s : State) : Out := withWord formBare f (fun c _ s => .next (s.finish c (fun u => u))) s

/-! ## Transom words (R130, R131) -/

/-- A transom issues: its payload waits for the next word, which every lane of the entry moves to.
Marked: DEDUCED, not safe, log 43. -/
def transomWord (kind : TransomKind) (rsv : BitVec 28) (p : BitVec 64) (s : State) : Out :=
  match s.issuing with
  | none => .fault .noUnit
  | some c =>
    match checkTransom c.u.transom kind rsv p with
    | some t => .next (s.trapWord c { t with atTransom := true })
    | none =>
      .next ((s.finish c (fun u => u)).modUnit c.fid c.ui
        (fun u => { u with transom := some { pc := c.e.pc, kind := kind, payload := p } }))

/-- LIT. -/
def execLit (rsv : BitVec 28) (p : BitVec 64) (s : State) : Out := transomWord .lit rsv p s

/-- LBR. -/
def execLbr (rsv : BitVec 28) (p : BitVec 64) (s : State) : Out := transomWord .lbr rsv p s

/-- OVR. -/
def execOvr (rsv : BitVec 28) (p : BitVec 64) (s : State) : Out := transomWord .ovr rsv p s

/-! ## Pair words (R126 to R129) -/

/-- A half at its issue. -/
def IssueCtx.half (c : IssueCtx) (h : Half) (ebase : Nat) : Issue :=
  let f := halfFields h
  let act := activeLanes c.fr.width c.u f c.e.lanes
  { fr := c.fr, u := c.u, e := c.e, f := f, lit := none, lbr := none, act := act, rods := rodsActive c.fr.width c.u act,
    ebase := ebase }

/-- The rods whose SRSEED a half advances.
Marked: DEDUCED, not safe, log 44. -/
def halfSeeds (h : Half) (x : Issue) : List Nat := if HalfOp.rounds h.op && halfRm h == 4 then x.rods else []

/-- A half starts: a transcendental one is a long-latency producer, any other writes at once (R162, R163). -/
def State.startHalf (s : State) (c : IssueCtx) (h : Half) (x : Issue) : State :=
  let eff := halfEffect h.op x
  if HalfOp.isT h.op then (if x.act = 0 then s else s.produce c x.rods [(.vec, h.dst.toNat)] eff true)
  else s.modUnit c.fid c.ui (fun u => u.apply eff)

/-- A pair word: every source is read before either half writes.
Marked: DEDUCED, not safe, log 87. -/
def execPairWord (h0 h1 : Half) (s : State) : Out :=
  match s.issuing with
  | none => .fault .noUnit
  | some c =>
    match checkPair (s.checkCtx c) c.u.transom h0 h1 with
    | some t => .next (s.trapWord c t)
    | none =>
      match readiness c [] (halfUses h0), readiness c [h0.guard.toNat, h1.guard.toNat] (halfUses h0 ++ halfUses h1) with
      | .traps t, _ => .next (s.trapWord c { t with opnd := 0 })
      | _, .traps t => .next (s.trapWord c { t with opnd := 0, half := true })
      | _, .waits => .next (s.waitEmpty c)
      | _, .issues =>
        match guardPoison c.fr.width c.u c.e false h0.guard.toNat, guardPoison c.fr.width c.u c.e false h1.guard.toNat with
        | some l, _ => .next (s.trapWord c (poisonAt l))
        | none, some l => .next (s.trapWord c { poisonAt l with half := true })
        | none, none =>
          let x0 := c.half h0 0
          let x1 := c.half h1 2048
          let seeds := sortNums (halfSeeds h0 x0 ++ halfSeeds h1 x1)
          .next (((s.startHalf c h0 x0).startHalf c h1 x1).finish c (fun u => u.bumpSeeds seeds))

/-! ## Words that name no instruction -/

/-- A word refused by checks 1 to 3 of R136. -/
def execUndefinedEncoding (w : InstrWord) (s : State) : Out :=
  match s.issuing with
  | none => .fault .noUnit
  | some c => .next (s.trapWord c { undefinedCause w with atTransom := isTransom w })

end Sys2Proof.Machine
end

