-- ==== Sys2Proof/Machine/Latch.lean ====
section
/-! DEFINITION. Latches and waiting: the latch words, PAUSE, and the judgement of waits (R341 to R356). -/

namespace Sys2Proof.Machine

/-! ## The latch words at issue (R345) -/

/-- A latch reference of a logical rod as its pane key, with the value of the latch readable (R345). -/
def latchRef (c : IssueCtx) (x : Issue) (rod : Nat) : Except TrapInfo Nat :=
  let lane := c.rodLane rod
  let (v, p) := x.srcA 64 (x.laneOfRod rod)
  let trap (k addr : Nat) : Except TrapInfo Nat := .error { cause := k, lane := some lane, taddr := BitVec.ofNat 64 addr }
  if p then .error (poisonAt lane)
  else if field v 32 32 ≠ 0 ∨ field v 20 11 ≠ 0 ∨ field v 31 1 = 0 ∨ v % 16 ≠ 0 then trap 0x390 (v % 2 ^ 20)
  else match paneKey c.fr c.u.side (v % 2 ^ 20) 16 1 with
    | .error (k, a) => trap k a
    | .ok key => .ok key

/-- The latch a word reads; a poisoned byte is consumed. -/
def latchRead (c : IssueCtx) (fr : Frame) (rod key : Nat) : Except TrapInfo LatchVal :=
  if fr.panePoisoned key 16 then .error (poisonAt (c.rodLane rod)) else .ok (fr.latchAt key)

/-- BAR waits at its slot until every earlier memory word of its unit is performed: its arrival is a release at FRAME scope (R351), and its
slot stays empty meanwhile (R350).
Marked: DEDUCED, not safe, log 18. -/
def latchWord (fm : Form) (f : SFields) (body : IssueCtx → Issue → State → Out) (s : State) : Out :=
  withWord fm f (fun c x s =>
    if x.rods.isEmpty then .next (s.finish c (fun u => u))
    else if !s.allDone c 0 then .next (s.waitWord c)
    else body c x s) s

/-- What a latch word asks of one rod's latch. -/
abbrev RodAct := IssueCtx → Issue → Nat → Except TrapInfo LatchAct

/-- The latch of a rod and what is asked of it, both checked at issue (R345 to R347). -/
def latchTodo (g : RodAct) (c : IssueCtx) (x : Issue) (i : Nat) : Except TrapInfo (Nat × LatchAct) :=
  match latchRef c x i with
  | .error t => .error t
  | .ok key => match g c x i with
    | .error t => .error t
    | .ok a => .ok (key, a)

/-- The rods of a word one after the other (R345): the frame after them, and which were accepted; a trap of either leaves no effect
(R382). -/
def actRods (g : RodAct) (c : IssueCtx) (x : Issue) (fr : Frame) : List Nat → Except TrapInfo (Frame × List (Nat × Bool))
  | [] => .ok (fr, [])
  | i :: is =>
    match latchTodo g c x i with
    | .error t => .error t
    | .ok (key, a) =>
      match fr.actOn key a with
      | .error k => .error { cause := k, lane := some (c.rodLane i) }
      | .ok (fr', ok) =>
        match actRods g c x fr' is with
        | .error t => .error t
        | .ok (fr'', oks) => .ok (fr'', (i, ok) :: oks)

/-- The 16 bytes of a latch as an access of a rod. -/
def latchAccess (lane key : Nat) : LaneAccess :=
  { lane := lane, addr := key, pkg := 0, key := 0, pane := true, va := 0, size := 16, part := 0, bitOff := 0, bits := 128, data := 0, cmp := 0,
    poison := false, ok := true, done := false, got := 0, gotPoison := false }

/-- The latches of the rods of a word that must wait, with what is asked of each. -/
def todoRods (g : RodAct) (c : IssueCtx) (x : Issue) : List Nat → Except TrapInfo (List (LaneAccess × LatchAct))
  | [] => .ok []
  | i :: is =>
    match latchTodo g c x i with
    | .error t => .error t
    | .ok (key, a) =>
      match todoRods g c x is with
      | .error t => .error t
      | .ok as =>
        .ok ((latchAccess (c.rodLane i) key, a) :: as)

/-- The lanes of the predicate that LARR or LEXP writes for a logical rod (R345). -/
def predWrites (c : IssueCtx) (x : Issue) (i : Nat) (v : Bool) : List RegWrite :=
  (lanesOf (c.e.lanes &&& rodLanes c.fr.width i)).map (fun l => .prd x.f.dst.toNat l v false)

/-- The producer of the predicate, for LARR and LEXP. -/
def State.producePred (s : State) (c : IssueCtx) (x : Issue) (pred : Bool) (oks : List (Nat × Bool)) : State :=
  if pred then s.produce c x.rods (destsOf (formLarr.regs x.f))
    { writes := oks.flatMap (fun q => predWrites c x q.1 q.2), flags := [] } true
  else s

/-- LINIT, LARR, LEXP and LREG: a release at FRAME scope (R351). The update is made at issue where every earlier memory word of the unit is
performed; else the word issues and its update alone waits (R347).
Marked: DEDUCED, not safe, log 18. -/
def latchUpdate (fm : Form) (pred : Bool) (g : RodAct) (f : SFields) (s : State) : Out :=
  withWord fm f (fun c x s =>
    if x.rods.isEmpty then .next (s.finish c (fun u => u))
    else if s.memBlocked c.fid c.ui c.e.lanes then .next (s.waitWord c)
    else if s.allDone c 0 then
      (match actRods g c x c.fr x.rods with
        | .error t => .next (s.trapWord c t)
        | .ok (fr, oks) => .next (((s.putFrame c.fid fr).producePred c x pred oks).finish c (fun u => u)))
    else
      match todoRods g c x x.rods with
      | .error t => .next (s.trapWord c t)
      | .ok as =>
        let id := s.nextId
        let o : MemOp :=
          { frame := c.fid, unit := c.ui, kind := .latch, rod := none, scope := 0, order := 2, k := 0, op := 0, dst := none, size := 16,
            core := c.core, quarter := c.quarter, clm := c.claimant, bay := c.fr.bay, pc := c.e.pc, acc := as.map (·.1), ticket := none,
            producer := if pred then some id else none, failed := none, latch := as.map (·.2) }
        let s1 := if pred then s.producePred c x true (x.rods.map (fun i => (i, false))) else { s with nextId := id + 1 }
        .next ({ s1 with ops := s1.ops.put id o }.finish c (fun u => u))) s

/-- LINIT's latch (R346). -/
def linitAct : RodAct := fun c x i =>
  let (v, p) := x.srcB 64 0 (x.laneOfRod i)
  let n := v % 2 ^ 20
  if p then .error (poisonAt (c.rodLane i))
  else if n = 0 ∨ field v 56 8 ≠ 0 then .error { cause := 0x391, lane := some (c.rodLane i) }
  else .ok (.init { sec := field v 20 32, arr := n, rld := n, reg := 0, obs := 0, rsv := 0, ph := field v 52 4 })

/-- LINIT (R346). -/
def execLinit (f : SFields) (s : State) : Out := latchUpdate formLinit false linitAct f s

/-- LREG (R348). -/
def execLreg (f : SFields) (s : State) : Out := latchUpdate formLreg false (fun _ _ _ => .ok .register) f s

/-- LREG.D (R348). -/
def execLregD (f : SFields) (s : State) : Out := latchUpdate formLreg false (fun _ _ _ => .ok .withdraw) f s

/-- LARR's counts (R347). -/
def larrAct : RodAct := fun c x i =>
  let (v, p) := x.srcB 64 x.f.zimm (x.laneOfRod i)
  if p then .error (poisonAt (c.rodLane i))
  else if v = 0 ∨ 2 ^ 20 ≤ v then .error { cause := 0x391, lane := some (c.rodLane i) }
  else .ok (.update v 0)

/-- LEXP's counts (R347): the decrement is the negated count. -/
def lexpAct : RodAct := fun c x i =>
  let (v, p) := x.srcB 64 x.f.simm (x.laneOfRod i)
  if p then .error (poisonAt (c.rodLane i)) else .ok (.update 0 (2 ^ 32 - v % 2 ^ 32))

/-- LARR (R347). -/
def execLarr (f : SFields) (s : State) : Out := latchUpdate formLarr true larrAct f s

/-- LEXP (R347). -/
def execLexp (f : SFields) (s : State) : Out := latchUpdate formLarr true lexpAct f s

/-! ## Waits (R349, R350, R352, R355) -/

/-- A unit that waits, with the entry that waits. -/
def State.waiting (s : State) (fid ui : Nat) : Option IssueCtx :=
  match s.frame? fid with
  | none => none
  | some fr =>
    match fr.unit? ui with
    | none => none
    | some u =>
      match u.waits with
      | [] => none
      | w :: _ => (u.frontier.find? (fun e => e.pc == w.pc)).map (fun e => { fid := fid, ui := ui, fr := fr, u := u, e := e })

/-- A wait ends without its word's effect: the destinations are full with their old values. -/
def RodUnit.dropWaits (u : RodUnit) : RodUnit :=
  { u.waits.foldl (fun v w => v.mark false [w.rod] .scl w.dst) u with waits := [] }

/-- A trap of a word that waits (R349, R352). -/
def State.trapWait (s : State) (c : IssueCtx) (t : TrapInfo) : State :=
  (s.modUnit c.fid c.ui RodUnit.dropWaits).takeTrap c.fid c.ui c.e t

/-- A pane write of the frame's operations that is not performed yet touches the latch: its reads wait (R291). -/
def State.latchBusy (s : State) (c : IssueCtx) (key : Nat) : Bool :=
  s.ops.any (fun p => p.2.frame == c.fid && p.2.unit == c.ui && p.2.writes &&
    p.2.acc.any (fun a => a.pane && !a.done && decide (a.addr < key + 16) && decide (key < a.addr + a.size)))

/-- How the waits of a unit stand. -/
inductive WaitJudged where
  /-- Some latch has not left its phase. -/
  | waits
  | traps (t : TrapInfo)
  /-- Every rod may return; the frame after their observations, and what they write. -/
  | returns (fr : Frame) (ws : List RegWrite)

/-- The read with which a wait for phase `q` may return (R349), and whether it is made now, so that OBS is raised in the same update
(R351): the latch as it stands; or, where the wait has found the phase left before and the latch has since been written back to it, that
earlier read.
Marked: DEDUCED, safe, log 50. -/
def waitLatch (c : IssueCtx) (fr : Frame) (w : LatchWait) (q : Nat) : Except TrapInfo (LatchVal × Bool) :=
  match w.seen with
  | .left v bad =>
    let l := fr.latchAt w.latch
    if bad then .error (poisonAt (c.rodLane w.rod))
    else if !fr.panePoisoned w.latch 16 ∧ l.rsv = 0 ∧ l.ph ≠ q then .ok (l, true)
    else .ok (latchOf v, false)
  | _ => (latchRead c fr w.rod w.latch).map (fun l => (l, true))

/-- The returns of the rods in turn: the phases must be left; then OBS and the destination (R349).
Marked: DEDUCED, safe, log 50. -/
def judgeWaits (c : IssueCtx) (fr : Frame) : List LatchWait → WaitJudged
  | [] => .returns fr []
  | w :: ws =>
    match w.q with
    | none => .waits
    | some q => match waitLatch c fr w q with
    | .error t => .traps t
    | .ok (l, now) =>
      if l.rsv ≠ 0 then .traps { cause := 0x395, lane := some (c.rodLane w.rod) }
      else if l.ph = q then .waits
      else
        let fr' := if now ∧ w.r ∧ l.obs < l.reg then fr.putLatch w.latch { l with obs := l.obs + 1 } else fr
        match judgeWaits c fr' ws with
        | .returns fr'' rs => .returns fr'' (.scl w.rod w.dst (BitVec.ofNat 64 l.ph) false :: rs)
        | j => j

/-- LWAIT_WAKE: the waits are judged; LWAIT delivers once they are satisfied (R349, R352).
Marked: DEDUCED, safe, log 50. -/
def State.wake (s : State) (fid ui : Nat) : State :=
  match s.waiting fid ui with
  | none => s
  | some c =>
    if c.fr.term.isSome || c.u.halted || s.memBlocked fid ui c.e.lanes || c.u.waits.any (fun w => s.latchBusy c w.latch) then s
    else match judgeWaits c c.fr c.u.waits with
      | .waits => s.modUnit fid ui (fun u => { u with waits := u.waits.map (c.fr.judged true) })
      | .traps t => s.trapWait c t
      | .returns fr ws =>
        let rods := (c.u.waits.filter (fun w => !w.bar)).map (·.rod)
        match s.delivery c rods with
        | .waits => s
        | .traps t j => (match j with
            | some i => s.modUnit fid ui (fun u => u.setRod i (fun r => { r with jobFault := none }))
            | none => s).trapWait c t
        | .clear =>
          ((s.putFrame fid fr).modUnit fid ui (fun u =>
            ((u.dropWaits.apply { writes := ws, flags := [] }).used).advance c.e)).syncCore c.core

/-- A wait begins: the destinations are empty, the unit issues no word, and the entry stays where it is (R349). -/
def State.beginWaits (s : State) (c : IssueCtx) (ws : List LatchWait) : State :=
  (s.modUnit c.fid c.ui (fun u =>
    { ws.foldl (fun v w => v.mark true [w.rod] .scl w.dst) u with waits := ws, blocked := none, fresh := false })).count c.fr.bay 1 1

/-- The waits of LWAIT's rods (R349). -/
def lwaitRods (c : IssueCtx) (x : Issue) : List Nat → Except TrapInfo (List LatchWait)
  | [] => .ok []
  | i :: is =>
    match latchRef c x i with
    | .error t => .error t
    | .ok key =>
      let (q, p) := x.srcB 64 x.f.zimm (x.laneOfRod i)
      if p then .error (poisonAt (c.rodLane i))
      else if 15 < q then .error { cause := 0x393, lane := some (c.rodLane i) }
      else match lwaitRods c x is with
        | .error t => .error t
        | .ok ws => .ok ({ pc := c.e.pc, rod := i, latch := key, q := some q, r := x.f.m 6 1 == 1, dst := x.f.dst.toNat, bar := false } :: ws)

/-- LWAIT (R349). -/
def execLwait (f : SFields) (s : State) : Out :=
  withWord formLwait f (fun c x s =>
    if x.rods.isEmpty then .next (s.finish c (fun u => u))
    else match lwaitRods c x x.rods with
      | .error t => .next (s.trapWord c t)
      | .ok ws => .next ((s.beginWaits c ws).wake c.fid c.ui)) s

/-- The arrivals of a BAR that are still to be made, rod by rod (R350): the frame, and the waits with the phases left. A rod whose arrival
is refused keeps those after it waiting (R345). -/
def barArrive (c : IssueCtx) (fr : Frame) : List LatchWait → Except TrapInfo (Frame × List LatchWait)
  | [] => .ok (fr, [])
  | w :: ws =>
    let go (fr' : Frame) (w' : LatchWait) : Except TrapInfo (Frame × List LatchWait) :=
      match barArrive c fr' ws with
      | .error t => .error t
      | .ok (fr'', ws') => .ok (fr'', w' :: ws')
    if !w.bar || w.q.isSome then go fr w
    else match latchRead c fr w.rod w.latch with
      | .error t => .error t
      | .ok l =>
        match l.update 1 0 with
        | .corrupt => .error { cause := 0x395, lane := some (c.rodLane w.rod) }
        | .refused => .ok (fr, w :: ws)
        | .accepted l' => go (fr.putLatch w.latch l') { w with q := some l.ph }

/-- BAR_RETRY: an arrival that was refused is tried again (R350). -/
def State.retryBar (s : State) (fid ui : Nat) : State :=
  match s.waiting fid ui with
  | none => s
  | some c =>
    if c.fr.term.isSome || c.u.halted || c.u.waits.all (fun w => !w.bar || w.q.isSome) || c.u.waits.any (fun w => s.latchBusy c w.latch) then s
    else match barArrive c c.fr c.u.waits with
      | .error t => s.trapWait c t
      | .ok (fr, ws) => (s.putFrame fid fr).modUnit fid ui (fun u => { u with waits := ws.map (fr.judged true) })

/-- The waits of BAR's rods before their arrivals. -/
def barRods (c : IssueCtx) (x : Issue) : List Nat → Except TrapInfo (List LatchWait)
  | [] => .ok []
  | i :: is =>
    match latchRef c x i, barRods c x is with
    | .error t, _ => .error t
    | .ok _, .error t => .error t
    | .ok key, .ok ws =>
      .ok ({ pc := c.e.pc, rod := i, latch := key, q := none, r := x.f.m 6 1 == 1, dst := x.f.dst.toNat, bar := true } :: ws)

/-- BAR (R350): delivery, the arrival, then the wait. -/
def execBar (f : SFields) (s : State) : Out :=
  latchWord formBar f (fun c x s =>
    match barRods c x x.rods with
    | .error t => .next (s.trapWord c t)
    | .ok ws =>
      match s.delivery c x.rods with
      | .waits => .next (s.waitEmpty c)
      | .traps t j => .next (s.deliverTrap c t j)
      | .clear =>
        match barArrive c c.fr ws with
        | .error t => .next (s.trapWord c t)
        | .ok (fr, ws') => .next (((s.putFrame c.fid fr).beginWaits c ws').wake c.fid c.ui)) s

/-- LWAIT_WAKE (R349). -/
def execLwaitWake (frame unit : Nat) (s : State) : Out := .next (s.wake frame unit)

/-- BAR_RETRY (R350). -/
def execBarRetry (frame unit : Nat) (s : State) : Out := .next (s.retryBar frame unit)

/-! ## PAUSE (R353) -/

/-- The counts of PAUSE's rods: the largest. -/
def pauseCount (c : IssueCtx) (x : Issue) : List Nat → Except TrapInfo Nat
  | [] => .ok 0
  | i :: is =>
    let (v, p) := x.srcB 64 x.f.zimm (x.laneOfRod i)
    if p then .error (poisonAt (c.rodLane i))
    else match pauseCount c x is with
      | .error t => .error t
      | .ok n => .ok (max (min v 65535) n)

/-- PAUSE (R353): a pre-emption request has ended it already (R167). -/
def execPause (f : SFields) (s : State) : Out :=
  withWord formPause f (fun c x s =>
    match pauseCount c x x.rods with
    | .error t => .next (s.trapWord c t)
    | .ok n => .next (s.finish c (fun u => if n = 0 ∨ c.fr.haltReq then u else { u with pause := some n }))) s

end Sys2Proof.Machine
end

