-- ==== Sys2Proof/Machine/Shutter.lean ====
section
/-! DEFINITION. Windows and the shutter: job words, the order among jobs, their effects, arrivals and faults (R326 to R340). -/

namespace Sys2Proof.Machine

/-! ## Windows of jobs (R327, R328) -/

/-- A window of a job descriptor: the form of R79 with SPACE in a[61]; none when absent. -/
def parseJobWindow (a b : BitVec 64) : Except Unit (Option Window) :=
  if a.getLsbD 63 && a.getLsbD 61 then
    match parseWindow (setBit a 61 false) b with
    | .error _ => .error ()
    | .ok none => .error ()
    | .ok (some w) => if 2 ^ 20 ≤ w.base then .error () else .ok (some { w with pane := true })
  else parseWindow a b

/-- The pane key that a pane address names from a side, PARTNER resolved (R241, R328). -/
def paneAt (side a : Nat) : Nat := (if a / 2 ^ 19 % 2 = 1 then 1 - side else side) * 2 ^ 20 + a % 2 ^ 19

/-- The pane address that names a pane key from a side. -/
def paneFrom (side key : Nat) : Nat := (if key / 2 ^ 20 = side then 0 else 2 ^ 19) + key % 2 ^ 20

/-- The covering ranges of a window seen from a side (R81, R328): of a global window one range, of a pane window the part that lies in
each core's allocation. A range holds its space or core, its start and its end. -/
def Window.covers (side : Nat) (w : Window) : List (Nat × Nat × Nat) :=
  if w.pane then
    (List.range 2).filterMap (fun q =>
      let lo := max w.base (q * 2 ^ 19)
      let hi := min w.finish ((q + 1) * 2 ^ 19)
      if lo < hi then some (paneAt side (q * 2 ^ 19) / 2 ^ 20, (lo - q * 2 ^ 19) / 128 * 128, (hi - q * 2 ^ 19 + 127) / 128 * 128) else none)
  else [(2, w.cover.1, w.cover.2)]

/-- Overlap of two windows on covering ranges, each seen from its own side (R81, R328). -/
def Window.meets (sv sw : Nat) (v w : Window) : Bool :=
  (v.covers sv).any (fun a => (w.covers sw).any (fun b => a.1 == b.1 && decide (a.2.1 < b.2.2) && decide (b.2.1 < a.2.2)))

/-- The first byte of a pane window that fails R241. -/
def paneWindowCause (fr : Frame) (side : Nat) (w : Window) : Option (Nat × Nat) :=
  if !w.pane then none
  else (List.range w.rows).findSome? (fun i => match paneKey fr side (w.base + i * w.stride) w.len 1 with
    | .error e => some e
    | .ok _ => none)

/-- Whether a job of the same frame issued after another must wait for it (R329). -/
def Job.conflicts (i j : Job) : Bool :=
  i.writes.any (fun v => (j.reads ++ j.writes).any (v.meets i.side j.side)) || j.writes.any (fun v => i.reads.any (v.meets j.side i.side))

/-- Whether a job may start: every earlier job of its frame that it meets is complete, and every write its issuing thread had
observed is performed at DEV scope (R329, R336). -/
def State.jobFree (s : State) (id : Nat) (j : Job) : Bool :=
  !s.jobs.any (fun p => decide (p.1 < id) && p.2.frame == j.frame && !p.2.finished && p.2.conflicts j) &&
  s.earlierDone j.frame j.unit id 2 (BitVec.allOnes 64)

/-- Whether a core's shutter has some free places of its 64 (R326). -/
def State.shutterRoom (s : State) (core n : Nat) : Bool := decide ((s.jobs.filter (fun p => p.2.core == core)).length + n ≤ 64)

/-! ## Pending job faults (R338) -/

/-- A job fault is recorded for a logical rod; a later one sets MORE. -/
def LRod.noteFault (r : LRod) (inner widx : Nat) (value : BitVec 64) : LRod :=
  { r with jobFault := some (match r.jobFault with
    | some f => { f with more := true }
    | none => { inner := inner, widx := widx, value := value, more := false }) }

/-- The same in the state. -/
def State.jobFaults (s : State) (fid ui rod inner widx : Nat) (value : BitVec 64) : State :=
  ((s.frame? fid).elim s (fun fr => s.forgetAsked fr.bay)).modUnit fid ui (fun u => u.setRod rod (fun r => r.noteFault inner widx value))

/-! ## The words (R330 to R333) -/

/-- What a job word issues: its kind, its windows as its side names them, and its latch. -/
structure JobPlan where
  kind : JobKind
  reads : List Window
  writes : List Window
  latch : LatchRef
  /-- SRSEED is used up. -/
  draws : Bool

/-- Which job word stands. -/
inductive JobWord where
  | copy | gather | scatter
  deriving DecidableEq, Repr

/-- The layout of the windows that R331 lets be present: the places 0 to 3 for reading, 4 and 5 for writing. -/
def windowsOk (w : JobWord) (ws : List (Option Window)) : Bool :=
  let here (n : Nat) : Bool := ((ws[n]?).getD none).isSome
  match w with
  | .copy => here 0 && !here 1 && !here 2 && !here 3 && here 4
  | _ => here 0 && here 1 && !here 2 && !here 3 && here 4 && !here 5

/-- A field of the descriptor that must be zero is not (R330, check 4 of R333). -/
def descriptorBad (w : JobWord) (j : List (BitVec 64)) : Bool :=
  let j0 := (recWord j 0).toNat
  let cv := field j0 39 1 == 1
  field j0 40 24 != 0 || field j0 0 24 != 0 || recWord j 14 != 0 || recWord j 15 != 0 ||
  (w != .copy && cv) || (w == .copy && field j0 36 3 != 0) ||
  (!cv && (field j0 24 12 != 0 || field (recWord j 1).toNat 32 32 != 0))

/-- Counts of R331: NE elements for a converting copy, equal byte counts otherwise. -/
def countsOk (w : JobWord) (wa wd : Nat) (cv : Bool) (esz : Nat) (reads writes : List Window) : Bool :=
  let n (ws : List Window) (i : Nat) : Nat := ((ws[i]?).map Window.bytes).getD 0
  match w with
  | .copy =>
    if cv then
      let rowOk (v : Window) (e : Nat) : Bool := v.len * 8 % e == 0
      reads.all (fun v => rowOk v wa) && writes.all (fun v => rowOk v wd) &&
        writes.all (fun v => v.bytes * 8 / wd == n reads 0 * 8 / wa)
    else writes.all (fun v => v.bytes == n reads 0)
  | .gather => n reads 0 % 4 == 0 && n writes 0 == n reads 0 / 4 * 2 ^ esz && n reads 1 % 2 ^ esz == 0
  | .scatter => n reads 1 % 4 == 0 && n reads 0 == n reads 1 / 4 * 2 ^ esz && n writes 0 % 2 ^ esz == 0

/-- Some write window meets another window of the same job (check 9). -/
def selfMeets (side : Nat) (reads writes : List Window) : Bool :=
  writes.any (fun v => reads.any (v.meets side side)) || (match writes with
    | [v, w] => v.meets side side w
    | _ => false)

/-- The sixteen words of a descriptor in the pane. -/
def Frame.descriptorAt (fr : Frame) (key : Nat) : List (BitVec 64) :=
  (List.range 16).map (fun i => BitVec.ofNat 64 (fr.paneRead (key + 8 * i) 8))

/-- The checks of R333 for one logical rod, and what it issues.
Marked: DEDUCED, not safe, log 54. -/
def State.jobPlan (s : State) (w : JobWord) (c : IssueCtx) (x : Issue) (rod : Nat) : Except TrapInfo JobPlan :=
  let lane := c.rodLane rod
  let (a, p) := x.srcA 64 (x.laneOfRod rod)
  let bad {α : Type} (k addr : Nat) : Except TrapInfo α := .error { cause := k, lane := some lane, taddr := BitVec.ofNat 64 addr }
  if p then .error (poisonAt lane)
  else if 2 ^ 20 ≤ a then bad 0x200 a
  else match paneKey c.fr c.u.side a 128 1 with
  | .error (k, ad) => bad k ad
  | .ok key =>
    if a % 16 ≠ 0 then bad 0x380 a
    else if c.fr.panePoisoned key 128 then .error (poisonAt lane)
    else
      let j := c.fr.descriptorAt key
      let j0 := (recWord j 0).toNat
      let latch := (recWord j 1).toNat % 2 ^ 32
      let cv := field j0 39 1 == 1
      let esz := field j0 36 3
      let rm := field j0 24 3
      if descriptorBad w j then bad 0x380 a
      else if field latch 20 11 ≠ 0 ∨ latch % 16 ≠ 0 then bad 0x385 (latch % 2 ^ 20)
      else match (List.range 6).mapM (fun i => parseJobWindow (recWord j (2 + 2 * i)) (recWord j (3 + 2 * i))) with
      | .error _ => bad 0x381 a
      | .ok ws =>
        if !windowsOk w ws then bad 0x382 a
        else
          let fa := c.fr.slot (field j0 32 4)
          let fd := c.fr.slot (field j0 28 4)
          let reads := (ws.take 4).filterMap id
          let writes := (ws.drop 4).filterMap id
          let wa := (fa.map Binding.width).getD 32
          let wd := (fd.map Binding.width).getD 32
          if cv && decide (5 ≤ rm) then bad 0x343 0
          else if cv && rm == 4 && !(s.features c.fr.bay).getLsbD 4 then bad 0x00A 4
          else if cv && (fa.isNone || fd.isNone) then bad 0x340 0
          else if !countsOk w wa wd cv esz reads writes then bad 0x383 a
          else
            if selfMeets c.u.side reads writes then bad 0x384 a
            else match (reads ++ writes).findSome? (paneWindowCause c.fr c.u.side) with
            | some (k, ad) => bad k ad
            | none =>
              match (if field latch 31 1 = 1 then (paneKey c.fr c.u.side (latch % 2 ^ 20) 16 1).map some else .ok none) with
              | .error (k, ad) => bad k ad
              | .ok lref =>
                match fa, fd with
                | some ba, some bd =>
                  if cv && (ba.block == 32 || bd.block == 32) then bad 0x341 0
                  else if cv && !bd.hasMode rm then bad 0x342 0
                  else
                    let kind : JobKind := match w with
                      | .copy => if cv then .copyConvert ba bd rm (field j0 27 1 == 1) ((recWord j 1).extractLsb' 32 32) else .copyPlain
                      | .gather => .gather esz
                      | .scatter => .scatter esz
                    .ok { kind := kind, reads := reads, writes := writes, latch := lref, draws := cv && rm == 4 }
                | _, _ =>
                  let kind : JobKind := match w with
                    | .copy => .copyPlain
                    | .gather => .gather esz
                    | .scatter => .scatter esz
                  .ok { kind := kind, reads := reads, writes := writes, latch := lref, draws := false }

/-- The plans of every rod concerned, or the first trap. -/
def State.jobPlans (s : State) (w : JobWord) (c : IssueCtx) (x : Issue) : List Nat → Except TrapInfo (List (Nat × JobPlan))
  | [] => .ok []
  | i :: is =>
    match s.jobPlan w c x i, s.jobPlans w c x is with
    | .error t, _ => .error t
    | .ok _, .error t => .error t
    | .ok p, .ok ps => .ok ((i, p) :: ps)

/-- A job takes its place. -/
def State.addJob (s : State) (c : IssueCtx) (k : Nat) (rod : Nat) (p : JobPlan) : State :=
  let (id, s1) := s.fresh
  let j : Job :=
    { frame := c.fid, unit := c.ui, rod := rod, core := c.core, side := c.u.side, kind := p.kind, k := k, reads := p.reads,
      writes := p.writes, latch := p.latch, seed := (c.u.rod rod).srseed, pc := c.e.pc, started := false, finished := false }
  { s1 with jobs := s1.jobs.put id j }

/-- The logical rods that a job word takes effect for: those concerned by its guard whose taking set is not empty (R147, R148). -/
def jobRods (c : IssueCtx) (x : Issue) : List Nat :=
  let taking := takingSet c.fr.width c.u c.e.lanes
  x.rods.filter (fun i => (taking &&& rodLanes c.fr.width i) != 0)

/-- Pane bytes that the unit's own pending stores will change. -/
def State.paneBusy (s : State) (c : IssueCtx) (key n : Nat) : Bool :=
  s.ops.any (fun p => p.2.frame == c.fid && p.2.unit == c.ui && p.2.writes &&
    p.2.acc.any (fun a => a.pane && !a.done && decide (a.addr < key + n) && decide (key < a.addr + a.size)))

/-- COPY, GATHER and SCATTER: the checks, then one job for each logical rod (R332, R333).
Marked: DEDUCED, not safe, log 54. -/
def jobWord (w : JobWord) (f : SFields) (s : State) : Out :=
  withWord formJob f (fun c x s =>
    let rods := jobRods c x
    let busy (i : Nat) : Bool := match paneKey c.fr c.u.side (x.srcA 64 (x.laneOfRod i)).1 128 1 with
      | .ok key => s.paneBusy c key 128
      | .error _ => false
    if rods.isEmpty then .next (s.finish c (fun u => u))
    else if rods.any busy then .next (s.waitWord c)
    else match s.jobPlans w c x rods with
      | .error t => .next (s.trapWord c t)
      | .ok ps =>
        if !s.shutterRoom c.core ps.length then .next (s.waitWord c)
        else
          let s1 := ps.foldl (fun s p => s.addJob c (c.code f) p.1 p.2) s
          .next (s1.finish c (fun u => u.bumpSeeds ((ps.filter (fun p => p.2.draws)).map (·.1))))) s

/-- COPY (R334). -/
def execCopy (f : SFields) (s : State) : Out := jobWord .copy f s

/-- GATHER (R335). -/
def execGather (f : SFields) (s : State) : Out := jobWord .gather f s

/-- SCATTER (R335). -/
def execScatter (f : SFields) (s : State) : Out := jobWord .scatter f s

/-! ## Bytes of windows -/

/-- A byte as a job reads it: a poisoned one is zero data (R257). -/
def clean (b : Byte) (p : Bool) : PByte := (if p then 0 else b, p)

/-- Pane bytes as a job reads them (R257). -/
def Frame.paneBytes (fr : Frame) (key n : Nat) : List PByte :=
  (toBytes n (fr.paneRead key n)).zipIdx.map (fun b => clean b.1 (memb ((key + b.2) / 4) fr.panePoison))

/-- Write pane bytes with their poison as one change of the pane; `part` bytes at the end of them keep some of their bits, so that no
word is covered whole there (R257, R342). -/
def Frame.panePut (fr : Frame) (key : Nat) (bs : List PByte) (part : Nat) : Frame :=
  let whole := bs.length - part
  Frame.noted { fr with
    paneMem := bs.zipIdx.foldl (fun m b => SMap.set 0 m (key + b.2) b.1.1) fr.paneMem
    panePoison := bs.zipIdx.foldl (fun ps b =>
      let a := key + b.2
      if b.1.2 then insertNum (a / 4) ps
      else if a % 4 = 0 ∧ b.2 + 4 ≤ whole then removeNum (a / 4) ps else ps) fr.panePoison }

/-- The address of byte `n` of a window in its order, virtual or in the pane. -/
def Window.byteAt (w : Window) (n : Nat) : Nat := w.base + n / w.len * w.stride + n % w.len

/-- The run of a window's bytes that stands together from byte `n` on, within one line: its length, at most `k`. -/
def Window.runAt (w : Window) (n k : Nat) : Nat := min k (min (w.len - n % w.len) (128 - w.byteAt n % 128))

/-- The runs of `left` bytes of a window from byte `n` on. -/
def Window.runs (w : Window) : Nat → Nat → Nat → List (Nat × Nat)
  | 0, _, _ => []
  | fuel + 1, n, left =>
    if left = 0 then [] else
      let k := w.runAt n left
      (n, k) :: w.runs fuel (n + k) (left - k)

/-- What stops a job: the inner cause and the value its record holds. -/
abbrev JobStop := Nat × BitVec 64

/-- What reading some bytes came to: those read, what stopped it, whether a line must be waited for. -/
structure ReadOut where
  got : List PByte
  stop : Option JobStop
  waits : Bool
  s : State

/-- Who a job reads and writes as: its reader, its frame and its side. -/
structure JobHand where
  rd : Reader
  fid : Nat
  side : Nat

/-- Read `left` bytes of a window from byte `n` on, behind the bytes read before; `fuel` bounds the runs. -/
def State.readOn (s : State) (h : JobHand) (w : Window) : Nat → Nat → Nat → List PByte → ReadOut
  | 0, _, _, acc => { got := acc, stop := none, waits := false, s := s }
  | fuel + 1, n, left, acc =>
    if left = 0 then { got := acc, stop := none, waits := false, s := s }
    else
      let k := w.runAt n left
      if w.pane then
        let here := ((s.frame? h.fid).map (fun fr => fr.paneBytes (paneAt h.side (w.byteAt n)) k)).getD []
        s.readOn h w fuel (n + k) (left - k) (acc ++ here)
      else
        match s.bulkRead h.rd (w.byteAt n) k with
        | .waits s' => { got := acc, stop := none, waits := true, s := s' }
        | .fault c va => { got := acc, stop := some (c, va), waits := false, s := s }
        | .value bs p s' => s'.readOn h w fuel (n + k) (left - k) (acc ++ bs.map (fun b => clean b p))

/-- The low `tail` bits of a byte over the bits that stand there. -/
def mergeTail (old new : Byte) (tail : Nat) : Byte :=
  BitVec.ofNat 8 (old.toNat / 2 ^ tail * 2 ^ tail + new.toNat % 2 ^ tail)

/-- Write a run of bytes of a window within a line, which is at hand where it was judged to stand; `tail` non-zero keeps the upper bits of
the last byte. -/
def State.writeRun (s : State) (h : JobHand) (w : Window) (n : Nat) (at_ : Option JudgedRun) (bs : List PByte) (tail : Nat) : State :=
  let k := bs.length
  let poison := bs.any (·.2)
  let fix (old : Byte) : List PByte :=
    if tail = 0 then bs else bs.dropLast ++ [(mergeTail old ((bs.getLast?.map (·.1)).getD 0) tail, (bs.getLast?.map (·.2)).getD false)]
  if w.pane then
    let a := paneAt h.side (w.byteAt n)
    s.modFrame h.fid (fun fr => fr.panePut a (fix (SMap.get 0 fr.paneMem (a + k - 1))) (if tail = 0 then 0 else 1))
  else
    match at_ with
    | some r => s.putRunWith h.rd { line := r.line, key := r.key, off := r.off, n := k } (fun q =>
        let old : Byte := BitVec.ofNat 8 (lineBytes q.1 (r.off + k - 1) 1)
        (putBytes q.1 r.off ((fix old).map (·.1)), if k = 128 ∧ tail = 0 ∧ !poison then false else q.2 || poison))
    | none => s

/-! ## Streams of elements (R334, R335) -/

/-- An element of a stream: its bits and its poison. -/
abbrev PElem := Nat × Bool

/-- The elements of width `w` in some bytes; one with a poisoned byte is zero data with a mark (R257). -/
def elemsOf (w : Nat) (bs : List PByte) (count : Nat) : List PElem :=
  (List.range count).map (fun n =>
    let first := n * w / 8
    let k := ((n + 1) * w + 7) / 8 - first
    let here := (bs.drop first).take k
    if here.any (·.2) then (0, true) else (field (ofBytes (here.map (·.1))) (n * w % 8) w, false))

/-- Byte `b` of a stream of elements of width `w`. -/
def streamByte (w : Nat) (es : List PElem) (b : Nat) : PByte :=
  let lo := 8 * b / w
  let hi := (8 * b + 7) / w
  ((List.range (hi + 1 - lo)).foldl (fun (acc : PByte) i =>
    let n := lo + i
    match es[n]? with
    | none => acc
    | some e =>
      let v := e.1 % 2 ^ w
      let part := if n * w ≤ 8 * b then v / 2 ^ (8 * b - n * w) else v * 2 ^ (n * w - 8 * b)
      (acc.1 ||| BitVec.ofNat 8 part, acc.2 || e.2)) (0, false))

/-- The bytes of a stream; the last one may be filled in part. -/
def streamBytes (w : Nat) (es : List PElem) : List PByte := (List.range ((es.length * w + 7) / 8)).map (streamByte w es)

/-- How many elements each write window takes, and what stops the job: the failing element is the first in the order of
elements and, within one, of windows (R338). -/
def streamLimits (count : Nat) (src : Option JobStop) (dsts : List (Option (Nat × JobStop))) : List Nat × Option JobStop :=
  let firsts := dsts.map (fun d => (d.map (·.1)).getD count)
  let m := firsts.foldl min count
  match (dsts.zipIdx).find? (fun d => match d.1 with
    | some q => decide (q.1 = m) && decide (m < count)
    | none => false) with
  | some (some q, i) => ((List.range dsts.length).map (fun j => if j < i then m + 1 else m), some q.2)
  | _ => (dsts.map (fun _ => count), src)

/-- What a job's effect comes to. -/
inductive JobEnd where
  | done (stop : Option JobStop) (s : State)
  /-- Consumed poison ends the frame (R338). -/
  | poisoned (s : State)
  /-- A line is to be waited for; how far the job has come. -/
  | waits (p : JobProg) (s : State)

/-- What one stage of a job comes to: the job goes on from where it stands, or waits there. -/
inductive JobTurn where
  | on (p : JobProg) (s : State)
  | waits (p : JobProg) (s : State)

/-- The accesses of a job (R336): relaxed ones of its frame with the job's code. -/
def State.jobHand (s : State) (j : Job) : JobHand :=
  let bay := ((s.frame? j.frame).map (·.bay)).getD 12
  let lvl := ((s.frame? j.frame).map (·.level)).getD 2
  { rd := { who := { bay := bay, level := lvl, st := none, core := j.core }, core := j.core, clm := s.claimantOf bay j.core, own := false, k := j.k },
    fid := j.frame, side := j.side }

/-- Index values of a list (R335), with their poison. -/
def indexList (bs : List PByte) : List PElem := elemsOf 32 bs (bs.length / 4)

/-- The stage that reads an index list. -/
def State.readIndex (s : State) (h : JobHand) (w : Window) (p : JobProg) : JobTurn :=
  let o := s.readOn h w (w.bytes + 1) p.idx.length (w.bytes - p.idx.length) p.idx
  if o.waits then .waits { p with idx := o.got } o.s else .on { p with idx := o.got, stop := o.stop, stage := .source } o.s

/-- The stage that reads a COPY's source (R334). -/
def State.readSource (s : State) (h : JobHand) (w : Window) (p : JobProg) : JobTurn :=
  let o := s.readOn h w (w.bytes + 1) p.data.length (w.bytes - p.data.length) p.data
  if o.waits then .waits { p with data := o.got } o.s else .on { p with data := o.got, stop := o.stop, stage := .judge } o.s

/-- The stage that reads the elements of `e` bytes that an index list asks for, in its order (R335): element `n` with index `i` stands
at byte `place n i` of a window, and the table holds `size` elements. -/
def State.readElems (s : State) (h : JobHand) (w : Window) (e size : Nat) (place : Nat → Nat → Nat) : Nat → JobProg → JobTurn
  | 0, p => .on { p with stage := .judge } s
  | fuel + 1, p =>
    let n := p.data.length / e
    let stop (st : JobStop) (s : State) : JobTurn := .on { p with data := p.data.take (n * e), stop := some st, stage := .judge } s
    match (indexList p.idx)[n]? with
    | none => .on { p with stage := .judge } s
    | some (i, poison) =>
      if poison then stop (0x3F0, 0) s
      else if size ≤ i then stop (0x386, BitVec.ofNat 64 n) s
      else
        let k := p.data.length % e
        let o := s.readOn h w (e + 1) (place n i + k) (e - k) p.data
        if o.waits then .waits { p with data := o.got } o.s
        else match o.stop with
          | some st => stop st o.s
          | none => o.s.readElems h w e size place fuel { p with data := o.got }

/-- One element converted by a copy (R182, R334): a zero SCALE stands for 1.0; a poisoned element is zero data (R257). -/
def convertElem (fa fd : Binding) (rm : Nat) (sat : Bool) (scale : BitVec 32) (seed : BitVec 64) (n : Nat) (e : PElem) :
    PElem × Flags × Nat :=
  if e.2 then ((0, true), 0, 0)
  else
    let (v, f1) := scaledExact (fa.decode e.1) (if scale = 0 then .fin false 1 1 0 else fp32.decode scale.toNat)
    let (r, f2) := fd.round rm sat (srBits seed 0 (n % 2 ^ 32)) v
    ((r, false), f1 ||| f2, clampOf f2)

/-- The elements that a job writes of what it has read: their width, and each with what it raises (R334, R335). -/
def Job.elems (j : Job) (p : JobProg) : Nat × List (PElem × Flags × Nat) :=
  let plain (w : Nat) : Nat × List (PElem × Flags × Nat) := (w, (elemsOf w p.data (p.data.length * 8 / w)).map (fun e => (e, 0, 0)))
  match j.kind with
  | .copyConvert fa fd rm sat scale =>
    (fd.width, (elemsOf fa.width p.data (p.data.length * 8 / fa.width)).zipIdx.map (fun e => convertElem fa fd rm sat scale j.seed e.2 e.1))
  | .gather e => plain (8 * 2 ^ e)
  | .scatter e => plain (8 * 2 ^ e)
  | _ => plain 8

/-- A piece of what a job writes, within a line: the write window, the first element it holds, its place in the window, the byte of the
stream it begins with, and its length. -/
structure Piece where
  win : Nat
  elem : Nat
  pos : Nat
  src : Nat
  len : Nat

/-- The pieces of the first elements of each write window, in the order of windows and, within one, of elements. -/
def Job.pieces (j : Job) (p : JobProg) (w : Nat) (counts : List Nat) : List Piece :=
  match j.kind, j.writes with
  | .scatter e, [table] => ((indexList p.idx).take ((counts.head?).getD 0)).zipIdx.flatMap (fun i =>
      (table.runs (2 ^ e + 1) (i.1.1 * 2 ^ e) (2 ^ e)).map (fun q =>
        { win := 0, elem := i.2, pos := q.1, src := i.2 * 2 ^ e + (q.1 - i.1.1 * 2 ^ e), len := q.2 }))
  | _, _ => (j.writes.zip counts).zipIdx.flatMap (fun v =>
      let k := (v.1.2 * w + 7) / 8
      (v.1.1.runs (k + 1) 0 k).map (fun q => { win := v.2, elem := 8 * q.1 / w, pos := q.1, src := q.1, len := q.2 }))

/-- The stage that judges where the job may write, once for all (R249, R338): a line of another package comes under this one's ownership
meanwhile.
Marked: DESIGN CHOICE, not safe, log 16. -/
def State.judgePieces (s : State) (h : JobHand) (ws : List Window) : List Piece → JobProg → JobTurn
  | [], p => .on { p with stage := .write } s
  | q :: qs, p =>
    let p1 := { p with judged := p.judged + 1 }
    match ws[q.win]? with
    | none => s.judgePieces h ws qs p1
    | some w =>
      if w.pane || p.fails.any (fun f => f.1 == q.win) then s.judgePieces h ws qs p1
      else
        let va := w.byteAt q.pos
        match s.openLines h.rd.who.bay (s.walkLines h.rd.who.bay [va]) with
        | some s' => .waits p s'
        | none => match s.places h.rd .write [(va, q.len)] with
          | .error (c, a) => s.judgePieces h ws qs { p1 with fails := p.fails ++ [(q.win, q.elem, c, BitVec.ofNat 64 a)] }
          | .ok ps => match s.linesOpen h.rd.who.bay h.rd.k true ((ps.filter (fun l => decide (2 ^ 43 ≤ l.line))).map (fun l => (l.line, l.key))) with
            | some s' => .waits p s'
            | none => (s.walkedAll h.rd.who.bay h.rd.core [va]).judgePieces h ws qs { p1 with
                runs := p.runs ++ ps.map (fun l => { win := q.win, pos := q.pos, line := l.line, key := l.key, off := l.off, len := l.n }) }

/-- The pieces of one line. -/
def lineOf (ws : List Window) (q : Piece) : Nat × Nat := (q.win, ((ws[q.win]?).map (fun w => w.byteAt q.pos)).getD 0 / 128)

/-- The lines of some pieces, each once, in the order in which they are reached. -/
def pieceLines (ws : List Window) (qs : List Piece) : List (Nat × Nat) :=
  qs.foldl (fun ls q => if ls.any (· == lineOf ws q) then ls else ls ++ [lineOf ws q]) []

/-- A piece takes its place in the order of elements, behind those of the same element. -/
def insertPiece (q : Piece) : List Piece → List Piece
  | [] => [q]
  | r :: rs => if q.elem < r.elem then q :: r :: rs else r :: insertPiece q rs

/-- Pieces in the order of the elements that they begin with. -/
def byElement (qs : List Piece) : List Piece := qs.foldl (fun l q => insertPiece q l) []

/-- What a job's writes come to. -/
inductive JobWrites where
  | all (s : State)
  | waits (p : JobProg) (s : State)
  /-- A line is refused: the first element in it fails. -/
  | cut (elem : Nat) (stop : JobStop) (s : State)

/-- The stage that writes: all the job's bytes in a line are written together, so that a job given up has written each 32-byte sector
whole or not at all (R340), in the order of the lines' first elements, each line where it was judged to stand. `streams` are the bytes of
each window with the bits of its last byte. The bytes written count for the bay (R422).
Marked: DESIGN CHOICE, not safe, log 16. -/
def State.writeLines (s : State) (h : JobHand) (ws : List Window) (qs : List Piece) (streams : List (List PByte × Nat)) :
    List (Nat × Nat) → JobProg → JobWrites
  | [], _ => .all s
  | l :: ls, p =>
    let bay := h.rd.who.bay
    let here := qs.filter (fun q => lineOf ws q == l)
    let p1 := { p with written := p.written + 1 }
    let runOf (q : Piece) : Option JudgedRun := p.runs.find? (fun r => r.win == q.win && r.pos == q.pos)
    let write (s : State) : State := (here.foldl (fun s q =>
      let (bs, tail) := (streams[q.win]?).getD ([], 0)
      match ws[q.win]? with
      | none => s
      | some w => s.writeRun h w q.pos (runOf q) ((bs.drop q.src).take q.len) (if q.src + q.len = bs.length then tail else 0)) s).count bay 12
        (if bay < 12 then (here.map (·.len)).sum else 0)
    match ws[l.1]?, here with
    | some w, q :: _ =>
      if w.pane then (write s).writeLines h ws qs streams ls p1
      else match runOf q with
      | none => s.writeLines h ws qs streams ls p1
      | some r => match s.deniedTo r.line bay r.key true with
        | some c => .cut q.elem (c, BitVec.ofNat 64 (w.byteAt q.pos)) s
        | none => match s.linesOpen bay h.rd.k true [(r.line, r.key)] with
          | some s' => .waits p s'
          | none => (write s).writeLines h ws qs streams ls p1
    | _, _ => s.writeLines h ws qs streams ls p1

/-- A job whose writes are made: the flags of the first `n` elements it has converted (R187, R338), and what has stopped it. -/
def State.jobEnds (s : State) (j : Job) (es : List (PElem × Flags × Nat)) (n : Nat) (stop : Option JobStop) : JobEnd :=
  let made := es.take n
  let add : FlagAdd := { rod := j.rod, flags := made.foldl (fun f q => f ||| q.2.1) 0, clamps := (made.map (·.2.2)).sum }
  let s1 := s.modUnit j.frame j.unit (fun u => u.mergeFlags add)
  if stop.any (fun q => q.1 == 0x3F0) then .poisoned s1 else .done stop s1

/-- A job's writes (R334, R335, R338): as many elements to each window as R338 lets it, the flags of the elements whose writes are made
(R187), and a poisoned index last. -/
def State.writeJob (s : State) (j : Job) (h : JobHand) (p : JobProg) : JobEnd :=
  let (w, es) := j.elems p
  let dsts := (List.range j.writes.length).map (fun i => (p.fails.find? (fun f => f.1 == i)).map (·.2))
  let (counts, stop) := streamLimits es.length p.stop dsts
  let qs := byElement (j.pieces p w counts)
  let streams := counts.map (fun n => (streamBytes w ((es.take n).map (·.1)), n * w % 8))
  let most := counts.foldl min es.length
  match s.writeLines h j.writes qs streams ((pieceLines j.writes qs).drop p.written) p with
  | .waits p' s' => .waits p' s'
  | .all s1 => s1.jobEnds j es most stop
  | .cut e st s1 => s1.jobEnds j es (min e most) (some st)

/-- The reading stages of a job: the index list, then the source (R334, R335). -/
def State.readJob (s : State) (j : Job) (h : JobHand) (p : JobProg) : JobTurn :=
  match p.stage with
  | .index =>
    (match j.kind, j.reads with
      | .gather _, idx :: _ => s.readIndex h idx p
      | .scatter _, [_, idx] => s.readIndex h idx p
      | _, _ => .on { p with stage := .source } s)
  | .source =>
    (match j.kind, j.reads, j.writes with
      | .gather e, [_, table], _ =>
        s.readElems h table (2 ^ e) (table.bytes / 2 ^ e) (fun _ i => i * 2 ^ e) (p.idx.length + 1) p
      | .scatter e, [src, _], [table] =>
        s.readElems h src (2 ^ e) (table.bytes / 2 ^ e) (fun n _ => n * 2 ^ e) (p.idx.length + 1) p
      | _, src :: _, _ => s.readSource h src p
      | _, [], _ => .on { p with stage := .judge } s)
  | _ => .on p s

/-- The stage that judges a job's writes. -/
def State.judgeJob (s : State) (j : Job) (h : JobHand) (p : JobProg) : JobTurn :=
  match p.stage with
  | .judge =>
    let (w, es) := j.elems p
    s.judgePieces h j.writes ((j.pieces p w (j.writes.map (fun _ => es.length))).drop p.judged) p
  | _ => .on p s

/-- COPY, GATHER and SCATTER from where the job stands (R334, R335, R338).
Marked: DESIGN CHOICE, not safe, log 16. -/
def State.runMove (s : State) (j : Job) : JobEnd :=
  let h := s.jobHand j
  match s.readJob j h j.prog with
  | .waits p s1 => .waits p s1
  | .on p1 s1 => match s1.readJob j h p1 with
    | .waits p s2 => .waits p s2
    | .on p2 s2 => match s2.judgeJob j h p2 with
      | .waits p s3 => .waits p s3
      | .on p3 s3 => s3.writeJob j h p3

/-! ## Drains as jobs (R319 to R321) -/

/-- One element of a drain: the value before SCALE, the encoding and what it raises; `old` is the destination's element under
.ADD. Poisoned data is zero data with a mark (R257). -/
def drainElem (d : DrainCtl) (seed : BitVec 64) (e : Nat) (v : BitVec 32 × Bool) (old : Option PElem) : PElem × Flags × Nat :=
  if v.2 || (old.map (·.2)).getD false then ((0, true), 0, 0)
  else
    let src := if d.int then Binding.int32 else Binding.fp32
    let (x, f1) := scaledExact (src.decode v.1.toNat) (if d.scale = 0 then .fin false 1 1 0 else fp32.decode d.scale.toNat)
    let (y, f2) := match old with
      | some o => x.add (RMode.ofCode d.rm) (d.fd.decode o.1)
      | none => (x, 0)
    let (r, f3) := d.fd.round d.rm d.sat (srBits seed 0 e) y
    ((r, false), f1 ||| f2 ||| f3, clampOf f3)

/-- A run of a row as it stands. -/
def State.runBytes (s : State) (fid : Nat) (pane : Bool) (q : RowRun) : List PByte :=
  if pane then ((s.frame? fid).map (fun fr => fr.paneBytes q.off q.n)).getD []
  else
    let (d, p) := s.lineNow q.key q.line
    (toBytes q.n (lineBytes d q.off q.n)).map (fun b => clean b p)

/-- The bytes of a row as they stand. -/
def State.rowBytes (s : State) (fid : Nat) (pane : Bool) (row : List RowRun) : List PByte := row.flatMap (s.runBytes fid pane)

/-- The runs of a row that lie in some lines are written. -/
def State.writeRow (s : State) (rd : Reader) (fid : Nat) (pane : Bool) (here : RowRun → Bool) : List RowRun → List PByte → State
  | [], _ => s
  | q :: qs, bs =>
    let mine := bs.take q.n
    let s1 :=
      if !here q || mine.isEmpty then s
      else if pane then s.modFrame fid (fun fr => fr.panePut q.off mine 0)
      else s.putRun rd { line := q.line, key := q.key, off := q.off, n := mine.length } (mine.map (·.1)) (mine.any (·.2))
    s1.writeRow rd fid pane here qs (bs.drop q.n)

/-- Lines of some rows. -/
def rowLines (rows : List (List RowRun)) : List Nat := sortNums (rows.flatMap (fun r => r.map (·.line)))

/-- Lines of rows with the KEYID each is reached under. -/
def keyed (rows : List (List RowRun)) (lines : List Nat) : List (Nat × Nat) :=
  lines.map (fun l => (l, ((rows.flatten.find? (fun q => q.line == l)).map (·.key)).getD 0))

/-- Which lines a drain updates together: a line alone, or those that an element spans (R320). -/
def drainGroups (w : Nat) (rows : List (List RowRun)) : List (List Nat) :=
  let join (gs : List (List Nat)) (ls : List Nat) : List (List Nat) :=
    let (hit, rest) := gs.partition (fun g => g.any (fun l => memb l ls))
    rest ++ [sortNums (hit.flatten ++ ls)]
  rows.foldl (fun gs row => match row with
    | [q, r] => if q.n * 8 % w = 0 then join (join gs [q.line]) [r.line] else join gs [q.line, r.line]
    | _ => row.foldl (fun gs q => join gs [q.line]) gs) []

/-- The part of a drain's rows that lies in some lines, row after row; every line is at hand. Elements from number `m` on are not
written (R338). -/
def State.drainRows (s : State) (rd : Reader) (j : Job) (d : DrainCtl) (vals : List (BitVec 32 × Bool)) (m : Nat) (here : RowRun → Bool) :
    Nat → List (List RowRun) → State × Flags × Nat
  | _, [] => (s, 0, 0)
  | i, row :: rows =>
    let w := d.fd.width
    let mine := row.flatMap (fun q => List.replicate q.n (here q))
    let n := min 32 (m - 32 * i)
    let olds := elemsOf w (s.rowBytes j.frame d.pane row) 32
    let res := (List.range n).map (fun k =>
      drainElem d j.seed (32 * i + k) ((vals[32 * i + k]?).getD (0, false)) (if d.add then olds[k]? else none))
    let bytes := (streamBytes w (res.map (·.1) ++ olds.drop n)).take ((n * w + 7) / 8)
    let s1 := s.writeRow rd j.frame d.pane here row bytes
    let (s2, fl, c) := s1.drainRows rd j d vals m here (i + 1) rows
    let counted := res.zipIdx.filter (fun q => (mine[q.2 * w / 8]?).getD false)
    (s2, counted.foldl (fun f q => f ||| q.1.2.1) fl, c + (counted.map (·.1.2.2)).sum)

/-- The destinations of a producer that become full when it completes: a vector or predicate register that the other logical rod's
share of the same word still has to fill stays empty (R165). -/
def State.freedDests (s : State) (n : Nat) (p : Producer) : List (OpClass × Nat) :=
  p.dests.filter (fun d => d.1 == .scl || !s.producers.any (fun q => q.1 != n && q.2.frame == p.frame && q.2.unit == p.unit &&
    q.2.dests.any (fun e => e.1 == d.1 && e.2 == d.2)))

/-- A producer filled by another step completes (R165). -/
def State.fillProducer (s : State) (n : Nat) (eff : Effect) : State :=
  match SMap.find s.producers n with
  | none => s
  | some p => { s.modUnit p.frame p.unit (fun u => u.completeProducer { p with dests := s.freedDests n p } eff) with
      producers := s.producers.drop n }

/-- The capture of a drain (R226, R321). -/
def drainCapture (u : RodUnit) (rod reg : Nat) (d : DrainCtl) (vals : List (BitVec 32 × Bool)) : Effect :=
  let src := if d.int then Binding.int32 else Binding.fp32
  match largestMag (vals.map (fun v => src.decode v.1.toNat)) with
  | some m =>
    { writes := [.scl rod reg (captureInto ((u.rod rod).scl reg) m) ((u.rod rod).sclPoisoned reg || vals.any (·.2))], flags := [] }
  | none => Effect.none

/-- The causes returned to a bay for some lines that it reads or writes, and the address.
Marked: DEDUCED, not safe, log 55. -/
def State.rowsDenied (s : State) (bay : Nat) (write : Bool) (rows : List (List RowRun)) : Option JobStop :=
  rows.flatten.findSome? (fun q => (s.deniedTo q.line bay q.key write).map (fun c => (c, q.va)))

/-- The stage that judges a drain's runs in order, a list of (first element, run): lines of other packages come under this one's
ownership meanwhile, and a refusal ends the drain at its element (R338). -/
def State.judgeRuns (s : State) (h : JobHand) : List (Nat × RowRun) → JobProg → JobTurn
  | [], p => .on { p with stage := .write } s
  | (e, q) :: qs, p =>
    match s.deniedTo q.line h.rd.who.bay q.key true with
    | some c => .on { p with stage := .write, stop := some (c, q.va), fails := [(0, e, c, q.va)] } s
    | none => match (if q.line < 2 ^ 43 then none else s.linesOpen h.rd.who.bay h.rd.k true [(q.line, q.key)]) with
      | some s' => .waits p s'
      | none => s.judgeRuns h qs { p with judged := p.judged + 1 }

/-- The runs of a drain's rows, each with the first element it holds. -/
def drainRuns (w : Nat) (rows : List (List RowRun)) : List (Nat × RowRun) :=
  rows.zipIdx.flatMap (fun r => (r.1.foldl (fun (acc : List (Nat × RowRun) × Nat) q =>
    (acc.1 ++ [(32 * r.2 + 8 * acc.2 / w, q)], acc.2 + q.n)) ([], 0)).1)

/-- The bytes that a drain has written: in the first `k` groups of lines, those before element `m`. -/
def drainBytes (w m k : Nat) (rows : List (List RowRun)) : Nat :=
  let lines := ((drainGroups w rows).take k).flatten
  ((drainRuns w rows).map (fun q => if memb q.2.line lines then min q.2.n ((m - q.1) * w / 8) else 0)).sum

/-- The stage that writes a drain's lines, one group after the other (R320); the bytes count for the bay (R422). -/
def State.writeGroups (s : State) (h : JobHand) (j : Job) (d : DrainCtl) (vals : List (BitVec 32 × Bool)) (m : Nat) :
    List (List Nat) → JobProg → JobEnd × JobProg
  | [], p => (.done p.stop s, p)
  | g :: gs, p =>
    match g.findSome? (fun l => s.rowsDenied h.rd.who.bay true [(d.rows.flatten.filter (fun q => q.line == l)).take 1]) with
    | some stop => (.done (some stop) s, p)
    | none => match s.linesOpen h.rd.who.bay h.rd.k true (keyed d.rows g) with
      | some s' => (.waits p s', p)
      | none =>
        let (s1, fl, n) := s.drainRows h.rd j d vals m (fun q => memb q.line g) 0 d.rows
        let bytes := drainBytes d.fd.width m (p.written + 1) d.rows - drainBytes d.fd.width m p.written d.rows
        (s1.count h.rd.who.bay 12 (if h.rd.who.bay < 12 then bytes else 0)).writeGroups h j d vals m gs
          { p with written := p.written + 1, flags := p.flags ||| fl, clamps := p.clamps + n }

/-- A drain whose writes are made: its flags and its capture (R226, R321). -/
def State.drainEnds (s : State) (j : Job) (d : DrainCtl) (vals : List (BitVec 32 × Bool)) (p : JobProg) : State :=
  let s1 := s.modUnit j.frame j.unit (fun u => u.mergeFlags { rod := j.rod, flags := p.flags, clamps := p.clamps })
  match d.capture, s1.unit? j.frame j.unit with
  | some (n, reg), some u => s1.fillProducer n (drainCapture u j.rod reg d vals)
  | _, _ => s1

/-- The writes of a DRAIN (R319, R320): in the pane all at once. -/
def State.runDrain (s : State) (j : Job) (d : DrainCtl) (vals : List (BitVec 32 × Bool)) : JobEnd :=
  let h := s.jobHand j
  if d.pane then
    let (s1, fl, n) := s.drainRows h.rd j d vals 1024 (fun _ => true) 0 d.rows
    .done none ((s1.count h.rd.who.bay 12 (if h.rd.who.bay < 12 then 128 * d.fd.width else 0)).drainEnds j d vals { flags := fl, clamps := n })
  else
    match (if j.prog.stage = .write then .on j.prog s else s.judgeRuns h ((drainRuns d.fd.width d.rows).drop j.prog.judged) j.prog) with
    | .waits p s' => .waits p s'
    | .on p s1 =>
      let m := ((p.fails.head?).map (·.2.1)).getD 1024
      match s1.writeGroups h j d vals m ((drainGroups d.fd.width d.rows).drop p.written) p with
      | (.done stop s2, p2) => .done stop (s2.drainEnds j d vals p2)
      | (e, _) => e

/-! ## The events (R329, R334 to R338, R340) -/

/-- A job's effect from where it stands (R334, R335).
Marked: DESIGN CHOICE, not safe, log 16. -/
def State.runJob (s : State) (j : Job) : JobEnd :=
  match j.kind with
  | .drain d vals => s.runDrain j d vals
  | .matrix => .done none s
  | _ => s.runMove j

/-- A job's effect is complete: it goes on to its arrival, or leaves its place (R326). -/
def State.jobDone (s : State) (id : Nat) (j : Job) : State :=
  if j.latch.isSome then { s with jobs := s.jobs.put id { j with finished := true } } else { s with jobs := s.jobs.drop id }

/-- JOB_START (R329). -/
def execJobStart (job : Nat) (s : State) : Out :=
  match SMap.find s.jobs job with
  | none => .next s
  | some j =>
    .next (if j.kind ≠ .matrix ∧ s.jobFree job j then { s with jobs := s.jobs.put job { j with started := true } } else s)

/-- JOB_COMPLETE (R334, R335, R338).
Marked: DESIGN CHOICE, not safe, log 16. -/
def execJobComplete (job : Nat) (s : State) : Out :=
  match SMap.find s.jobs job with
  | none => .next s
  | some j =>
    if !j.started || j.finished || j.kind == .matrix then .next s
    else match s.runJob j with
      | .waits p s' => .next { s' with jobs := s'.jobs.put job { j with prog := p } }
      | .poisoned s' => .next ({ s' with jobs := s'.jobs.drop job }.terminate j.frame 0x3F0)
      | .done stop s' =>
        let s1 := match stop with
          | some (c, v) => s'.jobFaults j.frame j.unit j.rod c j.pc v
          | none => s'
        .next (s1.jobDone job j)

/-- Sectors of an arrival (R337). -/
def Job.sectors (j : Job) : Nat :=
  match j.kind with
  | .matrix => 0
  | _ => (j.writes.map (fun w => (w.rows * w.len + 31) / 32)).sum

/-- What an arrival comes to. -/
inductive Arrived where
  | made (s : State)
  | refused

/-- One arrival on a latch (R337, R343): a corrupt latch gives a pending job fault, a poisoned one ends the frame. -/
def State.arriveOn (s : State) (fid : Nat) (a : Arrival) : Arrived :=
  match s.frame? fid with
  | none => .made s
  | some fr =>
    if fr.panePoisoned a.latch 16 then .made (s.terminate fid 0x3F0)
    else match (fr.latchAt a.latch).update 1 a.sectors with
      | .corrupt => .made (s.jobFaults fid a.unit a.rod 0x395 a.widx 0)
      | .refused => .refused
      | .accepted x => .made (s.putFrame fid (fr.putLatch a.latch x))

/-- The arrivals that a frame kept over a save are tried again (R340).
Marked: DEDUCED, not safe, log 83. -/
def State.retryArrivals (s : State) (fid : Nat) : State :=
  match s.frame? fid with
  | none => s
  | some fr =>
    let (s1, left) := fr.arrivals.foldl (fun (q : State × List Arrival) a =>
      match q.1.arriveOn fid a with
      | .made s' => (s', q.2)
      | .refused => (q.1, q.2 ++ [a])) (s, [])
    s1.modFrame fid (fun fr => { fr with arrivals := left })

/-- LATCH_ARRIVAL (R337): of a finished job, or of an arrival kept over a save, named by its frame (R340). -/
def execLatchArrival (job : Nat) (s : State) : Out :=
  match SMap.find s.jobs job with
  | some j =>
    match j.finished, j.latch with
    | true, some l =>
      (match s.arriveOn j.frame { latch := l, sectors := j.sectors, unit := j.unit, rod := j.rod, widx := j.pc } with
        | .made s' => .next { s' with jobs := s'.jobs.drop job }
        | .refused => .next s)
    | _, _ => .next s
  | none => .next (s.retryArrivals job)

end Sys2Proof.Machine
end

