-- ==== Sys2Proof/Machine/Home.lean ====
section
/-! DEFINITION. Steps of the memory system and of the clocks that no word causes: completion of producers, accesses at the home
slice, tickets, RCLK and the reuse clocks, claims, epochs and throttling (R165, R252, R255, R259, R260, R265, R269, R284). -/

namespace Sys2Proof.Machine

/-! ## Producers (R165) -/

/-- What a ready producer writes: the values of its memory word once all of it is performed, or the effect kept since issue. -/
def State.producerEffect (s : State) (id : Nat) (p : Producer) (width : Nat) : Option Effect :=
  if !p.ready then none
  else match SMap.find s.ops id with
    | some o => if o.unperformed then none else some (if o.kind = .latch then o.latchEffect p width else o.effect width)
    | none => some p.effect

/-- LONG_LATENCY_COMPLETE (R165).
Marked: DESIGN CHOICE, not safe, log 13. -/
def execLongLatencyComplete (producer : Nat) (s : State) : Out :=
  match SMap.find s.producers producer with
  | none => .next s
  | some p =>
    match s.frame? p.frame with
    | none => .next s
    | some fr =>
      match s.producerEffect producer p fr.width with
      | none => .next s
      | some eff => .next { s.fillProducer producer eff with ops := s.ops.drop producer }

/-! ## Accesses at the home slice (R252) -/

/-- HOME_READ (R252): a piece of a word that reads reaches its slice. -/
def execHomeRead (op piece : Nat) (s : State) : Out := .next (s.homeAccess false op piece)

/-- HOME_WRITE (R252): a piece of a store or an atomic reaches its slice. -/
def execHomeWrite (op piece : Nat) (s : State) : Out := .next (s.homeAccess true op piece)

/-- The first word that waits for a line of this package, with its number and the KEYID of its access. -/
def State.refillFor (s : State) (line : Nat) : Option (Nat × MemOp × Nat) :=
  s.ops.findSome? (fun p => (p.2.acc.find? (fun a => !a.done && !a.pane && s.accLine a == line)).map (fun a => (p.1, p.2, a.key)))

/-- Lines that a bay has asked for: by its memory words, its instruction fetches and its tile fetches, and by requests on its link
channels (R97).
Marked: DEDUCED, safe, log 90. -/
def State.linesAsked (s : State) (b : Nat) : List Nat :=
  s.ops.flatMap (fun p => if p.2.bay = b then (p.2.acc.filter (fun a => !a.done && !a.pane)).map s.accLine else []) ++
  (s.cache.fetching.filter (fun p => p.2.1 == b)).map (fun p => p.1 % 2 ^ 52) ++
  s.holds.flatMap (fun p => if (s.frame? p.2.frame).any (fun fr => fr.bay == b) then p.2.waiting else []) ++
  (s.cache.held.filter (fun r => s.bayOfChannel r.ch == some b)).map (·.line)

/-- The queue of a bay at the controller of a line's pseudo-channel: the lines there that it has asked for and no slice holds (R255). A
walk, a job and a copy ask for one line at a time, in the step that brings it.
Marked: DEDUCED, safe, log 90. -/
def State.controllerQueue (s : State) (b line : Nat) : Nat :=
  (((s.linesAsked b).filter (fun l => decide (l < 2 ^ 43) && (s.l2? l).isNone && channelOf l == channelOf line)).foldl
    (fun ls l => insertNum l ls) []).length

/-- Congestion marks on the cores of a bay whose queue at the controller of a line holds more than 48 requests (R255, R422). Each raises
TL to at most 3, at most once per µs: at once where TL is 0, otherwise where `later` tells that a µs has gone by.
Marked: DEDUCED, safe, log 90. -/
def State.congest (s : State) (b line : Nat) (later : Bool) : State :=
  if b < 12 ∧ 48 < s.controllerQueue b line then
    (s.modChip (fun c => { c with throttle := (s.bayCores b).foldl (fun t core =>
      let tl := SMap.get 0 t core
      if tl = 0 ∨ later then SMap.set 0 t core (min 3 (tl + 1)) else t) c.throttle })).count b 10 1
  else s

/-- An error in the sill that is read with a line (R364, R375).
Marked: DEDUCED, safe, log 90. -/
def State.flipSill (s : State) (line : Nat) (bits : BitVec 32) : State := s.setSill line (s.sill line ^^^ bits)

/-- The HBM line whose sill is read with a line that enters: its own, or a way of its set while HBM caches the tier (R372). -/
def State.sillLine (s : State) (line : Nat) : Nat :=
  if s.cached line then (s.tierHit line).getD (((s.setLines (s.tierPlace line).1).head?).getD 0) else line

/-- HOME_REFILL (R252): an absent line of this package that a word waits for enters its home slice. Where its sill asks for something
first, the word's own kind of access asks, once the word may be performed (R366). The controller that serves it marks the bay's cores
where its queue of the bay exceeds 48 requests; `congested` tells that the last mark lies a µs back (R255). The fill counts with the
word (R422, R423).
Marked: DEDUCED, safe, log 90. -/
def execHomeRefill (line : Nat) (congested sillError : Bool) (s : State) : Out :=
  match s.refillFor line with
  | none => .next s
  | some (id, o, key) =>
    if decide (2 ^ 43 ≤ line) || (s.l2? line).isSome then .next s
    else
      let s2 := if sillError then s.flipSill (s.sillLine line) 1 else s
      match s2.openLine line o.writes with
      | some s3 => .next (if s2.mayPerform id o then s3 else s2)
      | none => .next (match (s2.congest o.bay line congested).refill key line o.bay with
        | some s3 => { s3 with ops := s3.ops.modify id (fun o => if o.bay < 12 then (o.note 5 1).note 6 128 else o) }
        | none => s2)

/-! ## Tickets (R284, R368) -/

/-- An earlier SC word of the unit holds back the next ticket: it has none yet, or it is a write that is not performed at its scope
(R284, R299).
Marked: DESIGN CHOICE, not safe, log 17. -/
def State.ticketBefore (s : State) (fid ui id : Nat) : Bool :=
  s.ops.any (fun p => decide (p.1 < id) && p.2.frame == fid && p.2.unit == ui && p.2.order == 4 &&
    (p.2.ticket.isNone || p.2.writes && p.2.undone)) ||
  s.fences.any (fun p => decide (p.1 < id) && p.2.frame == fid && p.2.unit == ui && p.2.order == 4 && p.2.ticket.isNone) ||
  s.sysPending

/-- The next ticket of a scope: of the package's sequencer, or, for SYS, of that of package SEQPKG, which serves the words of other
packages between (R284, R368).
Marked: DESIGN CHOICE, safe, log 96. -/
def State.nextTicket (s : State) (scope : Nat) : Nat × State :=
  if scope = 3 then
    let (n, s1) := s.takeFree
    let t := s1.chip.sysTickets + Config.ticketGap n
    (t, s1.modChip (fun c => { c with sysTickets := t + 1 }))
  else (s.chip.devTickets, s.modChip (fun c => { c with devTickets := c.devTickets + 1 }))

/-- TICKET_GRANT (R284): a thread's SC words take their tickets in program order, and an SC FENCE takes its own, one for all its logical
rods, once what stands before it is performed (R287, R298).
Marked: DESIGN CHOICE, not safe, log 17. -/
def execTicketGrant (op : Nat) (s : State) : Out :=
  match SMap.find s.ops op, SMap.find s.fences op with
  | some o, _ =>
    if o.order != 4 || o.ticket.isSome || s.ticketBefore o.frame o.unit op then .next s
    else .next { (s.nextTicket o.scope).2 with ops := s.ops.put op { o with ticket := some (s.nextTicket o.scope).1 } }
  | none, some f =>
    let mine (p : Nat × FenceRec) : Bool := p.2.word == f.word
    if f.order != 4 || f.ticket.isSome || s.ticketBefore f.frame f.unit f.word ||
       (s.fences.filter mine).any (fun p => !s.earlierDone p.2.frame p.2.unit p.1 p.2.scope p.2.lanes) then .next s
    else .next { (s.nextTicket f.scope).2 with
      fences := s.fences.map (fun p => if mine p then (p.1, { p.2 with ticket := some (s.nextTicket f.scope).1 }) else p) }
  | none, none => .next s

/-! ## Clocks (R259, R260) -/

/-- RESCYC for a tick of a frame: the cores on which it is the first resident frame of its bay (R422).
Marked: DESIGN CHOICE, not safe, log 15. -/
def State.residentCores (s : State) (frame : Nat) (fr : Frame) : Nat :=
  (fr.cores.filter (fun core =>
    !s.frames.any (fun q => decide (q.1 < frame) && q.2.bay == fr.bay && !q.2.exited && memb core q.2.cores))).length

/-- RCLK_TICK (R259): counting stops while every unit of the frame is stopped, one of them at least for a save; RESCYC counts on until
the save (R423).
Marked: DESIGN CHOICE, not safe, log 15. -/
def execRclkTick (frame : Nat) (s : State) : Out :=
  match s.frame? frame with
  | none => .next s
  | some fr =>
    if fr.exited then .next s
    else
      let rclk := if fr.units.all (·.stopped) && fr.units.any (·.halted) then fr.rclk else fr.rclk + 1
      .next ((s.putFrame frame { fr with rclk := rclk }).count fr.bay 0 (1024 * s.residentCores frame fr))

/-- The lines that follow a bay's clock (R260). -/
def State.linesOf (s : State) (b : Nat) : List Nat := (s.cache.lines.filter (fun p => p.2.bay == b)).map (·.1)

/-- Every tick row due at the present value is applied before the clock moves on (R265). -/
def State.tickAll (s : State) (b : Nat) : State := (s.linesOf b).foldl (fun s line => s.tickLine line) s

/-- A bay's clock runs: RESERVED, and fixed or in its turn, from the boundary on at which the turn begins (R103, R260). -/
def State.clockRuns (s : State) (b : Nat) : Bool := (s.bay b).state == .reserved && s.hasTurn b

/-- BRC_TICK (R260): the clock advances by 1, modulo 4096; an epoch ends at each multiple of 1024 (R269). -/
def execBrcTick (bay : Nat) (s : State) : Out :=
  if bay = 12 then
    .next ((s.tickAll 12).modChip (fun c => { c with brcS := (c.brcS + 1) % 4096 }))
  else if bay < 12 ∧ s.clockRuns bay then
    .next (((s.tickAll bay).settleEpoch bay).modBay bay (fun y =>
      let v := (y.brc + 1) % 4096
      { y with brc := v, credUsed := y.cred, epochDue := v % 1024 == 0 }))
  else .next s

/-- LINE_CLAIM_DUE (R265). -/
def execLineClaimDue (line : Nat) (s : State) : Out :=
  match s.l2? line with
  | some l => .next (if l.cls = .timed then s.tickLine line else s)
  | none => .next s

/-- LINE_CLAIM_LAPSE (R265). -/
def execLineClaimLapse (line : Nat) (s : State) : Out :=
  match s.l2? line with
  | some l => .next (if l.cls = .due then s.tickLine line else s)
  | none => .next s

/-- CRED_EPOCH_END (R269). -/
def execCredEpochEnd (bay : Nat) (s : State) : Out := .next (if bay < 12 then s.settleEpoch bay else s)

/-- THROTTLE_DECAY (R255). -/
def execThrottleDecay (core : Nat) (s : State) : Out :=
  .next (s.modChip (fun c => { c with throttle := SMap.set 0 c.throttle core (SMap.get 0 c.throttle core - 1) }))

/-- L1_COPY_DROP (R252): a core's L1 may drop a copy at any time. `line` is a line key. -/
def execL1CopyDrop (core line : Nat) (s : State) : Out := .next (s.l1Drop core line)

end Sys2Proof.Machine
end

