-- ==== Sys2Proof/Machine/Remote.lean ====
section
/-! DEFINITION. Messages that arrive from other packages, failed paths, and the domain control register (R357, R358, R360, R362,
R366, R367, R370, R382). -/

namespace Sys2Proof.Machine

/-- Another package of the domain. -/
def State.otherPkg (s : State) (pkg : Nat) : Bool := pkg != s.pkgNum && decide (pkg < 256)

/-- A LOCAL line number. -/
def isLocalLine (line : Nat) : Bool := decide (line < 2 ^ 37)

/-- What a message about a line does, where it can come from that package at all. -/
def State.fromPkg (s : State) (pkg line : Nat) (g : State → State) : State :=
  if s.otherPkg pkg && isLocalLine line then g s else s

/-- REMOTE_READ_REQUEST (R366). -/
def execRemoteReadRequest (pkg line req key k ch : Nat) (cts : ReqStamp) (s : State) : Out :=
  .next (s.fromPkg pkg line (·.request
    { own := false, pkg := pkg, line := line, req := req, key := key, k := k, ch := ch, cts := cts.cts, ticket := cts.ticket }))

/-- OWNERSHIP_REQUEST (R366). -/
def execOwnershipRequest (pkg line req key k ch : Nat) (cts : ReqStamp) (s : State) : Out :=
  .next (s.fromPkg pkg line (·.request
    { own := true, pkg := pkg, line := line, req := req, key := key, k := k, ch := ch, cts := cts.cts, ticket := cts.ticket }))

/-- FORWARD (R362). -/
def execForward (home line requester : Nat) (keep : Bool) (ch : Nat) (s : State) : Out :=
  .next (s.fromPkg home line (·.forwarded home line requester keep ch))

/-- RECALL (R362). -/
def execRecall (home line : Nat) (keep : Bool) (ch : Nat) (s : State) : Out :=
  .next (s.fromPkg home line (·.recalled home line keep ch))

/-- INVALIDATION (R362). -/
def execInvalidation (home line ch : Nat) (s : State) : Out := .next (s.fromPkg home line (·.invalidated home line ch))

/-- INVALIDATION_ACK (R366). -/
def execInvalidationAck (pkg line : Nat) (dirty : Option (BitVec 1024 × Bool)) (s : State) : Out :=
  .next (s.fromPkg pkg line (·.ackTxn pkg line dirty))

/-- WRITE_BACK (R366, R367). -/
def execWriteBack (pkg line : Nat) (dirty : Option (BitVec 1024 × Bool)) (s : State) : Out :=
  .next (s.fromPkg pkg line (·.ownerReturns pkg line dirty))

/-! ## Answers to this package's requests (R360) -/

/-- A word that writes has performed some of its writes, or a unit has read its data from L1 (R294, R297).
Marked: DESIGN CHOICE, not safe, log 110. -/
def State.begun (s : State) (id : Nat) (o : MemOp) : Bool :=
  o.writes && (o.acc.any (·.done) || s.frames.any (fun p => p.2.units.any (fun u => memb id u.observed)))

/-- A word whose access another package refused, or that no path can carry (R360, R370, R382): no lane takes effect, its
destination is full with its old contents from now on (R165), and its unit takes the fault at its next selected word. Of a prefetch the
lane whose line fails is dropped without a trap (R280). A word that writes and has begun, or whose data another rod has read from L1, is
not given up: its other lanes go on, since no value may come from no write (R292).
Marked: DESIGN CHOICE, not safe, log 110. -/
def State.opFails (s : State) (id line cause : Nat) : State :=
  match SMap.find s.ops id with
  | none => s
  | some o =>
    if o.kind = .fetch then s.putAcc id o (o.acc.map (fun a => if s.accLine a = line then { a with done := true } else a))
    else if s.begun id o then s
    else
    let a := o.acc.find? (fun a => !a.pane && s.accLine a == line)
    let t : TrapInfo :=
      { cause := cause, imp := true, lane := a.map (·.lane), taddr := (a.map (·.va)).getD 0, widx := some o.pc }
    s.failOp id o t

/-- A failure is kept for the accesses of a bay that no memory word makes, until one of them reports it (R360, R370). -/
def State.deny (s : State) (line bay key : Nat) (write : Bool) (cause : Nat) : State :=
  s.modCache (fun c => { c with denied := c.denied ++ [{ line := line, bay := bay, key := key, write := write, cause := cause }] })

/-- A request fails with a cause: the word that made it, or, for a request of no word, the access of the bay that it was made for. -/
def State.askFails (s : State) (line : Nat) (a : Ask) (cause : Nat) : State :=
  let s1 := s.modCache (fun c => { c with asks := c.asks.drop line })
  if a.op = 0 ∧ a.piece = line then s1.deny line a.bay a.key a.own cause else s1.opFails a.op line cause

/-- The permission a home grants: 0 S, 1 E, 2 O, 3 M. -/
def permOf (n : Nat) : GuestPerm :=
  match n with
  | 0 => .s
  | 1 => .e
  | 2 => .o
  | _ => .m

/-- A line arrives at its guest slice for a bay and a KEYID, or its permission does where the line is there (R360, R362), past every
lease granted here (R296, R368); none while every candidate way is pinned, on which a tile fetch does not wait (R267). A line that another
bay or KEYID has brought leaves first.
Marked: DEDUCED, not safe, log 72; DEDUCED, safe, log 73. -/
def State.guestFill (s : State) (line bay key : Nat) (perm : GuestPerm) (fetch : Bool) (bytes : BitVec 1024) (poison : Bool)
    (wts rts : Nat) : Option State :=
  match (match s.l2? line with
    | some l =>
      if l.bay = bay ∧ l.key = key then some s else (s.evict line).enter line bay key (some perm) fetch (fun _ => (bytes, poison))
    | none => s.enter line bay key (some perm) fetch (fun _ => (bytes, poison))) with
  | none => none
  | some s1 =>
    match s1.l2? line with
    | none => none
    | some l =>
      let w := max (max l.wts wts) (s1.leaseMost + 1)
      some ((s1.putLine line { l with guest := some perm, bay := bay, key := key, wts := w, rts := max (max l.rts w) rts }).raiseClk l.slice w)

/-- The number by which the acknowledgement of a write-back names its line, apart from every request's. -/
def backNumber (line : Nat) : Nat := 2 ^ 52 + line

/-- REMOTE_RESPONSE (R360, R362): the answer to a request of this package, or the acknowledgement of a write-back. -/
def execRemoteResponse (op piece cause perm : Nat) (bytes : BitVec 1024) (poison : Bool) (wts rts : Nat) (s : State) : Out :=
  if 2 ^ 52 ≤ piece then .next (s.modCache (fun c => { c with keptBacks := c.keptBacks.drop (piece - 2 ^ 52) }))
  else match s.cache.asks.find? (fun p => p.2.op == op && p.2.piece == piece) with
  | some (line, a) =>
    if cause ≠ 0 then .next (s.askFails line a cause)
    else .next (match s.guestFill line a.bay a.key (permOf perm) a.fetch bytes poison wts rts with
      | some s1 => s1.modCache (fun c => { c with asks := c.asks.drop line })
      | none => s)
  | none => .next s

/-! ## Failed paths (R370) -/

/-- Accesses of this package that wait at a line fault with a cause: its memory words, and what its bays do outside them.
Marked: DEDUCED, safe, log 93. -/
def State.waitersFail (s : State) (line cause : Nat) (askers : List (Option Nat)) : State :=
  askers.foldl (fun s w => match w with
    | none => (s.ops.filter (fun p => p.2.acc.any (fun a => !a.done && !a.pane && s.accLine a == line))).foldl
        (fun s p => s.opFails p.1 line cause) s
    | some b => (s.deny line b (s.granuleKey line) false cause).deny line b (s.granuleKey line) true cause) s

/-- A transaction that waits for a package that cannot be reached (R370): the accesses that wait in it fault with 0x28B, those of this
package and the one of another package that opened it; an owner that is lost is found so at the next access. Where only a sharer is lost,
its copy counts as invalidated, and a requester whose data the owner sends it is served.
Marked: DEDUCED, safe, log 93. -/
def State.txnLoses (s : State) (pkg line : Nat) (t : HomeTxn) : State :=
  let owner := sillOwner (s.sill line) == pkg && decide (2 ≤ sillSt (s.sill line))
  let closed := (s.modCache (fun c => { c with txns := c.txns.drop line })).dropTransient line
  if !memb pkg t.waits then s
  else match t.kind with
    | .homeRead => (closed.waitersFail line 0x28B t.askers).takeBacks line
    | .homeWrite =>
      if owner then (closed.waitersFail line 0x28B t.askers).takeBacks line
      else ((s.putTxn line { t with askers := [] }).waitersFail line 0x28B t.askers).ackTxn pkg line none
    | .remoteRead r => (closed.send (.failure r.pkg line r.req r.ch 0x28B)).takeBacks line
    | .remoteOwn r =>
      if owner || sillSt (s.sill line) == 1 then (closed.send (.failure r.pkg line r.req r.ch 0x28B)).takeBacks line
      else s.ackTxn pkg line none
    | _ => s.ackTxn pkg line none

/-- PATH_FAILURE (R370).
Marked: DEDUCED, safe, log 93. -/
def execPathFailure (pkg : Nat) (s : State) : Out :=
  if !s.otherPkg pkg then .next s
  else
    let s1 := s.modCache (fun c => { c with failedPaths := insertNum pkg c.failedPaths, routes := removeNum pkg c.routes })
    let s2 := s1.record 0xF 0x3FD (BitVec.ofNat 64 pkg)
    let waiting := s2.cache.asks.filter (fun p => (guestHome p.1).1 == pkg)
    let s3 := waiting.foldl (fun s p => s.askFails p.1 p.2 0x28B) s2
    .next (s3.cache.txns.foldl (fun s p => s.txnLoses pkg p.1 p.2) s3)

/-! ## The domain control register (R357, R358) -/

/-- The result of a write of DOMCTL, by its ERR (R357, R358, R372).
Marked: DEDUCED, not safe, log 71. -/
def State.domErr (s : State) (v : BitVec 64) : Nat :=
  let wants := v.getLsbD 32
  if s.chip.dom.busy then 4
  else if (s.bays.take 12).any (fun b => b.state != .free) then 1
  else if wants && tierSize == 0 then 3
  else if wants && decide (63 < (tierSize / 128 - 1) / s.tierSets) then 2
  else 0

/-- HBM in service is written with zero data under key 0, with every sill in its reset form (R28, R358).
Marked: DEDUCED, not safe, log 6. -/
def State.scrubHbm (s : State) : State :=
  s.modMem (fun m => { m with
    cells := m.cells.filter (fun p => decide (hbmBytes ≤ p.1))
    poison := m.poison.filter (fun l => decide (hbmBytes / 128 ≤ l))
    tags := m.tags.filter (fun p => decide (hbmBytes / 128 ≤ p.1))
    scrubGen := SMap.get 0 s.chip.keyGen 0
    sills := [] })

/-- The tier line that a valid way of the cache holds (R372). -/
def State.wayLine (s : State) (h : Nat) : Nat :=
  tierBase / 128 + wayTag (s.sill h) * s.tierSets + s.hbmNumber h / 4

/-- Every dirty way of the cache is written back to the tier (R358). -/
def State.flushTier (s : State) : State :=
  s.mem.sills.foldl (fun s p =>
    let v := s.sill p.1
    if !sillBad true v && wayV v && wayD v then s.modMem (fun m => m.moveLine p.1 (s.wayLine p.1)) else s) s

/-- Every line of this package leaves the slices, and no core keeps a copy. -/
def State.evictLocal (s : State) : State :=
  let s1 := (s.cache.lines.filter (fun p => decide (p.1 < 2 ^ 43))).foldl (fun s p => s.evict p.1) s
  s1.modCache (fun c => { c with l1 := c.l1.filter (fun p => decide (2 ^ 43 ≤ p.1 % 2 ^ 52)) })

/-- Transactions of lines end without an outcome; the requests of other packages in them are judged again, and the write-backs that waited
for them are applied. -/
def State.dropTxns (s : State) : State :=
  s.cache.backs.foldl (fun s b => s.takeBack b.pkg b.line b.dirty) <| s.modCache (fun c => { c with
    txns := []
    backs := []
    homeTurn := []
    held := c.held ++ c.txns.filterMap (fun p => match p.2.kind with
      | .remoteRead r => some r
      | .remoteOwn r => some r
      | _ => none) })

/-- The change of MODE (R358): dirty cached lines reach the tier first, then HBM is written with the sills of the new mode.
Marked: DEDUCED, not safe, log 71. -/
def State.changeMode (s : State) : State :=
  let s1 := s.evictLocal.dropTxns
  let s2 := if s1.chip.dom.mode then s1.flushTier else s1
  (s2.scrubHbm.modCache (fun c => { c with quarantine := [] })).modChip (fun c =>
    { c with dom := { c.dom with busy := true, mode := !c.dom.mode } })

/-- DOMCTL_WRITE (R357, R358): the fields hold what was written from the write on.
Marked: DEDUCED, not safe, log 71. -/
def execDomctlWrite (v : BitVec 64) (s : State) : Out :=
  if !s.barOpen then .next s
  else
    let e := s.domErr v
    if e ≠ 0 then .next (s.modChip (fun c => { c with dom := { c.dom with err := BitVec.ofNat 4 e } }))
    else
      let s1 := if v.getLsbD 32 = s.chip.dom.mode then s else s.changeMode
      .next (s1.modChip (fun c => { c with dom := { c.dom with
        err := 0, seqpkg := v.extractLsb' 16 8, pkgnum := v.extractLsb' 0 8 } }))

/-- MODE_CHANGE_COMPLETE (R358): BUSY clears. -/
def execModeChangeComplete (s : State) : Out :=
  .next (s.modChip (fun c => { c with dom := { c.dom with busy := false } }))

end Sys2Proof.Machine
end

