-- ==== Sys2Proof/Machine/Errors.lean ====
section
/-! DEFINITION. ECC errors, residue checks and column retirement as they are detected (R256, R322, R323, R391, R392). -/

namespace Sys2Proof.Machine

/-- BAY of a record: the bay concerned, or 0xF.
Marked: DEDUCED, not safe, log 75. -/
def recordBay (b : Nat) : Nat := if b < 12 then b else 0xF

/-- Poison was created (R256): the record of R391.
Marked: DEDUCED, not safe, log 75. -/
def State.recordPoison (s : State) (b : Nat) (unit : BitVec 64) : State := s.record (recordBay b) 0x3F2 unit

/-- A corrected error counts; a unit's 65,536th since its last record writes one (R256, R391). -/
def State.countCorrected (s : State) (unit : Nat) (at_ : BitVec 64) : State :=
  let n := SMap.get 0 s.chip.corrected unit + 1
  if n = 65536 then (s.modChip (fun c => { c with corrected := SMap.set 0 c.corrected unit 0 })).record 0xF 0x3F3 at_
  else s.modChip (fun c => { c with corrected := SMap.set 0 c.corrected unit n })

/-- An uncorrectable error in a stored line of HBM or the tier (R256). -/
def State.poisonStored (s : State) (line : Nat) : State :=
  if s.inHbm (line * 128) || inTier (line * 128) then
    ((s.modMem (fun m => { m with poison := insertNum line m.poison })).markPois line true).recordPoison (s.lineBay line) (BitVec.ofNat 64 (line * 128))
  else s

/-- An uncorrectable error in a line that a slice holds (R256): one that differs from memory is poisoned, another is dropped. -/
def State.poisonSlice (s : State) (line : Nat) : State :=
  match s.l2? line with
  | none => s
  | some l =>
    if l.dirty || l.guest == some .m || l.guest == some .o then
      (s.putLine line { l with poison := true }).recordPoison l.bay (if line < 2 ^ 43 then BitVec.ofNat 64 (line * 128) else 0)
    else s.evict line

/-- An uncorrectable error in a part of a resident frame (R256). -/
def State.poisonFrame (s : State) (fid : Nat) (g : Frame → Frame) : State :=
  match s.frame? fid with
  | none => s
  | some fr => (s.putFrame fid (g fr)).recordPoison fr.bay 0

/-- UNIT of the records of a matrix engine: package pair, array, column (R392). -/
def columnUnit (core array col : Nat) : BitVec 64 := BitVec.ofNat 64 (core / 2 % 128 + array % 16 * 256 + col % 64 * 65536)

/-- A column is retired (R322), and what an array that has lost columns asks for (R323). -/
def State.retireColumn (s : State) (core array col : Nat) : State :=
  let left := 34 - (SMap.get 0 s.chip.badColumns (core * 16 + array) + 1)
  let s1 := (s.modChip (fun c => { c with
    badColumns := SMap.set 0 c.badColumns (core * 16 + array) (SMap.get 0 c.badColumns (core * 16 + array) + 1)
    retireRecord := c.retireRecord ++ [.column core array col] })).record 0xF 0x3F4 (columnUnit core array col)
  let s2 := if left = 31 then s1.record 0xF 0x3F5 (columnUnit core array col) else s1
  if left = 15 then s2.record 0xF 0x3F6 (columnUnit core array col) else s2

/-- MEMORY_ERROR (R256): what kind of error, where, and, for a sill, which bits.

0 corrected, in a memory line; 13 to 16 corrected, in a line of a slice (the line), and in a pane, a board and the register files of a
core (the core); 1 uncorrectable, in a memory line; 2 uncorrectable, in a slice's line; 3 in an L1 copy (core × 2^52 +
line key); 4 in an instruction-cache copy (its key); 5 in a pane word (frame × 2^32 + word); 6 in a tile element (frame × 2^32 +
element); 7 in a vector register lane (frame × 2^40 + unit × 2^24 + register × 64 + lane); 8 in a scalar (frame × 2^40 + unit × 2^24
+ rod × 256 + register); 9 in a sill; 10 in an ownership entry; 11 a residue check that a replay passes; 12 a column that fails its
replay (core × 16 + array, `bits` the column).
Marked: DESIGN CHOICE, safe, log 74. -/
def execMemoryError (kind place : Nat) (bits : BitVec 32) (s : State) : Out :=
  let fid := place / 2 ^ 40
  let ui := place / 2 ^ 24 % 2 ^ 16
  .next (match kind with
    | 0 => s.countCorrected (channelOf place) (BitVec.ofNat 64 (place * 128))
    | 1 => s.poisonStored place
    | 2 => s.poisonSlice place
    | 3 => s.l1Drop (place / 2 ^ 52) (place % 2 ^ 52)
    | 4 => s.modCache (fun c => { c with icache := c.icache.drop place })
    | 5 => s.poisonFrame (place / 2 ^ 32) (fun fr => { fr with panePoison := insertNum (place % 2 ^ 32) fr.panePoison })
    | 6 => s.poisonFrame (place / 2 ^ 32) (fun fr => { fr with tilePoison := insertNum (place % 2 ^ 32) fr.tilePoison })
    | 7 => s.poisonFrame fid (·.modUnit ui (fun u => { u with vPoison := insertNum (place % 2 ^ 24) u.vPoison }))
    | 8 => if place % 256 = 0 then s else s.poisonFrame fid (·.modUnit ui (fun u => u.setRod (place / 256 % 2 ^ 16) (fun r =>
        { r with sPoison := insertNum (place % 256) r.sPoison })))
    | 9 => if s.inHbm (place * 128) then s.flipSill place bits else s
    | 10 => if s.inHbm place || inTier place then
        (s.modChip (fun c => { c with ownersBad := insertNum (place / 65536) c.ownersBad })).record 0xF 0x3FE
          (BitVec.ofNat 64 (place / 128 * 128))
      else s
    | 11 => s.countCorrected (2 ^ 32 + place) 0
    | 12 => if place / 16 < 256 ∧ SMap.get 0 s.chip.badColumns place < 34 then
        s.retireColumn (place / 16) (place % 16) bits.toNat else s
    | 13 => s.countCorrected (2 ^ 33 + s.sliceOf place) 0
    | 14 => s.countCorrected (2 ^ 34 + place) 0
    | 15 => s.countCorrected (2 ^ 35 + place) 0
    | 16 => s.countCorrected (2 ^ 36 + place) 0
    | _ => s)

end Sys2Proof.Machine
end

