-- ==== Sys2Proof/Machine/Boot.lean ====
section
/-! DEFINITION. Resets, bring-up, recovery and the thermal trip (R14, R18, R23, R25 to R29, R417, R431). -/

namespace Sys2Proof.Machine

/-! ## Resets (R27) -/

/-- All 64 keys are loaded afresh (R27): what stands in memory under the old ones reads as other data.
Marked: DEDUCED, not safe, log 6. -/
def State.newKeys (s : State) : SMap Nat :=
  (List.range 64).foldl (fun g k => SMap.set 0 g k (SMap.get 0 g k + 1)) s.chip.keyGen

/-- The units of the retirement record that a reset withdraws; retired columns are no such units (R18). -/
def withdrawn (us : List RetUnit) : List RetUnit :=
  us.filter (fun u => match u with
    | .column _ _ _ => false
    | _ => true)

/-- The part after a cold or package reset (R27): the fuses, the flash with its retirement record, and what stands outside the
package are kept; bring-up begins at `stage`. -/
def State.resetTo (s : State) (stage : BitVec 8) : State :=
  { State.reset with
    chip := { Chip.blank with
      boot := { Chip.blank.boot with stage := stage }
      flash := s.chip.flash
      retireRecord := s.chip.retireRecord
      retired := withdrawn s.chip.retireRecord
      badColumns := s.chip.badColumns
      keyGen := s.newKeys
      out := s.chip.out }
    mem := s.mem
    host := s.host
    agenda := s.agenda
    round := s.round
    now := s.now
    nextId := s.nextId
    free := s.free }

/-- COLD_RESET (R27). -/
def execColdReset (s : State) : Out := .next (s.resetTo 0)

/-- PACKAGE_RESET (R27): a halted part stays as it is (R23, R29). -/
def execPackageReset (s : State) : Out := .next (if s.chip.boot.halt then s else s.resetTo 1)

/-- VF_RESET (R417): a function that is bound to no bay, or not enabled (R26), changes none. FREEZE is cleared, and the events held are added (R421, R424). -/
def execVfReset (fn : Nat) (s : State) : Out :=
  match (if s.vfOpen then SMap.find s.chip.vfbind fn else none) with
  | none => .next s
  | some b => .next ((s.endBay b true).thaw b)

/-! ## Bring-up (R28, R29) -/

/-- Change BOOTST. -/
def State.modBoot (s : State) (g : BootSt → BootSt) : State := s.modChip (fun c => { c with boot := g c.boot })

/-- A stage of bring-up ends: nothing happens unless it is the stage in progress. -/
def State.atStage (s : State) (n : BitVec 8) (g : State → State) : State := if s.chip.boot.stage = n then g s else s

/-- Bring-up goes on to a stage. -/
def State.toStage (s : State) (n : BitVec 8) : State := s.modBoot (fun b => { b with stage := n, ready := n == 7 })

/-- ROOT_OF_TRUST_START (R28). -/
def execRootOfTrustStart (s : State) : Out := .next (s.atStage 0 (·.toStage 1))

/-- What the digest of an image covers, and its signature signs: the header and every section (R25, R31).
Marked: DESIGN CHOICE, not safe, log 23. -/
def firmwareText (image : SMap (BitVec 8)) : List Byte :=
  Config.firmwareHeader image ++ (Config.firmwareSections image).flatMap (·.1)

/-- The signature of an image verifies against a public key whose digest is fused into the part (R25).
Marked: DESIGN CHOICE, not safe, log 23. -/
def firmwareSigned (image : SMap (BitVec 8)) : Bool :=
  decide (image ≠ []) && shake256 (toBytes 1952 (Config.firmwareKey image).toNat) == Config.fusedKeyDigest &&
    Config.signatureVerifies (Config.firmwareKey image) (firmwareText image) (Config.firmwareSignature image)

/-- ERR of an image (R25, R29): 0 accepted. Only the window can be too small for an image.
Marked: DESIGN CHOICE, not safe, log 23. -/
def firmwareErr (window : Bool) (image : SMap (BitVec 8)) : BitVec 8 :=
  if window && decide (2 ^ 26 < Config.firmwareSize image) then 4
  else if !firmwareSigned image then 1
  else if !Config.firmwareHeaderGood image || (Config.firmwareSections image).any (fun p => shake256 p.1 != p.2) then 2
  else if (Config.firmwareVersion image).toNat < Config.fusedMinVersion.toNat then 3
  else 0

/-- Body word 2 of capability 0x01 (R31): bytes 0 to 7 of the digest of the image.
Marked: DESIGN CHOICE, not safe, log 23. -/
def firmwareDigest (image : SMap (BitVec 8)) : BitVec 64 := (shake256 (firmwareText image)).extractLsb' 0 64

/-- An accepted image runs: bring-up goes on at stage 0x02 (R26, R28).
Marked: DESIGN CHOICE, not safe, log 23 and 113. -/
def State.runImage (s : State) : State :=
  (s.modChip (fun c => { c with imageId := firmwareDigest c.flash, window := [] })).modBoot (fun b =>
    { b with stage := 2, err := 0, svn := Config.firmwareVersion s.chip.flash, recov := false })

/-- IMAGE_CHECK (R25, R26): a part whose flash holds nothing has no image to accept.
Marked: DESIGN CHOICE, not safe, log 3. -/
def execImageCheck (s : State) : Out :=
  .next (s.atStage 1 (fun s =>
    let e := firmwareErr false s.chip.flash
    if e = 0 then s.runImage else s.modBoot (fun b => { b with stage := 0xF0, recov := true, err := e })))

/-- BOOTST_IMGSET (R26, R29): no effect outside recovery.
Marked: DESIGN CHOICE, not safe, log 3. -/
def execBootstImgset (v : BitVec 64) (s : State) : Out :=
  .next (if !s.chip.boot.recov || s.chip.boot.halt || !v.getLsbD 0 then s
    else
      let e := firmwareErr true s.chip.window
      if e = 0 then (s.modChip (fun c => { c with flash := c.window })).runImage else s.modBoot (fun b => { b with err := e }))

/-- MANAGEMENT_START (R28). -/
def execManagementStart (s : State) : Out := .next (s.atStage 2 (·.toStage 3))

/-- HBM_TRAINING (R14, R18, R28, R358): pseudo-channels that fail are recorded and withdrawn at once; routes to other packages are
found; the scrub that follows runs every stack at 1:7. -/
def execHbmTraining (failed routes : List Nat) (s : State) : Out :=
  .next (s.atStage 3 (fun s =>
    let new := (sortNums failed).filter (fun n => decide (n < 1024) && !memb n s.lostChannels)
    let rs := sortNums (routes.filter (fun p => decide (p < 256)))
    ((s.modChip (fun c => { c with
        retireRecord := c.retireRecord ++ (new.map .pch).filter (fun u => !c.retireRecord.any (· == u))
        retired := c.retired ++ new.map .pch
        ratios := (List.range 16).map (fun k => (k, 1)) })).modCache (fun c => { c with routes := rs })).toStage 4))

/-- HBM_SCRUB (R14, R28): HBM in service is written with zero data, and every stack returns to 4:4. -/
def execHbmScrub (s : State) : Out :=
  .next (s.atStage 4 (fun s => (s.scrubHbm.modChip (fun c => { c with ratios := [] })).toStage 5))

/-- The pairs of cores that the factory harvest leaves out of a compute die: two of the 34 built.
Marked: DESIGN CHOICE, safe, log 107. -/
def harvestedPairs (die : Nat) : List Nat :=
  let a := Config.fusedHarvest die 0 % 34
  [a, (a + 1 + Config.fusedHarvest die 1 % 33) % 34]

/-- The 64 cores of a compute die that are enabled, of the 68 built, by their places (R13, R17).
Marked: DESIGN CHOICE, safe, log 107. -/
def dieCores (die : Nat) : List Nat := (List.range 68).filter (fun i => !memb (i / 2) (harvestedPairs die))

/-- The remap table (R17): logical core n lies on die n / 64, and a pair retired in the field has no place in it.
Marked: DESIGN CHOICE, safe, log 107. -/
def State.remapTable (s : State) : SMap Nat :=
  (List.range 256).filterMap (fun n =>
    if s.chip.retired.any (· == .pair (n / 2)) then none else (dieCores (n / 64))[n % 64]?.map (fun i => (n, n / 64 * 68 + i)))

/-- REMAP_BUILD (R17, R28): the vendor images stand in every strip, and no customer image does. -/
def execRemapBuild (s : State) : Out :=
  .next (s.atStage 5 (fun s => (s.modChip (fun c => { c with remap := s.remapTable, strips := [], stripLoads := [] })).toStage 6))

/-- The ownership that the bring-up program leaves: LOCAL 0x17F_0000_0000 to 0x17F_FFFF_FFFF is the steward's, under key 0
(R431). -/
def bringupOwners : SMap (BitVec 16) := (List.range 65536).map (fun i => (0x17F0000 + i, 0xE000))

/-- STEWARD_BRINGUP (R28, R379, R431).
Marked: DESIGN CHOICE, not safe, log 9. -/
def execStewardBringup (s : State) : Out :=
  .next (s.atStage 6 (fun s =>
    ((s.modChip (fun c => { c with owners := bringupOwners })).modBay 12 (fun b =>
      { b with state := .reserved, running := true, root := bringupRoot })).toStage 7))

/-- THERMAL_TRIP (R23). -/
def execThermalTrip (s : State) : Out := .next (if s.chip.boot.halt then s else s.fatal 0x3F8)

end Sys2Proof.Machine
end

