-- ==== Sys2Proof/Machine/Capability.lean ====
section
/-! DEFINITION. The capability list and the words that read it and the format slots (R18, R30, R31, R68, R213 to R215, R380). -/

namespace Sys2Proof.Machine

/-- An entry of the capability list (R30). -/
structure CapEntry where
  id : Nat
  summary : Nat
  body : List (BitVec 64)
  deriving DecidableEq, Repr

/-- Core pairs in service (R16, R18). -/
def State.pairsInService (s : State) : Nat :=
  128 - (s.chip.retired.filter (fun u => match u with
    | .pair _ => true
    | _ => false)).length

/-- Entries that read alike in every bay (R31).
Marked: DESIGN CHOICE, not safe, log 112. -/
def State.packageCaps (s : State) : List CapEntry :=
  let pch := 1024 - s.lostChannels.length
  [{ id := 1, summary := 0x00061536,
     body := [BitVec.ofNat 64 (Config.stepping.toNat + 256 * s.chip.boot.svn.toNat), s.chip.imageId] },
   { id := 2, summary := 2 * s.pairsInService,
     body := [BitVec.ofNat 64 (s.pairsInService + 65536 * (s.chip.badColumns.map (·.2)).sum)] },
   { id := 3, summary := 1536 * pch / 1024,
     body := [BitVec.ofNat 64 (pch + 65536 * (128 - s.lostSlices.length)), BitVec.ofNat 64 (tierSize / 2 ^ 30)] }]

/-- Entries that describe the reading context's bay (R31); the steward core has no entry 0x06 (R380).
Marked: DESIGN CHOICE, not safe, log 111. -/
def State.bayCaps (s : State) (b : Nat) : List CapEntry :=
  let y := s.bay b
  let feats := s.features b
  let bind := (y.store.filter (fun i => !i.withdrawn)).length
  [{ id := 4, summary := 1, body := [feats.extractLsb' 0 64, feats.extractLsb' 64 64] },
   { id := 5, summary := 18, body := [if b = 12 then 0 else BitVec.ofNat 64 (24 + 65536 * (18 + bind))] }] ++
  (if b = 12 then [] else
    [{ id := 6, summary := b,
       body := [BitVec.ofNat 64 ((s.bayCores b).length + 65536 * y.plan + 2 ^ 20 * popCount 64 y.chslot)] }])

/-- The list that a context reads. -/
def State.caps (s : State) (b : Nat) : List CapEntry :=
  s.packageCaps ++ s.bayCaps b ++ [{ id := 7, summary := 24, body := [4] }]

/-- Entries with the index of each header: the first stands at 0, and each firmware image leaves its own gaps (R30).
Marked: DESIGN CHOICE, not safe, log 31. -/
def placeCaps (image : BitVec 64) : Nat → List CapEntry → List (Nat × CapEntry)
  | _, [] => []
  | i, e :: es => (i, e) :: placeCaps image (i + 1 + e.body.length + (Config.capGap image e.id).toNat) es

/-- The words of placed entries: the header, whose NEXT leads to the entry after it, and the body. -/
def capWords : List (Nat × CapEntry) → List (Nat × BitVec 64)
  | [] => []
  | (i, e) :: rest =>
    let next := ((rest.head?).map (·.1)).getD 0
    (i, BitVec.ofNat 64 (next * 2 ^ 48 + e.id * 2 ^ 40 + e.body.length * 2 ^ 32 + e.summary)) ::
      (e.body.zipIdx.map (fun p => (i + 1 + p.2, p.1)) ++ capWords rest)

/-- The word at an index of a context's list; zero where nothing stands (R30, R213). -/
def State.capWord (s : State) (b idx : Nat) : BitVec 64 :=
  (((capWords (placeCaps s.chip.imageId 0 (s.caps b))).find? (fun p => p.1 == idx)).map (·.2)).getD 0

/-- A scalar result for each logical rod from its own operand B.
Marked: DEDUCED, not safe, log 69. -/
def perRod (x : Issue) (g : Nat → BitVec 64) : Effect :=
  { writes := x.rods.map (fun i =>
      let (v, p) := x.srcB 64 x.f.zimm (x.laneOfRod i)
      .scl i x.f.dst.toNat (g v) p), flags := [] }

/-- CAPQ (R213).
Marked: DEDUCED, not safe, log 69; DESIGN CHOICE, not safe, log 111. -/
def execCapq (f : SFields) (s : State) : Out :=
  execLong formCapq (fun x => perRod x (fun v => s.capWord x.fr.bay v)) f s

/-- FMTQ's answer for a slot number: zero above 15 and for an unbound slot (R214). -/
def Frame.slotReport (fr : Frame) (sel v : Nat) : BitVec 64 :=
  if 15 < v then 0 else match fr.slot v with
    | some b => b.report sel
    | none => 0

/-- FMTQ (R214): the selector stands in mod[7:6]. -/
def execFmtq (f : SFields) (s : State) : Out := execLong formFmtq (fun x => perRod x (x.fr.slotReport (x.f.m 6 2))) f s

end Sys2Proof.Machine
end

