-- ==== Sys2Proof/Machine/Consume.lean ====
section
/-! DEFINITION. Words that consume a poisoned value at issue, and the special registers (R188, R211, R212, R258). -/

namespace Sys2Proof.Machine

/-- The first of some lanes in which a predicate is poisoned traps with 0x3F0 (R258). -/
def freeOfPoison (x : Issue) (p : Nat) (lanes : List Nat) : Except TrapInfo Unit :=
  match lanes.find? (fun l => x.u.predPoisoned p l) with
  | some l => .error (poisonAt l)
  | none => .ok ()

/-- A MOVS of FPX or SATCNT waits for the flag-setting producers of its logical rods (R188, R211, R212, R228).
Marked: DEDUCED, not safe, log 85. -/
def movsWaits (s : State) (c : IssueCtx) (x : Issue) (num : Nat) : Bool :=
  (num == 0x1B || num == 0x1E) && s.flagsInFlight c x.rods

/-- MOVS reading a special register (R211). -/
def execMovsRead (f : SFields) (s : State) : Out :=
  withWord formMovsRead f (fun c x s =>
    if movsWaits s c x x.f.a.toNat then .next (s.waitEmpty c)
    else .next (s.finish c (fun u => u.apply (movsReadWord x)))) s

/-- MOVS writing a special register: its source is consumed (R212, R258). -/
def execMovsWrite (f : SFields) (s : State) : Out :=
  withWord formMovsWrite f (fun c x s =>
    match x.rods.find? (fun i => (x.srcB 64 x.f.simm (x.laneOfRod i)).2) with
    | some i => .next (s.trapWord c { cause := 0x3F0, lane := lowestLaneOf x.width x.e.lanes i })
    | none =>
      if movsWaits s c x x.f.dst.toNat then .next (s.waitEmpty c)
      else .next (s.finish c (fun u => u.apply (movsWriteWord x)))) s

end Sys2Proof.Machine
end

