-- ==== Sys2Proof/Machine/CrossLane.lean ====
section
/-! DEFINITION. The cross-lane words of chapter 11 (R230 to R237). -/

namespace Sys2Proof.Machine

/-- SHFL (R231). -/
def execShfl (f : SFields) (s : State) : Out :=
  execNow formShfl (shflWord 0) f s

/-- SHFLU (R231). -/
def execShflu (f : SFields) (s : State) : Out :=
  execNow formShfl (shflWord 1) f s

/-- SHFLD (R231). -/
def execShfld (f : SFields) (s : State) : Out :=
  execNow formShfl (shflWord 2) f s

/-- SHFLX (R231). -/
def execShflx (f : SFields) (s : State) : Out :=
  execNow formShfl (shflWord 3) f s

/-- BCST (R232). -/
def execBcst (f : SFields) (s : State) : Out :=
  execNow formBcst (bcstWord) f s

/-- VOTE (R233). -/
def execVote (f : SFields) (s : State) : Out :=
  execChecked formVote (fun x => (freeOfPoison x x.f.a.toNat x.lanes).map (fun _ => voteWord x)) f s

/-- ELECT (R234). -/
def execElect (f : SFields) (s : State) : Out :=
  execNow formElect (electWord) f s

/-- PSCAN (R235). -/
def execPscan (f : SFields) (s : State) : Out :=
  execNow formPscan (pscanWord) f s

/-- LRED (R236). -/
def execLred (f : SFields) (s : State) : Out :=
  execNow formLred (lredWord) f s

end Sys2Proof.Machine
end

