-- ==== Sys2Proof/Machine/Float.lean ====
section
/-! DEFINITION. The FP32 and conversion words of chapter 11 (R217 to R229). -/

namespace Sys2Proof.Machine

/-- FADD (R218). -/
def execFadd (f : SFields) (s : State) : Out :=
  execNow formFp2 (fpWord opFadd true false true) f s

/-- FSUB (R218). -/
def execFsub (f : SFields) (s : State) : Out :=
  execNow formFp2 (fpWord opFsub true false true) f s

/-- FMUL (R218). -/
def execFmul (f : SFields) (s : State) : Out :=
  execNow formFp2 (fpWord opFmul true false true) f s

/-- FMA (R218). -/
def execFma (f : SFields) (s : State) : Out :=
  execNow formFma (fpWord (opFused false false) true true true) f s

/-- FMS (R218). -/
def execFms (f : SFields) (s : State) : Out :=
  execNow formFma (fpWord (opFused false true) true true true) f s

/-- FNMA (R218). -/
def execFnma (f : SFields) (s : State) : Out :=
  execNow formFma (fpWord (opFused true false) true true true) f s

/-- FMIN (R221). -/
def execFmin (f : SFields) (s : State) : Out :=
  execNow formFp2Exact (fpWord opFmin true false false) f s

/-- FMAX (R221). -/
def execFmax (f : SFields) (s : State) : Out :=
  execNow formFp2Exact (fpWord opFmax true false false) f s

/-- FSGN (R221). -/
def execFsgn (f : SFields) (s : State) : Out :=
  execNow formFp2Exact (fpWord opFsgn true false false) f s

/-- FABS (R221). -/
def execFabs (f : SFields) (s : State) : Out :=
  execNow formFp1Exact (fpWord opFabs false false false) f s

/-- FNEG (R221). -/
def execFneg (f : SFields) (s : State) : Out :=
  execNow formFp1Exact (fpWord opFneg false false false) f s

/-- FDIV (R218). -/
def execFdiv (f : SFields) (s : State) : Out :=
  execLong formFdiv (fpWord opFdiv true false true) f s

/-- FSQRT (R218). -/
def execFsqrt (f : SFields) (s : State) : Out :=
  execLong formFp1 (fpWord opFsqrt false false true) f s

/-- FRCP (R219). -/
def execFrcp (f : SFields) (s : State) : Out :=
  execLong formFp1 (fpWord opFrcp false false true) f s

/-- FRSQ (R219). -/
def execFrsq (f : SFields) (s : State) : Out :=
  execLong formFp1 (fpWord opFrsq false false true) f s

/-- FEXP2 (R219). -/
def execFexp2 (f : SFields) (s : State) : Out :=
  execLong formFp1 (fpWord opFexp2 false false true) f s

/-- FLOG2 (R219). -/
def execFlog2 (f : SFields) (s : State) : Out :=
  execLong formFp1 (fpWord opFlog2 false false true) f s

/-- FSIN (R219). -/
def execFsin (f : SFields) (s : State) : Out :=
  execLong formFp1 (fpWord opFsin false false true) f s

/-- FCOS (R219). -/
def execFcos (f : SFields) (s : State) : Out :=
  execLong formFp1 (fpWord opFcos false false true) f s

/-- FTANH (R219). -/
def execFtanh (f : SFields) (s : State) : Out :=
  execLong formFp1 (fpWord opFtanh false false true) f s

/-- FCMP (R222). -/
def execFcmp (f : SFields) (s : State) : Out :=
  execNow formFcmp (fcmpWord) f s

/-- FCLASS (R223). -/
def execFclass (f : SFields) (s : State) : Out :=
  execNow formFclass (fclassWord) f s

/-- FRND (R220). -/
def execFrnd (f : SFields) (s : State) : Out :=
  execNow formFp1 (fpWord opFrnd false false true) f s

/-- FLDEXP (R220). -/
def execFldexp (f : SFields) (s : State) : Out :=
  execNow formFp2 (fldexpWord) f s

/-- CVT (R225). -/
def execCvt (f : SFields) (s : State) : Out :=
  execChecked formCvt (cvtWord false) f s

/-- CVTS (R225). -/
def execCvts (f : SFields) (s : State) : Out :=
  execChecked formCvts (cvtWord true) f s

/-- PACK (R229). -/
def execPack (f : SFields) (s : State) : Out :=
  execNow (packForm false) (packWord) f s

/-- UNPACK (R229). -/
def execUnpack (f : SFields) (s : State) : Out :=
  execNow (packForm true) (unpackWord) f s

/-- SCALEB (R227). -/
def execScaleb (f : SFields) (s : State) : Out :=
  execNow formScaleb (scalebWord) f s

end Sys2Proof.Machine
end

