-- ==== Sys2Proof/Machine/Integer.lean ====
section
/-! DEFINITION. The scalar and integer words of chapter 10 (R191 to R210). -/

namespace Sys2Proof.Machine

/-- The lanes in which SEL reads its predicate: for a scalar form the lane of the guard (R209). -/
def selLanes (x : Issue) : List Nat :=
  if x.f.dc == .scl then x.rods.filterMap (lowestLaneOf x.width x.e.lanes) else x.lanes

/-- IADD (R195). -/
def execIadd (f : SFields) (s : State) : Out :=
  execNow formInt2 (intWord opIadd true true false) f s

/-- ISUB (R195). -/
def execIsub (f : SFields) (s : State) : Out :=
  execNow formInt2 (intWord opIsub true true false) f s

/-- IMUL (R195). -/
def execImul (f : SFields) (s : State) : Out :=
  execNow formInt2 (intWord opImul true true false) f s

/-- IMULH (R195). -/
def execImulh (f : SFields) (s : State) : Out :=
  execNow formInt2 (intWord opImulh true true false) f s

/-- UMULH (R195). -/
def execUmulh (f : SFields) (s : State) : Out :=
  execNow formInt2 (intWord opUmulh true true false) f s

/-- IMIN (R195). -/
def execImin (f : SFields) (s : State) : Out :=
  execNow formInt2 (intWord opImin true true false) f s

/-- IMAX (R195). -/
def execImax (f : SFields) (s : State) : Out :=
  execNow formInt2 (intWord opImax true true false) f s

/-- UMIN (R195). -/
def execUmin (f : SFields) (s : State) : Out :=
  execNow formInt2 (intWord opUmin true true false) f s

/-- UMAX (R195). -/
def execUmax (f : SFields) (s : State) : Out :=
  execNow formInt2 (intWord opUmax true true false) f s

/-- IADDS (R195). -/
def execIadds (f : SFields) (s : State) : Out :=
  execNow formInt2 (intWord opIadds true true false) f s

/-- ISUBS (R195). -/
def execIsubs (f : SFields) (s : State) : Out :=
  execNow formInt2 (intWord opIsubs true true false) f s

/-- UADDS (R195). -/
def execUadds (f : SFields) (s : State) : Out :=
  execNow formInt2 (intWord opUadds true true false) f s

/-- USUBS (R195). -/
def execUsubs (f : SFields) (s : State) : Out :=
  execNow formInt2 (intWord opUsubs true true false) f s

/-- AND (R200). -/
def execAnd (f : SFields) (s : State) : Out :=
  execNow formInt2 (intWord opAnd true true false) f s

/-- OR (R200). -/
def execOr (f : SFields) (s : State) : Out :=
  execNow formInt2 (intWord opOr true true false) f s

/-- XOR (R200). -/
def execXor (f : SFields) (s : State) : Out :=
  execNow formInt2 (intWord opXor true true false) f s

/-- ANDN (R200). -/
def execAndn (f : SFields) (s : State) : Out :=
  execNow formInt2 (intWord opAndn true true false) f s

/-- SHL (R200). -/
def execShl (f : SFields) (s : State) : Out :=
  execNow formInt2 (intWord opShl true true false) f s

/-- SHR (R200). -/
def execShr (f : SFields) (s : State) : Out :=
  execNow formInt2 (intWord opShr true true false) f s

/-- SAR (R200). -/
def execSar (f : SFields) (s : State) : Out :=
  execNow formInt2 (intWord opSar true true false) f s

/-- ROL (R200). -/
def execRol (f : SFields) (s : State) : Out :=
  execNow formInt2 (intWord opRol true true false) f s

/-- ROR (R200). -/
def execRor (f : SFields) (s : State) : Out :=
  execNow formInt2 (intWord opRor true true false) f s

/-- BFX (R202). -/
def execBfx (f : SFields) (s : State) : Out :=
  execNow formInt2Wide (intWord opBfx true true false) f s

/-- BFXS (R202). -/
def execBfxs (f : SFields) (s : State) : Out :=
  execNow formInt2Wide (intWord opBfxs true true false) f s

/-- INEG (R195). -/
def execIneg (f : SFields) (s : State) : Out :=
  execNow formInt1 (intWord opIneg true false false) f s

/-- IABS (R195). -/
def execIabs (f : SFields) (s : State) : Out :=
  execNow formInt1 (intWord opIabs true false false) f s

/-- NOT (R200). -/
def execNot (f : SFields) (s : State) : Out :=
  execNow formInt1 (intWord opNot true false false) f s

/-- POPC (R203). -/
def execPopc (f : SFields) (s : State) : Out :=
  execNow formInt1 (intWord opPopc true false false) f s

/-- CLZ (R203). -/
def execClz (f : SFields) (s : State) : Out :=
  execNow formInt1 (intWord opClz true false false) f s

/-- CTZ (R203). -/
def execCtz (f : SFields) (s : State) : Out :=
  execNow formInt1 (intWord opCtz true false false) f s

/-- BREV (R203). -/
def execBrev (f : SFields) (s : State) : Out :=
  execNow formInt1 (intWord opBrev true false false) f s

/-- BSWAP (R203). -/
def execBswap (f : SFields) (s : State) : Out :=
  execNow formInt1 (intWord opBswap true false false) f s

/-- IMAD (R196). -/
def execImad (f : SFields) (s : State) : Out :=
  execNow formImad (intWord opImad true true true) f s

/-- FSHL (R201). -/
def execFshl (f : SFields) (s : State) : Out :=
  execNow formInt3Wide (intWord opFshl true true true) f s

/-- FSHR (R201). -/
def execFshr (f : SFields) (s : State) : Out :=
  execNow formInt3Wide (intWord opFshr true true true) f s

/-- BFI (R202). -/
def execBfi (f : SFields) (s : State) : Out :=
  execNow formInt3Wide (intWord opBfi true true true) f s

/-- IDIV (R197). -/
def execIdiv (f : SFields) (s : State) : Out :=
  execLong formIdiv (intWord opIdiv true true false) f s

/-- UDIV (R197). -/
def execUdiv (f : SFields) (s : State) : Out :=
  execLong formIdiv (intWord opUdiv true true false) f s

/-- IREM (R197). -/
def execIrem (f : SFields) (s : State) : Out :=
  execLong formIdiv (intWord opIrem true true false) f s

/-- UREM (R197). -/
def execUrem (f : SFields) (s : State) : Out :=
  execLong formIdiv (intWord opUrem true true false) f s

/-- SEXT (R204). -/
def execSext (f : SFields) (s : State) : Out :=
  execNow formExt (extWord opSext) f s

/-- ZEXT (R204). -/
def execZext (f : SFields) (s : State) : Out :=
  execNow formExt (extWord opZext) f s

/-- IDP4 (R199). -/
def execIdp4 (f : SFields) (s : State) : Out :=
  execNow formDot (dotWord 4 8) f s

/-- IDP2 (R199). -/
def execIdp2 (f : SFields) (s : State) : Out :=
  execNow formDot (dotWord 2 16) f s

/-- ICMP (R205). -/
def execIcmp (f : SFields) (s : State) : Out :=
  execNow formCmp (cmpWord true) f s

/-- UCMP (R205). -/
def execUcmp (f : SFields) (s : State) : Out :=
  execNow formCmp (cmpWord false) f s

/-- PLOP (R206). -/
def execPlop (f : SFields) (s : State) : Out :=
  execNow formPlop (plopWord) f s

/-- PSET (R207). -/
def execPset (f : SFields) (s : State) : Out :=
  execNow formPset (psetWord) f s

/-- PGET (R207). -/
def execPget (f : SFields) (s : State) : Out :=
  execNow formPget (pgetWord) f s

/-- MOV (R208). -/
def execMov (f : SFields) (s : State) : Out :=
  execNow formMov (intWord (pureOp fun _ _ b _ => b) false true false) f s

/-- LEA (R210). -/
def execLea (f : SFields) (s : State) : Out :=
  execNow formLea (leaWord) f s

/-- IADDC (R198). -/
def execIaddc (f : SFields) (s : State) : Out :=
  execChecked formCarry (fun x => (freeOfPoison x (predField x.f) x.lanes).map (fun _ => carryWord false x)) f s

/-- ISUBB (R198). -/
def execIsubb (f : SFields) (s : State) : Out :=
  execChecked formCarry (fun x => (freeOfPoison x (predField x.f) x.lanes).map (fun _ => carryWord true x)) f s

/-- SEL (R209). -/
def execSel (f : SFields) (s : State) : Out :=
  execChecked formSel (fun x => (freeOfPoison x (predField x.f) (selLanes x)).map (fun _ => selWord x)) f s

end Sys2Proof.Machine
end

