-- ==== Sys2Proof/Machine/Matrix.lean ====
section
/-! DEFINITION. The matrix engine: the words of row 0xA, the queue, fetch entries and the sums (R305 to R325, R183 to R185). -/

namespace Sys2Proof.Machine

/-! ## Checks at issue (R306, R307, R312, R316, R323) -/

/-- Columns of an array that are in service (R305, R322).
Marked: DESIGN CHOICE, not safe, log 4. -/
def State.columns (s : State) (core array : Nat) : Nat := 34 - SMap.get 0 s.chip.badColumns (core * 16 + array)

/-- An array with fewer than 16 columns stops the engine of its core (R323). -/
def State.engineStopped (s : State) (core : Nat) : Bool := (List.range 16).any (fun a => decide (s.columns core a < 16))

/-- A trap of one logical rod of a word. -/
def rodTrap {α : Type} (c : IssueCtx) (rod k addr : Nat) : Except TrapInfo α :=
  .error { cause := k, lane := some (c.rodLane rod), taddr := BitVec.ofNat 64 addr }

/-- A scalar operand that the word consumes: poison traps (R258).
Marked: DEDUCED, not safe, log 52. -/
def consumed (c : IssueCtx) (rod : Nat) (v : Src) : Except TrapInfo Nat :=
  if v.2 then .error (poisonAt (c.rodLane rod)) else .ok v.1

/-- A tile number (R306). -/
def tileAt (c : IssueCtx) (rod n : Nat) : Except TrapInfo Nat := if c.fr.board ≤ n then rodTrap c rod 0x300 0 else .ok n

/-- The tile a word names in imm; ACLR names it in mod (R306, R313). -/
def tileOf (c : IssueCtx) (x : Issue) (rod : Nat) : Except TrapInfo Nat := tileAt c rod (x.f.i 0 6)

/-- A latch reference of 32 bits (R312).
Marked: DEDUCED, not safe, log 51. -/
def matrixLatch (c : IssueCtx) (rod v : Nat) : Except TrapInfo LatchRef :=
  if field v 20 11 ≠ 0 ∨ 2 ^ 32 ≤ v then rodTrap c rod 0x301 0
  else if v % 16 ≠ 0 then rodTrap c rod 0x301 (v % 2 ^ 20)
  else if field v 31 1 = 0 then .ok none
  else match paneKey c.fr c.u.side (v % 2 ^ 20) 16 1 with
    | .error (k, a) => rodTrap c rod k a
    | .ok key => .ok (some key)

/-- A pane area of an operand reference (R307). -/
def areaOf (c : IssueCtx) (rod addr n : Nat) : Except TrapInfo Nat :=
  match paneKey c.fr c.u.side addr n 1 with
  | .error (k, a) => rodTrap c rod k a
  | .ok key => .ok key

/-- An operand reference judged by R307 for a slot; the fetch entry it names is judged later (R314).
Marked: DEDUCED, not safe, log 57. -/
def blockOf (c : IssueCtx) (rod : Nat) (b : Binding) (v : Nat) : Except TrapInfo (BlockRef × Option Nat) := do
  let src := field v 63 1 == 1
  let sv := field v 30 1 == 1
  let scl := field v 32 20
  let addr := field v 0 20
  if field v 52 11 ≠ 0 ∨ field v 20 10 ≠ 0 ∨ (!sv ∧ scl ≠ 0) ∨ (src ∧ 4 ≤ addr) then rodTrap c rod 0x301 0
  else if !src ∧ addr % 64 ≠ 0 then rodTrap c rod 0x302 addr
  else if scl % 16 ≠ 0 then rodTrap c rod 0x302 scl
  else
    let pane ← if src then .ok none else (areaOf c rod addr 2048).map some
    let sc ← if sv then (areaOf c rod scl 512).map some else .ok none
    if sv != (b.block == 32) then rodTrap c rod 0x341 0
    else .ok ({ pane := pane, hold := none, scl := sc, koff := field v 31 1 == 1 }, if src then some addr else none)

/-- The fetch entry of an operand: a use is taken (R316). -/
def State.takeUse (s : State) (c : IssueCtx) (rod : Nat) (b : BlockRef × Option Nat) : Except TrapInfo (State × BlockRef) :=
  match b.2 with
  | none => .ok (s, b.1)
  | some q =>
    match (s.unit? c.fid c.ui).bind (fun u => SMap.find (u.rod rod).fetches q) with
    | none => rodTrap c rod 0x305 0
    | some e =>
      match e.failed with
      | some k => rodTrap c rod k 0
      | none =>
        if e.count = 0 then rodTrap c rod 0x305 0
        else
          let s1 := s.modUnit c.fid c.ui (fun u => u.setRod rod (fun r => { r with fetches := r.fetches.put q { e with count := e.count - 1 } }))
          .ok ({ s1 with holds := s1.holds.modify e.hold (fun h => { h with users := h.users + 1, released := h.released || e.count == 1 }) },
            { b.1 with hold := some e.hold })

/-! ## Rows (R315, R318, R319) -/

/-- The rows of a word: in the pane by R241, else by R246 for each kind of access, the lowest row first. -/
def State.rowsOf (s : State) (c : IssueCtx) (rod : Nat) (pane : Bool) (kinds : List AccKind) (base stride n : Nat) :
    Nat → Nat → Except TrapInfo (List (List RowRun))
  | 0, _ => .ok []
  | left + 1, i =>
    let a := base + i * stride
    let row : Except TrapInfo (List RowRun) :=
      if pane then (areaOf c rod a n).map (fun key => [{ va := BitVec.ofNat 64 a, line := 0, key := 0, off := key, n := n }])
      else
        let runs := lineRuns (a % 2 ^ 64) n
        let rd := s.unitReader c false
        match kinds.findSome? (fun kd => match s.places rd kd runs with
          | .error e => some e
          | .ok _ => none) with
        | some (k, va) => rodTrap c rod k va
        | none =>
          match s.places rd .read runs, s.places rd .write runs with
          | .ok ps, _ => .ok ((runs.zip ps).map (fun q => { va := BitVec.ofNat 64 q.1.1, line := q.2.line, key := q.2.key, off := q.2.off, n := q.2.n }))
          | _, .ok ps => .ok ((runs.zip ps).map (fun q => { va := BitVec.ofNat 64 q.1.1, line := q.2.line, key := q.2.key, off := q.2.off, n := q.2.n }))
          | .error (k, va), _ => rodTrap c rod k va
    match row with
    | .error t => .error t
    | .ok r =>
      match s.rowsOf c rod pane kinds base stride n left (i + 1) with
      | .error t => .error t
      | .ok rs => .ok (r :: rs)

/-- The pages of a word's global rows. -/
def rowPages (base stride n : Nat) : List Nat := (List.range 32).flatMap (fun i => rangePages ((base + i * stride) % 2 ^ 64) n)

/-- The span of 32 rows as one window (R328). -/
def spanWindow (pane : Bool) (base stride r : Nat) : Window :=
  { pane := pane, base := base, rows := 1, len := 31 * stride + r, stride := 0 }

/-! ## Issue (R310, R326) -/

/-- A matrix operation takes the last place of its core's queue (R310), as a job where R312 makes it one. -/
def State.addMatrix (s : State) (c : IssueCtx) (rod : Nat) (kind : MatKind) (tile k : Nat) (latch : LatchRef)
    (windows : Option (List Window × List Window)) : State :=
  let r := c.u.rod rod
  let (jid, s1) := s.fresh
  let s2 := match windows with
    | none => s
    | some (rs, ws) =>
      let j : Job :=
        { frame := c.fid, unit := c.ui, rod := rod, core := c.core, side := c.u.side, kind := .matrix, k := k, reads := rs, writes := ws,
          latch := latch, seed := r.srseed, pc := c.e.pc, started := false, finished := false }
      { s1 with jobs := s1.jobs.put jid j }
  let (id, s3) := s2.fresh
  let o : MatOp :=
    { frame := c.fid, unit := c.ui, rod := rod, core := c.core, side := c.u.side, tile := tile, kind := kind, k := k, tsc := r.tsc,
      seed := r.srseed, latch := latch, job := windows.map (fun _ => jid), pc := c.e.pc, started := false, lane := c.rodLane rod }
  { s3 with matq := s3.matq.drop id ++ [(id, o)] }

/-- Room for some operations in a core's queue of 32 (R310). -/
def State.queueRoom (s : State) (core n : Nat) : Bool := decide ((s.matq.filter (fun p => p.2.core == core)).length + n ≤ 32)

/-- What one logical rod's issue makes of the state. -/
abbrev RodIssue := State → Nat → Except TrapInfo State

/-- The rods of a word in turn. -/
def issueRods (g : RodIssue) : State → List Nat → Except TrapInfo State
  | s, [] => .ok s
  | s, i :: is =>
    match g s i with
    | .error t => .error t
    | .ok s' => issueRods g s' is

/-- A matrix word at issue: convergence, the engine, its own checks, then a place in the queue and the shutter for each rod.
Marked: DEDUCED, not safe, log 51. -/
def matrixWord (fm : Form) (job : Bool) (pages : Issue → Nat → List Nat) (g : IssueCtx → Issue → RodIssue) (f : SFields) (s : State) : Out :=
  withCollective fm f (fun c x s =>
    if s.engineStopped c.core then .next (s.trapWord c (trapOf 0x3F6))
    else
      let ps := x.rods.flatMap (pages x)
      match s.openLines c.fr.bay (s.walkLines c.fr.bay ps) with
      | some s' => .next (s'.waitWord c)
      | none =>
        match issueRods (g c x) s x.rods with
        | .error t => .next (s.trapWord c t)
        | .ok s' =>
          if !s.queueRoom c.core x.rods.length || (job && !s.shutterRoom c.core x.rods.length) then .next (s.waitWord c)
          else .next ((s'.walkedAll c.fr.bay c.core ps).finish c (fun u => u.bumpSeeds (seedRods fm x)))) s

/-- No page. -/
def noPages (_ : Issue) (_ : Nat) : List Nat := []

/-- The pages of a word's rows, by base and stride. -/
def stridePages (n : Issue → Nat) (x : Issue) (rod : Nat) : List Nat :=
  rowPages (x.srcA 64 (x.laneOfRod rod)).1 (x.srcB 64 0 (x.laneOfRod rod)).1 (n x)

/-- A bound slot, or 0x340. -/
def slotOf (c : IssueCtx) (rod n : Nat) : Except TrapInfo Binding :=
  match c.fr.slot n with
  | some b => .ok b
  | none => rodTrap c rod 0x340 0

/-- The windows of an operand block (R328). -/
def State.blockWindows (s : State) (c : IssueCtx) (rod : Nat) (b : BlockRef) : List Window :=
  (match b.pane with
    | some key => [{ pane := true, base := paneFrom c.u.side key, rows := 1, len := 2048, stride := 0 }]
    | none => []) ++
  (match b.scl with
    | some key => [{ pane := true, base := paneFrom c.u.side key, rows := 1, len := 512, stride := 0 }]
    | none => []) ++
  (match b.hold with
    | none => []
    | some h => ((s.unit? c.fid c.ui).map (fun u => (u.rod rod).fetches.vals.filterMap (fun e =>
        if e.hold = h then some { pane := false, base := e.base.toNat, rows := 32, len := 64, stride := e.stride } else none))).getD [])

/-- One rod's MMA (R314); a word that names one fetch entry twice takes one use (R316).
Marked: DEDUCED, not safe, log 53. -/
def mmaRod (c : IssueCtx) (x : Issue) : RodIssue := fun s i => do
  let lane := x.laneOfRod i
  let tile ← tileOf c x i
  let fa ← slotOf c i (x.f.m 8 4)
  let fb ← slotOf c i (x.f.m 4 4)
  let va ← consumed c i (x.srcA 64 lane)
  let a ← blockOf c i fa va
  let vb ← consumed c i (x.srcB 64 0 lane)
  let b ← blockOf c i fb vb
  let (s1, ra) ← s.takeUse c i a
  let (s2, rb) ← if b.2.isSome && b.2 == a.2 then .ok (s1, { b.1 with hold := ra.hold }) else s1.takeUse c i b
  let vl ← consumed c i (x.srcD 64 lane)
  let l ← matrixLatch c i vl
  pure (s2.addMatrix c i (.mma ra rb fa fb (x.f.i 6 1 == 1)) tile 30 l (some (s2.blockWindows c i ra ++ s2.blockWindows c i rb, [])))

/-- MMA (R314). -/
def execMma (f : SFields) (s : State) : Out := matrixWord formMma true noPages mmaRod f s

/-- One rod's SUMS (R317). -/
def sumsRod (c : IssueCtx) (x : Issue) : RodIssue := fun s i => do
  let lane := x.laneOfRod i
  let tile ← tileOf c x i
  let fa ← slotOf c i (x.f.m 8 4)
  let va ← consumed c i (x.srcA 64 lane)
  let a ← blockOf c i fa va
  let (s1, ra) ← s.takeUse c i a
  let vl ← consumed c i (x.srcD 64 lane)
  let l ← matrixLatch c i vl
  let z := x.srcB 32 0 lane
  pure (s1.addMatrix c i (.sums (x.f.m 4 1 == 1) ra fa (BitVec.ofNat 32 z.1) z.2) tile 30 l (some (s1.blockWindows c i ra, [])))

/-- SUMS.R (R317). -/
def execSumsR (f : SFields) (s : State) : Out := matrixWord formSums true noPages sumsRod f s

/-- SUMS.C (R317). -/
def execSumsC (f : SFields) (s : State) : Out := matrixWord formSums true noPages sumsRod f s

/-- One rod's ACLR (R318): an FP32 immediate stands in its upper bits (R217). -/
def aclrRod (c : IssueCtx) (x : Issue) : RodIssue := fun s i => do
  let tile ← tileAt c i (x.f.m 0 6)
  let v := x.srcB 32 (if x.f.m 6 1 = 1 then fpImm x.f else x.f.simm) (x.laneOfRod i)
  pure (s.addMatrix c i (.aclr (BitVec.ofNat 32 v.1) v.2) tile 30 none none)

/-- ACLR (R318). -/
def execAclr (f : SFields) (s : State) : Out := matrixWord formAclr false noPages aclrRod f s

/-- The distance code of ALD and DRAIN, which stands in imm[12:8]. -/
def IssueCtx.codeImm (c : IssueCtx) (f : SFields) : Nat := if c.fr.bay = 12 then 30 else f.i 8 5

/-- One rod's ALD (R318).
Marked: DEDUCED, not safe, log 52. -/
def aldRod (c : IssueCtx) (x : Issue) : RodIssue := fun s i => do
  let lane := x.laneOfRod i
  let pane := x.f.m 11 1 == 1
  let tile ← tileOf c x i
  let vl ← consumed c i (x.srcD 64 lane)
  let l ← matrixLatch c i vl
  let base ← consumed c i (x.srcA 64 lane)
  let stride ← consumed c i (x.srcB 64 0 lane)
  if base % 16 ≠ 0 ∨ stride % 16 ≠ 0 then rodTrap c i 0x306 base
  else
    let rows ← s.rowsOf c i pane [.read] base stride 128 32 0
    pure (s.addMatrix c i (.ald pane rows) tile (c.codeImm x.f) l (some ([spanWindow pane base stride 128], [])))

/-- ALD (R318). -/
def execAld (f : SFields) (s : State) : Out :=
  matrixWord formAld true (fun x i => if x.f.m 11 1 = 1 then [] else stridePages (fun _ => 128) x i) aldRod f s

/-- Registers of an AMOV: 1024 / RODW, all below 32 × VGRAN (R318). -/
def amovRegs (c : IssueCtx) (rod first : Nat) : Except TrapInfo Nat :=
  let n := 1024 / c.fr.width
  if 32 * c.fr.vgran ≤ first + n - 1 then rodTrap c rod 0x100 0 else .ok n

/-- One rod's AMOV.TOV (R318): its registers are empty until the move is performed in queue order. -/
def tovRod (c : IssueCtx) (x : Issue) : RodIssue := fun s i => do
  let tile ← tileOf c x i
  let reg := x.f.dst.toNat
  let n ← amovRegs c i reg
  let p := s.nextId
  let s1 := s.produce c [i] ((List.range n).map (fun r => (.vec, reg + r))) Effect.none false
  pure (s1.addMatrix c i (.amovTov p reg (x.act &&& rodLanes x.width i)) tile 30 none none)

/-- AMOV.TOV (R318). -/
def execAmovTov (f : SFields) (s : State) : Out := matrixWord (formAmov false) false noPages tovRod f s

/-- One rod's AMOV.TOB (R318): its registers are read at issue. -/
def tobRod (c : IssueCtx) (x : Issue) : RodIssue := fun s i => do
  let tile ← tileOf c x i
  let reg := x.f.a.toNat
  let _ ← amovRegs c i reg
  let w := c.fr.width
  let vals := (List.range 1024).map (fun e =>
    let l := unitLane w i (e % w)
    (c.u.vec (reg + e / w) l, c.u.vecPoisoned (reg + e / w) l))
  pure (s.addMatrix c i (.amovTob vals) tile 30 none none)

/-- AMOV.TOB (R318). -/
def execAmovTob (f : SFields) (s : State) : Out := matrixWord (formAmov true) false noPages tobRod f s

/-- One rod's DRAIN (R319): the control word holds SCALE and the latch reference.
Marked: DEDUCED, not safe, log 52. -/
def drainRod (c : IssueCtx) (x : Issue) : RodIssue := fun s i => do
  let lane := x.laneOfRod i
  let pane := x.f.m 11 1 == 1
  let add := x.f.m 8 1 == 1
  let tile ← tileOf c x i
  match slotCause c.fr [cvtFd x.f] (cvtFd x.f) (x.f.m 0 3), c.fr.slot (cvtFd x.f) with
  | some k, _ => rodTrap c i k 0
  | none, none => rodTrap c i 0x340 0
  | none, some fd =>
    let ctl ← consumed c i (x.srcD 64 lane)
    let l ← matrixLatch c i (ctl % 2 ^ 32)
    let base ← consumed c i (x.srcA 64 lane)
    let stride ← consumed c i (x.srcB 64 0 lane)
    if base % 4 ≠ 0 ∨ stride % 4 ≠ 0 then rodTrap c i 0x306 base
    else
      let r := 4 * fd.width
      let rows ← s.rowsOf c i pane (if add then [.read, .write] else [.write]) base stride r 32 0
      let p := s.nextId
      let amax := x.f.i 21 1 == 1
      let reg := x.f.i 13 8
      let s1 := if amax then s.produce c [i] [(.scl, reg)] Effect.none false else s
      let d : DrainCtl :=
        { pane := pane, rows := rows, fd := fd, rm := x.f.m 0 3, sat := x.f.m 3 1 == 1, int := x.f.m 9 1 == 1, add := add,
          scale := BitVec.ofNat 32 (ctl / 2 ^ 32), capture := if amax then some (p, reg) else none }
      pure (s1.addMatrix c i (.drain d) tile (c.codeImm x.f) l (some ([], [spanWindow pane base stride r])))

/-- DRAIN (R319). -/
def execDrain (f : SFields) (s : State) : Out :=
  matrixWord formDrain true (fun x i => if x.f.m 11 1 = 1 then []
    else stridePages (fun x => 4 * ((x.fr.slot (cvtFd x.f)).map Binding.width).getD 0) x i) drainRod f s

/-! ## Fetch entries (R315, R316) -/

/-- A fetch entry is freed: its lines are unpinned. -/
def State.freeHold (s : State) (h : Nat) : State :=
  { s with
    holds := s.holds.drop h
    cache := { s.cache with lines := s.cache.lines.map (fun p => (p.1, { p.2 with pins := removeNum h p.2.pins })) } }

/-- A fetch entry that takes no further use is freed once its lines have come and no operation uses it (R315, R316).
Marked: DEDUCED, not safe, log 53. -/
def State.tidyHold (s : State) (h : Nat) : State :=
  match SMap.find s.holds h with
  | none => s
  | some x => if x.released && x.performed && x.waiting.isEmpty && x.users == 0 then s.freeHold h else s

/-- A fetch entry takes no further use.
Marked: DEDUCED, not safe, log 53. -/
def State.releaseHold (s : State) (h : Nat) : State := { s with holds := s.holds.modify h (fun x => { x with released := true }) }.tidyHold h

/-- An operation that took a use is complete. -/
def State.dropUse (s : State) (h : Nat) : State := { s with holds := s.holds.modify h (fun x => { x with users := x.users - 1 }) }.tidyHold h

/-- One rod's TFETCH (R315).
Marked: DEDUCED, not safe, log 52 and 53. -/
def tfetchRod (c : IssueCtx) (x : Issue) : RodIssue := fun s i => do
  let lane := x.laneOfRod i
  let base ← consumed c i (x.srcA 64 lane)
  let stride ← consumed c i (x.srcB 64 0 lane)
  if base % 64 ≠ 0 ∨ stride % 64 ≠ 0 ∨ 2 ^ 32 ≤ stride then rodTrap c i 0x304 base
  else
    let rows ← s.rowsOf c i false [.read] base stride 64 32 0
    let q := x.f.i 0 2
    let s1 := match (s.unit? c.fid c.ui).bind (fun u => SMap.find (u.rod i).fetches q) with
      | some e => s.releaseHold e.hold
      | none => s
    let (h, s2) := s1.fresh
    let hold : FetchHold :=
      { core := c.core, frame := c.fid, k := c.code x.f, rows := rows, performed := false, waiting := [], users := 0, released := false }
    let e : FetchEntry := { base := BitVec.ofNat 64 base, stride := stride, k := c.code x.f, count := x.f.i 8 4 + 1, hold := h, failed := none }
    let s3 := { s2 with holds := s2.holds.put h hold }
    let s4 := s3.modUnit c.fid c.ui (fun u => u.setRod i (fun r => { r with fetches := r.fetches.put q e }))
    pure (s4.addMatrix c i (.tfetch h) 64 (c.code x.f) none none)

/-- Fetch entries of a core that a rod's TFETCH cannot take (R315). -/
def State.holdsOf (s : State) (core : Nat) : Nat := (s.holds.filter (fun p => p.2.core == core)).length

/-- TFETCH (R315): one of the core's 16 fetch entries must be free. -/
def execTfetch (f : SFields) (s : State) : Out :=
  match matrixWord formTfetch false (stridePages (fun _ => 64)) tfetchRod f s, s.issuing with
  | .next s', some c => if 16 < s'.holdsOf c.core ∧ s.holdsOf c.core < s'.holdsOf c.core then .next (s.waitWord c) else .next s'
  | o, _ => o

/-- What must happen before a line that a tile fetch names can be read: it waits for no pin (R267, R315). -/
def State.fetchOpen (s : State) (b k line key : Nat) : Option State :=
  if 2 ^ 43 ≤ line then
    (if (s.l2? line).any (fun g => g.serves b key false) then none else some (s.askLine b line key k false true))
  else s.openFor b line false

/-- FETCH_LINE_ARRIVAL (R315, R267): the next line of a performed fetch enters its slice with its claim and is pinned; a line
that no way can take counts as present and is not pinned. What is fetched again at a resume counts in no counter (R424). -/
def execFetchLineArrival (core : Nat) (s : State) : Out :=
  match s.holds.find? (fun p => p.2.core == core && p.2.performed && !p.2.waiting.isEmpty) with
  | none => .next s
  | some (h, x) =>
    match x.waiting with
    | [] => .next s
    | line :: rest =>
      let bay := ((s.frame? x.frame).map (·.bay)).getD 12
      let quiet (t : State) : State := if x.again then t.uncounted s bay else t
      let came (t : State) : State := { quiet t with holds := t.holds.put h { x with waiting := rest } }.tidyHold h
      let key := ((x.rows.flatten.find? (fun q => q.line == line)).map (·.key)).getD 0
      if (s.deniedTo line bay key false).isSome || (decide (line < 2 ^ 43) && !s.canEnter line) then .next (came s)
      else match s.fetchOpen bay x.k line key with
      | some s' => .next (quiet s')
      | none =>
        match (if (s.l2? line).isSome then some s else s.refill key line bay) with
        | none => .next (came s)
        | some s1 =>
          let s2 := (s1.homeRead line (s.claimantOf bay core) x.k (s.ct core) bay).count bay 4 (if bay < 12 then 1 else 0)
          let s3 := match s2.l2? line with
            | some l => if l.way = transientWay then s2.dropTransient line else s2.putLine line { l with pins := insertNum h l.pins }
            | none => s2
          .next (came (s3.turnTaken line (some bay)))

/-! ## Sums (R183 to R185, R308, R309, R314, R317) -/

/-- K of an element width (R59). -/
def kDepth (w : Nat) : Nat := 16 * (512 / (16 * w))

/-- RowSum (R184): the new accumulator and the flags raised. -/
def rowSum (acc : BitVec 32) (ps : List XVal) : BitVec 32 × Flags :=
  let a := fp32.decode acc.toNat
  let inf (n : Bool) : Bool := a == .inf n || ps.any (· == .inf n)
  if a.isNan || ps.any XVal.isNan then (0x7FC00000, 0)
  else if inf false && inf true then (0x7FC00000, fNV)
  else if inf false then (0x7F800000, 0)
  else if inf true then (0xFF800000, 0)
  else
    let t : Int := (ps.foldl (fun (m : Option Int) p => match p with
      | .fin _ n d e => if n = 0 then m else
          let l := floorLog2 n d + e
          some (match m with
            | some k => max k l
            | none => l)
      | _ => m) none).getD 0
    let lsb := t - 86
    let (w, lost) := ps.foldl (fun (st : Int × Bool) p => match p with
      | .fin neg n d e =>
        let (q, r, _) := unitsOf n d e lsb
        (st.1 + (if neg then -(q : Int) else (q : Int)), st.2 || r != 0)
      | _ => st) (0, false)
    let wl := flagIf lost fWL
    let x := (a.add .rne (.fin (decide (w < 0)) w.natAbs 1 lsb)).1
    if x.isZero then
      (if acc = 0x80000000 ∧ ps.all (fun p => p.isZero && p.sign) then 0x80000000 else 0, wl)
    else
      let (r, fl) := fp32.round .rne false 0 x
      (BitVec.ofNat 32 r, wl ||| fl)

/-- The integer value of a product of decoded elements (R309): the product is exact; one that is no integer, which only a customer's
image or a block scale can make, loses its fraction, and no number counts as 0.
Marked: DESIGN CHOICE, not safe, log 97. -/
def intOf (v : XVal) : Int :=
  match v with
  | .fin neg n d e => let m : Nat := if 0 ≤ e then n * 2 ^ e.toNat / d else n / (d * 2 ^ (-e).toNat); if neg then -(m : Int) else m
  | _ => 0

/-- One element of C, on the integer or the float path (R309, R314).
Marked: DESIGN CHOICE, not safe, log 97. -/
def cell (int : Bool) (acc : BitVec 32) (as bs : List XVal) : BitVec 32 × Flags :=
  if int then
    let t := (List.zipWith (fun a b => intOf (a.mul b).1) as bs).foldl (· + ·) 0
    (acc + BitVec.ofInt 32 t, 0)
  else
    let ps := List.zipWith XVal.mul as bs
    let (r, fl) := rowSum acc (ps.map (·.1))
    (r, fl ||| ps.foldl (fun f p => f ||| p.2) 0)

/-- One row of an operand block: its first `k` elements with their scales, and whether a poisoned byte reaches one of them.
Marked: DEDUCED, not safe, log 57. -/
def rowVals (b : Binding) (bytes : List PByte) (scl : List PByte) (koff : Bool) (tscale : XVal) (k : Nat) : List XVal × Bool :=
  let es := elemsOf b.width bytes k
  let blocks := if scl.isEmpty then 0 else ((if koff then 16 else 0) + k + 31) / 32
  (es.zipIdx.map (fun p =>
    let v := b.decode p.1.1
    let v := match scl[((if koff then 16 else 0) + p.2) / 32]? with
      | some sb => (v.mul (e8m0 sb.1.toNat)).1
      | none => v
    (v.mul tscale).1),
   es.any (·.2) || (scl.take blocks).any (·.2))

/-- What the rows of an operand block hold now: each row's bytes and scale group; the rows of a fetch entry are those the operation has
read (R315). -/
def State.blockRows (s : State) (fid : Nat) (b : BlockRef) (read : List PByte) : List (List PByte × List PByte) :=
  let paneBytes (key n : Nat) : List PByte := ((s.frame? fid).map (fun fr => fr.paneBytes key n)).getD []
  (List.range 32).map (fun i =>
    (match b.pane with
      | some key => paneBytes (key + 64 * i) 64
      | none => (read.drop (64 * i)).take 64,
     match b.scl with
      | some key => paneBytes (key + 16 * i) 16
      | none => []))

/-- Key of element `e` of a tile. -/
def tileKey (side tile e : Nat) : Nat := side * 65536 + tile * 1024 + e

/-- An element of a tile, with its poison.
Marked: DESIGN CHOICE, not safe, log 10. -/
def Frame.tileElem (fr : Frame) (side tile e : Nat) : BitVec 32 × Bool :=
  (SMap.get 0 fr.tiles (tileKey side tile e), memb (tileKey side tile e) fr.tilePoison)

/-- Put a whole tile; a clean element clears its poison (R257). -/
def Frame.putTile (fr : Frame) (side tile : Nat) (vals : List (BitVec 32 × Bool)) : Frame :=
  vals.zipIdx.foldl (fun fr p =>
    { fr with tiles := SMap.set 0 fr.tiles (tileKey side tile p.2) p.1.1,
              tilePoison := putNum p.1.2 (tileKey side tile p.2) fr.tilePoison }) fr

/-- The integer path of a pairing of slots (R309). -/
def intPath (fa fb : Binding) : Bool := (fa.kind == 1 || fa.kind == 2) && (fb.kind == 1 || fb.kind == 2)

/-- A product of two operands into a tile: rows of A and of B with their poison (R314). -/
def Frame.multiply (fr : Frame) (side tile : Nat) (int zero : Bool) (as bs : List (List XVal × Bool)) : Frame × Flags :=
  let res := as.zipIdx.flatMap (fun a => bs.zipIdx.map (fun b =>
    let (old, op) := if zero then (0, false) else fr.tileElem side tile (32 * a.2 + b.2)
    let (v, fl) := cell int old a.1.1 b.1.1
    ((v, op || a.1.2 || b.1.2), fl)))
  (fr.putTile side tile (res.map (·.1)), res.foldl (fun f r => f ||| r.2) 0)

/-- The per-tensor scale of an operand (R65, R308): it plays no part on the integer path. -/
def tensorScale (int : Bool) (tsc : BitVec 64) (lo : Nat) : XVal := if int then .fin false 1 1 0 else e8m0 (field tsc.toNat lo 8)

/-- The holds an operation reads. -/
def MatOp.holds (o : MatOp) : List Nat :=
  match o.kind with
  | .mma a b _ _ _ => [a.hold, if a.hold == b.hold then none else b.hold].filterMap id
  | .sums _ a _ _ _ => [a.hold].filterMap id
  | _ => []

/-- The rows of a fetch entry, of 2048 bytes, among the bytes an operation has read. -/
def MatOp.fetched (o : MatOp) (b : BlockRef) : List PByte :=
  match b.hold with
  | none => []
  | some h => (o.data.drop (2048 * (o.holds.takeWhile (· != h)).length)).take 2048

/-- MMA and SUMS performed (R314, R317). -/
def State.runProduct (s : State) (o : MatOp) (fr : Frame) : Frame × Flags :=
  match o.kind with
  | .mma a b fa fb zero =>
    let int := intPath fa fb
    let k := min (kDepth fa.width) (kDepth fb.width)
    let rows (r : BlockRef) (f : Binding) (lo : Nat) : List (List XVal × Bool) :=
      (s.blockRows o.frame r (o.fetched r)).map (fun p => rowVals f p.1 p.2 r.koff (tensorScale int o.tsc lo) k)
    fr.multiply o.side o.tile int zero (rows a fa 0) (rows b fb 8)
  | .sums col a fa z zp =>
    let fz := if fa.kind == 1 || fa.kind == 2 then Binding.int32 else Binding.fp32
    let int := intPath fa fz
    let k := kDepth fa.width
    let block := (s.blockRows o.frame a (o.fetched a)).map (fun p => rowVals fa p.1 p.2 a.koff (tensorScale int o.tsc (if col then 8 else 0)) k)
    let zs := List.replicate 32 (List.replicate k (fz.decode z.toNat), zp)
    if col then fr.multiply o.side o.tile int false zs block else fr.multiply o.side o.tile int false block zs
  | _ => (fr, 0)

/-! ## The queue (R305, R311, R312) -/

/-- The head of a core's queue. -/
def State.matHead (s : State) (core : Nat) : Option (Nat × MatOp) := s.matq.find? (fun p => p.2.core == core)

/-- The global rows an operation reads when it is performed. -/
def State.matRows (s : State) (o : MatOp) : List (List RowRun) :=
  match o.kind with
  | .ald pane rows => if pane then [] else rows
  | _ => o.holds.flatMap (fun h => ((SMap.find s.holds h).map (·.rows)).getD [])

/-- MATRIX_OP_START (R311): the head starts once the shutter lets its job go and its fetched lines are present. -/
def execMatrixOpStart (core : Nat) (s : State) : Out :=
  match s.matHead core with
  | none => .next s
  | some (id, o) =>
    let free := match o.job with
      | none => true
      | some jid => match SMap.find s.jobs jid with
        | some j => s.jobFree jid j
        | none => true
    let present := o.holds.all (fun h => match SMap.find s.holds h with
      | some x => x.performed && x.waiting.isEmpty
      | none => true)
    .next (if free && present then { s with matq := s.matq.put id { o with started := true } } else s)

/-- An operation leaves the queue: its uses are given back and its job goes on to its arrival (R312, R316). -/
def State.matDone (s : State) (id : Nat) (o : MatOp) : State :=
  let s1 := o.holds.foldl State.dropUse { s with matq := s.matq.drop id }
  match o.job with
  | none => s1
  | some jid => match SMap.find s1.jobs jid with
    | some j => s1.jobDone jid j
    | none => s1

/-- A fault that another package returned for a line the operation reads: the word has no effect, and its rod takes the fault
late (R360, R382).
Marked: DEDUCED, not safe, log 55. -/
def State.matFails (s : State) (o : MatOp) (stop : JobStop) : State :=
  ((s.frame? o.frame).elim s (fun fr => s.forgetAsked fr.bay)).modUnit o.frame o.unit (fun u =>
    { u with late := u.late ++ [{ cause := stop.1, imp := true, lane := some o.lane, taddr := stop.2, widx := some o.pc }] })

/-- The producer of a move from the board is filled (R318). -/
def tovEffect (width rod reg : Nat) (lanes : BitVec 64) (g : Nat → BitVec 32 × Bool) : Effect :=
  { writes := (List.range 1024).filterMap (fun e =>
      let l := unitLane width rod (e % width)
      if lanes.getLsbD l then some (.vec (reg + e / width) l (g e).1 (g e).2) else none), flags := [] }

/-- What the head of the queue does when it is performed, every line at hand.
Marked: DESIGN CHOICE, not safe, log 16. -/
def State.performMat (s : State) (id : Nat) (o : MatOp) (fr : Frame) : State :=
  let tileOf (e : Nat) : BitVec 32 × Bool := fr.tileElem o.side o.tile e
  let put (vals : List (BitVec 32 × Bool)) : State := (s.putFrame o.frame (fr.putTile o.side o.tile vals)).matDone id o
  match o.kind with
  | .aclr v p => put (List.replicate 1024 (v, p))
  | .amovTob vals => put vals
  | .amovTov p reg lanes => (s.fillProducer p (tovEffect fr.width o.rod reg lanes tileOf)).matDone id o
  | .ald pane rows =>
    put ((elemsOf 32 (if pane then rows.flatMap (s.rowBytes o.frame true) else o.data) 1024).map (fun e => (BitVec.ofNat 32 e.1, e.2)))
  | .tfetch h =>
    let s1 := { s with holds := s.holds.modify h (fun x => { x with performed := true, waiting := rowLines x.rows }) }
    s1.matDone id o
  | .drain d =>
    let s1 := { s with matq := s.matq.drop id }
    (match o.job with
      | some jid => { s1 with jobs := s1.jobs.modify jid (fun j => { j with kind := .drain d ((List.range 1024).map tileOf), started := true }) }
      | none => s1)
  | _ =>
    let (fr', fl) := s.runProduct o fr
    let s1 := (s.putFrame o.frame fr').modUnit o.frame o.unit (fun u => u.mergeFlags { rod := o.rod, flags := fl, clamps := 0 })
    (s1.count fr.bay 11 (if fr.bay < 12 then 1 else 0)).matDone id o

/-- The runs of an operation's global rows that are still to be read, after some bytes. -/
def runsLeft : List RowRun → Nat → List RowRun
  | [], _ => []
  | q :: qs, n => if n < q.n then q :: qs else runsLeft qs (n - q.n)

/-- What reading an operation's rows comes to: the bytes read so far, whether a line must be waited for, or a refusal. -/
inductive RowsRead where
  | all (bytes : List PByte) (s : State)
  | waits (bytes : List PByte) (s : State)
  | refused (stop : JobStop)

/-- The reads of an operation reach the homes of its lines, one run after the other (R315, R318); those of a fetch entry wait for no
pin (R267). -/
def State.readRuns (s : State) (rd : Reader) (fetched : Bool) : List RowRun → List PByte → RowsRead
  | [], acc => .all acc s
  | q :: qs, acc =>
    match s.rowsDenied rd.who.bay false [[q]] with
    | some stop => .refused stop
    | none => match (if fetched then s.fetchOpen rd.who.bay rd.k q.line q.key
        else s.linesOpen rd.who.bay rd.k false [(q.line, q.key)]) with
      | some s' => .waits acc s'
      | none => (s.touch rd { line := q.line, key := q.key, off := q.off, n := q.n }).readRuns rd fetched qs (acc ++ s.runBytes 0 false q)

/-- MATRIX_OP_COMPLETE (R305, R311, R312): the head of a core's queue is performed, its global rows being read first.
Marked: DESIGN CHOICE, not safe, log 16. -/
def execMatrixOpComplete (core : Nat) (s : State) : Out :=
  match s.matHead core with
  | none => .next s
  | some (id, o) =>
    if !o.started then .next s
    else match s.frame? o.frame with
    | none => .next { s with matq := s.matq.drop id }
    | some fr =>
      let rd : Reader := { who := { bay := fr.bay, level := 0, st := none, core := core }, core := core, clm := s.claimantOf fr.bay core, own := false, k := o.k }
      match s.readRuns rd (!o.holds.isEmpty) (runsLeft (s.matRows o).flatten o.data.length) o.data with
      | .refused stop => .next ((s.matFails o stop).matDone id o)
      | .waits bytes s' => .next { s' with matq := s'.matq.put id { o with data := bytes } }
      | .all bytes s' => .next (s'.performMat id { o with data := bytes } fr)

end Sys2Proof.Machine
end

