-- ==== Sys2Proof/Machine/MemFamily.lean ====
section
/-! DEFINITION. The words of row 0x8 (R272 to R286), each over the shared operations of MemWords. -/

namespace Sys2Proof.Machine

/-- LD (R278). -/
def execLd (f : SFields) (s : State) : Out := ldWord f s

/-- ST (R278). -/
def execSt (f : SFields) (s : State) : Out := stWord f s

/-- LDE (R279). -/
def execLde (f : SFields) (s : State) : Out := ldeWord f s

/-- STE (R279). -/
def execSte (f : SFields) (s : State) : Out := steWord f s

/-- PF (R280). -/
def execPf (f : SFields) (s : State) : Out := pfWord f s

/-- CCTL.IINV (R281). -/
def execCctlIinv (f : SFields) (s : State) : Out := cctlWord false f s

/-- CCTL.L1INV (R281). -/
def execCctlL1inv (f : SFields) (s : State) : Out := cctlWord true f s

/-- ATOM (R282). -/
def execAtom (f : SFields) (s : State) : Out := atomWord formAtom .atomic f s

/-- ATOMC (R282). -/
def execAtomc (f : SFields) (s : State) : Out := atomWord formAtomc .compareSwap f s

/-- RED (R282). -/
def execRed (f : SFields) (s : State) : Out := atomWord formRed .reduce f s

/-- FENCE (R285). -/
def execFence (f : SFields) (s : State) : Out := fenceWord f s

end Sys2Proof.Machine
end

