-- ==== Sys2Proof/Machine/Placement.lean ====
section
/-! DEFINITION. The ready pool, dispatch, placement of frames on cores, exit and retirement, turns, and the copy unit (R35, R69 to
R72, R85 to R88, R96, R103, R104, R107 to R115, R153, R379, R419). -/

namespace Sys2Proof.Machine

/-! ## What a core holds (R109, R110) -/

/-- Frames resident on a core with the side they have there. -/
def State.onCore (s : State) (core : Nat) : List (Frame × Nat) :=
  (s.frames.filter (fun p => !p.2.exited)).flatMap (fun p => (p.2.cores.zipIdx.filter (fun q => q.1 == core)).map (fun q => (p.2, q.2)))

/-- Slots taken on a core. -/
def State.takenSlots (s : State) (core : Nat) : List (Nat × Nat) :=
  (s.onCore core).flatMap (fun q => (q.1.units.filter (fun u => u.side == q.2)).flatMap (·.slots))

/-- Quarters of a core, its granules, scalar sets, pane and tiles (R109, R379). -/
def coreSize (b : Nat) : Nat × Nat × Nat × Nat × Nat := if b = 12 then (1, 64, 128, 64, 0) else (4, 256, 128, 448, 64)

/-- The hardware rods of a frame on one side. -/
def Frame.hardOn (fr : Frame) (side : Nat) : Nat := (fr.units.filter (fun u => u.side == side)).foldl (fun n u => n + u.slots.length) 0

/-- The logical rods of a frame on one side. -/
def Frame.logicalOn (fr : Frame) (side : Nat) : Nat := (fr.units.filter (fun u => u.side == side)).foldl (fun n u => n + u.rods.length) 0

/-- Whether granules, scalar sets, pane and tiles of one side fit on a core beside what is there (R109). -/
def State.fitsOn (s : State) (b core hard logical vgran pane board : Nat) : Bool :=
  let here := s.onCore core
  let used (g : Frame × Nat → Nat) : Nat := (here.map g).sum
  let (_, gran, sets, panes, tiles) := coreSize b
  decide (used (fun q => q.1.hardOn q.2 * q.1.vgran) + hard * vgran ≤ gran) &&
  decide (used (fun q => q.1.logicalOn q.2) + logical ≤ sets) &&
  decide (used (fun q => q.1.pane) + pane ≤ panes) &&
  decide (used (fun q => q.1.board) + board ≤ tiles)

/-- The largest of some numbers by a measure, the lowest on a tie, where the measure is not zero. -/
def mostOf (g : Nat → Nat) (ns : List Nat) : Option Nat :=
  (ns.foldl (fun (best : Option Nat) n => match best with
    | none => if g n = 0 then none else some n
    | some m => if g m < g n then some n else some m) none)

/-- A slot for the next rod (R110): the quarter with the most free slots, or free pairs of slots, and its lowest one there. -/
def nextSlot (pair : Bool) (quarters : Nat) (taken : List (Nat × Nat)) : Option (List (Nat × Nat)) :=
  let free (q n : Nat) : Bool := !taken.any (fun p => p == (q, n))
  let starts (q : Nat) : List Nat :=
    if pair then ((List.range 8).map (2 * ·)).filter (fun n => free q n && free q (n + 1)) else (List.range 16).filter (free q)
  match mostOf (fun q => (starts q).length) (List.range quarters) with
  | none => none
  | some q => match starts q with
    | n :: _ => some (if pair then [(q, n), (q, n + 1)] else [(q, n)])
    | [] => none

/-- Slots for a number of issuing units, in ascending order (R110). -/
def takeSlots (pair : Bool) (quarters : Nat) : Nat → List (Nat × Nat) → Option (List (List (Nat × Nat)))
  | 0, _ => some []
  | n + 1, taken =>
    match nextSlot pair quarters taken with
    | none => none
    | some sl => (takeSlots pair quarters n (taken ++ sl)).map (sl :: ·)

/-- Issuing units for some logical rods of a width. -/
def unitCount (width rods : Nat) : Nat := if width = 16 then (rods + 1) / 2 else rods

/-! ## Image positions (R52, R70, R72) -/

/-- The position of a vendor image. -/
def vendorPos (n : Nat) : Nat := (vendorNumbers.findIdx? (· == n)).getD 0

/-- Whether some unfinished operation of a core converts through an image (R72). -/
def State.imageBusy (s : State) (core : Nat) (i : Image) : Bool :=
  s.jobs.any (fun p => p.2.core == core && (match p.2.kind with
    | .copyConvert a d _ _ _ => a == .image i || d == .image i
    | .drain d _ => d.fd == .image i
    | _ => false)) ||
  s.matq.any (fun p => p.2.core == core && (match p.2.kind with
    | .mma _ _ a b _ => a == .image i || b == .image i
    | .sums _ _ a _ _ => a == .image i
    | .drain d => d.fd == .image i
    | _ => false))

/-- Whether a position of a core is free (R70): no resident frame names it, no node retains a withdrawn image of it (R69), and
nothing issued through it is unfinished (R72). -/
def State.posFree (s : State) (core pos : Nat) : Bool :=
  (SMap.find s.chip.stripLoads (posKey core pos)).isNone &&
  (match SMap.find s.chip.strips (posKey core pos) with
    | none => true
    | some i =>
      !(s.onCore core).any (fun q => q.1.positions.any (fun p => p.1 / 16 == q.2 && p.2 == pos)) &&
      !s.nodes.any (fun n => (s.bay n.2.bay).store.any (fun x => x.withdrawn && x.image == i) && (customImages n.2.bindings).any (· == i)) &&
      !s.imageBusy core i)

/-- The customer position of a core that holds an image. -/
def State.posOf (s : State) (core : Nat) (i : Image) : Option Nat :=
  (List.range 6).findSome? (fun n => if SMap.find s.chip.strips (posKey core (18 + n)) = some i then some (18 + n) else none)

/-- The position of a core that is being loaded with an image. -/
def State.posLoading (s : State) (core : Nat) (i : Image) : Bool :=
  (List.range 6).any (fun n => SMap.find s.chip.stripLoads (posKey core (18 + n)) == some i)

/-- Free customer positions of a core.
Marked: DEDUCED, not safe, log 49. -/
def State.freePositions (s : State) (core : Nat) : List Nat := ((List.range 6).map (18 + ·)).filter (s.posFree core)

/-- Customer images a core does not hold and is not loading. -/
def State.missingImages (s : State) (core : Nat) (is : List Image) : List Image :=
  is.filter (fun i => (s.posOf core i).isNone && !s.posLoading core i)

/-- Positions an image set can take on a core. -/
def State.positionsFit (s : State) (core : Nat) (is : List Image) : Bool :=
  let kept := is.filterMap (s.posOf core)
  decide ((s.missingImages core is).length ≤ ((s.freePositions core).filter (fun p => !memb p kept)).length)

/-- Start the loads that a core still needs; none when all its images are resident.
Marked: DEDUCED, not safe, log 49. -/
def State.startLoads (s : State) (core : Nat) (is : List Image) : Option State :=
  if is.all (fun i => (s.posOf core i).isSome) then none
  else
    let kept := is.filterMap (s.posOf core)
    let free := (s.freePositions core).filter (fun p => !memb p kept)
    some (((s.missingImages core is).zip free).foldl (fun s q =>
      s.modChip (fun c => { c with strips := c.strips.drop (posKey core q.2), stripLoads := c.stripLoads.put (posKey core q.2) q.1 })) s)

/-- Positions of a frame's slots on its cores, keyed by side × 16 + slot. -/
def State.slotPositions (s : State) (cores : List Nat) (m : SMap Binding) : SMap Nat :=
  cores.zipIdx.flatMap (fun q => m.filterMap (fun p => match p.2 with
    | .image i => some (q.2 * 16 + p.1, if i.isCustom then (s.posOf q.1 i).getD 18 else vendorPos i.libnum)
    | _ => none))

/-! ## Building a frame (R35, R106, R107, R140, R164) -/

/-- An empty unit at placement. -/
def RodUnit.initial (width side rodBase logical : Nat) (slots : List (Nat × Nat)) (entry : Nat) (pri : BitVec 8) : RodUnit :=
  { side := side, slots := slots, rodBase := rodBase, vregs := [], vEmpty := [], vPoison := [], preds := [], pEmpty := [], pPoison := [],
    rods := List.replicate logical (LRod.initial width),
    frontier := [{ pc := entry, pri := pri, lanes := if width = 16 then lowLanes (16 * logical) else lowLanes width }],
    transom := none, waits := [], pause := none, handler := none, halted := false, point := [], late := [], observed := [],
    blocked := none, fresh := true }

/-- The units of one side. -/
def sideUnits (width side base rods : Nat) (slots : List (List (Nat × Nat))) (entry : Nat) (pri : BitVec 8) : List RodUnit :=
  slots.zipIdx.map (fun q =>
    let per := if width = 16 then 2 else 1
    RodUnit.initial width side (base + per * q.2) (min per (rods - per * q.2)) q.1 entry pri)

/-- A frame of a node on its cores, before it starts.
Marked: DESIGN CHOICE, not safe, log 10. -/
def buildFrame (nid : Nat) (n : Node) (d : Descriptor) (idx lvl : Nat) (cores bayCores : List Nat)
    (slots : List (List (List (Nat × Nat)))) (positions : SMap Nat) : Frame :=
  let (gx, gy, _) := recGrid n.words
  let counts := sideRods d.span d.rods
  let first := (counts[0]?).getD 0
  { node := nid, bay := n.bay, level := lvl, frameId := BitVec.ofNat 32 idx, x := idx % gx, y := idx / gx % gy, z := idx / gx / gy,
    karg := recWord n.words 3, width := d.width, rods := d.rods, vgran := d.vgran, pane := d.pane, board := d.board,
    sides := cores.length, cores := cores, bayCores := bayCores, codeBase := d.codeBase, codeWords := d.codeWords, ftab := d.ftab,
    ftlen := d.ftlen, ppt := d.ppt, bindings := n.bindings, positions := positions,
    units := slots.zipIdx.flatMap (fun q =>
      sideUnits d.width q.2 (if q.2 = 0 then 0 else first) ((counts[q.2]?).getD 0) q.1 d.entry d.entryPri),
    paneMem := [], panePoison := [], tiles := [], tilePoison := [], rclk := 0, haltReq := false, timedOut := false, term := none,
    arrivals := [] }

/-- Whether a frame fits on a core or pair, by R109 and R110; the slots of each side. -/
def State.fits (s : State) (b : Nat) (width vgran pane board : Nat) (counts : List Nat) (images : List Image) (cores : List Nat) :
    Option (List (List (List (Nat × Nat)))) :=
  let (quarters, _, _, _, _) := coreSize b
  (cores.zip counts).mapM (fun q =>
    if s.fitsOn b q.1 (hardRods width q.2) q.2 vgran pane board && s.positionsFit q.1 images then
      takeSlots (width == 64) quarters (unitCount width q.2) (s.takenSlots q.1)
    else none)

/-- The cores tried from the cursor: single cores, or pairs (R111). -/
def State.tries (s : State) (b : Nat) (span : Bool) : List (List Nat) :=
  let y := s.bay b
  let n := (s.bayCores b).length
  if span then (List.range (n / 2)).map (fun i => let k := (y.pairCursor + i) % (n / 2); [2 * k, 2 * k + 1])
  else (List.range n).map (fun i => [(y.cursor + i) % n])

/-- A frame enters its cores: TL is cleared where no frame of the bay is resident (R255). -/
def State.enterCores (s : State) (b : Nat) (cores : List Nat) : State :=
  cores.foldl (fun s core =>
    if (s.onCore core).any (fun q => q.1.bay == b) then s
    else s.modChip (fun c => { c with throttle := SMap.set 0 c.throttle core 0 })) s

/-- The node whose frames are being placed. -/
def State.dispatching (s : State) (b : Nat) : Option (Nat × Node) := (s.bayNodes b).find? (fun p => p.2.state == .dispatching)

/-- Every image of a frame is resident on every core it takes (R70, R112). -/
def State.allResident (s : State) (cores : List Nat) (images : List Image) : Bool :=
  cores.all (fun core => images.all (fun i => (s.posOf core i).isSome))

/-- A placement is in progress while its images are loaded, on every core at the same time (R70, R112). -/
def State.beginPlacement (s : State) (b : Nat) (p : Placement) (cores : List Nat) (images : List Image) : State :=
  (cores.foldl (fun s core => (s.startLoads core images).getD s) s).modBay b (fun y => { y with placing := some p })

/-- A halt request to a frame: its pauses end (R167).
Marked: DEDUCED, safe, log 88. -/
def Frame.askHalt (fr : Frame) : Frame :=
  if fr.haltReq then fr
  else { fr with haltReq := true, timedOut := false, units := fr.units.map (fun u => { u with pause := none }) }

/-- A placement is complete: what arrived meanwhile takes effect (R112, R405). -/
def State.placed (s : State) (b fid : Nat) : State :=
  let s1 := if (s.bay b).saving then s.modFrame fid Frame.askHalt else s
  s1.modBay b (fun y => { y with placing := none })

/-- The next frame of a grid takes its place (R112). -/
def State.seatFrame (s : State) (b nid : Nat) (n : Node) (d : Descriptor) (t : List Nat) (slots : List (List (List (Nat × Nat)))) : State :=
  let cores := t.map (s.coreOf b)
  let (fid, s1) := (s.enterCores b cores).fresh
  let fr := buildFrame nid n d n.nextFrame (queueLevel b n.queue) cores t slots (s1.slotPositions cores n.bindings)
  let total := (s.bayCores b).length
  let s2 := (cores.foldl (fun s core => s.syncCore core) (s1.putFrame fid fr)).modBay b (fun y =>
    if d.span then { y with pairCursor := (t.headD 0 / 2 + 1) % (total / 2) } else { y with cursor := (t.headD 0 + 1) % total })
  (s2.modNode nid (fun n => { n with
    nextFrame := n.nextFrame + 1, live := n.live + 1
    state := if n.nextFrame + 1 = recFrames n.words then .running else n.state })).placed b fid

/-- A placement where the frame fits first (R111, R112): the images are loaded first where they are not resident. -/
def State.placeFrame (s : State) (b nid : Nat) (n : Node) (d : Descriptor) : State :=
  let images := customImages n.bindings
  let counts := sideRods d.span d.rods
  match (s.tries b d.span).findSome? (fun t =>
      (s.fits b d.width d.vgran d.pane d.board counts images (t.map (s.coreOf b))).map (fun sl => (t, sl))) with
  | none => s
  | some (t, slots) =>
    let cores := t.map (s.coreOf b)
    if s.allResident cores images then s.seatFrame b nid n d t slots
    else s.beginPlacement b { resume := none, cores := t, slots := slots } cores images

/-- A placement in progress goes on: it is completed once its images are resident, whatever request arrives meanwhile (R112). -/
def State.goOnPlacing (s : State) (b nid : Nat) (n : Node) (d : Descriptor) (p : Placement) : State :=
  let cores := p.cores.map (s.coreOf b)
  let images := customImages n.bindings
  if s.allResident cores images then s.seatFrame b nid n d p.cores p.slots else s.beginPlacement b p cores images

/-- FRAME_PLACE (R112): saved frames come first (R115). -/
def execFramePlace (bay : Nat) (s : State) : Out :=
  match s.dispatching bay, (s.bay bay).placing with
  | some (nid, n), some p =>
    (match n.desc with
      | some d => .next (if p.resume.isSome then s else s.goOnPlacing bay nid n d p)
      | none => .next s)
  | some (nid, n), none =>
    (match n.desc with
      | some d => .next (if s.placesNow bay && (s.bay bay).saved.isEmpty then s.placeFrame bay nid n d else s)
      | none => .next s)
  | none, _ => .next s

/-- IMAGE_POSITION_RECONFIG (R72). -/
def execImagePositionReconfig (core pos : Nat) (s : State) : Out :=
  match SMap.find s.chip.stripLoads (posKey core pos) with
  | none => .next s
  | some i => .next (s.modChip (fun c => { c with
      strips := c.strips.put (posKey core pos) i, stripLoads := c.stripLoads.drop (posKey core pos) }))

/-! ## The pool (R87) -/

/-- Whether a node stands before another in the pool. -/
def Node.ahead (a b : Node) : Bool := decide (a.cls < b.cls) || (a.cls == b.cls && decide (a.entered < b.entered))

/-- The head of a bay's pool; a grid whose frames are being placed still stands in it and holds back every node behind it.
Marked: DESIGN CHOICE, not safe, log 11. -/
def State.poolHead (s : State) (b : Nat) : Option (Nat × Node) :=
  ((s.bayNodes b).filter (fun p => p.2.state == .ready || p.2.state == .dispatching)).foldl (fun best p => match best with
    | none => some p
    | some q => if p.2.ahead q.2 then some p else some q) none

/-- A node leaves the pool: it takes the bay's DSEQ as its number; the steward core's nodes take none (R419, R420). -/
def State.leavePool (s : State) (b nid : Nat) (st : NodeState) : State :=
  if b = 12 then s.modNode nid (fun n => { n with state := st })
  else
    let d := (s.bay b).dseq
    (s.modNode nid (fun n => { n with state := st, dispatch := some d.toNat })).modBay b (fun y => { y with dseq := d + 1 })

/-- GRID_DISPATCH (R87): one grid at a time, while placement is open and once the saved frames are placed (R104). -/
def execGridDispatch (bay : Nat) (s : State) : Out :=
  match s.poolHead bay, s.dispatching bay with
  | some (nid, n), none => .next (if recKind n.words = 0 ∧ s.placesNow bay ∧ (s.bay bay).saved.isEmpty then s.leavePool bay nid .dispatching else s)
  | _, _ => .next s

/-- COPY_NODE_START (R87): fewer than 8 copies of the bay run. -/
def execCopyNodeStart (bay : Nat) (s : State) : Out :=
  match s.poolHead bay with
  | some (nid, n) =>
    .next (if n.state = .ready ∧ recKind n.words = 1 ∧ ((s.bayNodes bay).filter (fun p => recKind p.2.words == 1 &&
        (p.2.state == .running || p.2.state == .draining))).length < 8
      then s.leavePool bay nid .running else s)
  | none => .next s

/-- POOL_AGEING (R87).
Marked: DESIGN CHOICE, not safe, log 13. -/
def execPoolAgeing (node : Nat) (s : State) : Out :=
  match SMap.find s.nodes node with
  | some n => .next (if n.state = .ready ∧ (s.bay n.bay).age ≠ 0 ∧ n.bay ≠ 12 then
      s.modNode node (fun n => { n with cls := n.cls - 1, aged := n.aged + 1 }) else s)
  | none => .next s

/-! ## Copy nodes (R80, R86, R88) -/

/-- The n-th byte's address of a window. -/
def Window.at (w : Window) (n : Nat) : Nat := w.base + n / w.len * w.stride + n % w.len

/-- Bytes that stand together from the n-th on in both windows, within one line of each. -/
def copyRun (r w : Window) (n : Nat) : Nat :=
  min (min (r.len - n % r.len) (w.len - n % w.len)) (min (128 - r.at n % 128) (128 - w.at n % 128))

/-- What a copy comes to; one that stops or waits for a line tells how many bytes it has written. -/
inductive CopyEnd where
  | done (s : State)
  | stopped (cause n : Nat) (s : State)
  | waits (n : Nat) (s : State)

/-- The copy from byte `n` on, run by run; poisoned bytes are copied as zero data with poison (R257). -/
def State.copyFrom (s : State) (rd : Reader) (r w : Window) : Nat → Nat → CopyEnd
  | 0, _ => .done s
  | fuel + 1, n =>
    if r.bytes ≤ n then .done s
    else
      let k := copyRun r w n
      match s.openLines rd.who.bay (s.walkLines rd.who.bay [w.at n]), s.bulkRead rd (r.at n) k with
      | some s', _ => .waits n s'
      | none, .waits s' => .waits n s'
      | none, .fault c _ => .stopped c n s
      | none, .value bs poison s1 =>
        match s.places rd .write (lineRuns (w.at n) k) with
        | .error (c, _) => .stopped c n s1
        | .ok ps =>
          match s.linesOpen rd.who.bay rd.k true (ps.map (fun p => (p.line, p.key))) with
          | some s' => .waits n s'
          | none => ((s1.walkedAll rd.who.bay rd.core [w.at n]).putRuns rd poison ps (if poison then bs.map (fun _ => 0) else bs)).copyFrom
              rd r w fuel (n + k)

/-- COPY_NODE_COMPLETE (R80): every byte is written, or a fault stops the copy with the bytes before it written.
Marked: DEDUCED, not safe, log 19. -/
def execCopyNodeComplete (node : Nat) (s : State) : Out :=
  match SMap.find s.nodes node with
  | none => .next s
  | some n =>
    if n.state ≠ .running ∨ recKind n.words ≠ 1 then .next s
    else match recReads n.words, recWrites n.words with
      | [r], [w] =>
        let rd : Reader := { acceptReader n.bay (queueLevel n.bay n.queue) with own := false, clm := 256 }
        let written (m : Nat) : Nat := if n.bay < 12 then m - n.copied else 0
        match s.copyFrom rd r w r.bytes n.copied with
        | .done s' => .next ((s'.modNode node (fun n => { n with state := .draining })).count n.bay 12 (written r.bytes))
        | .stopped c m s' => .next (((s'.forgetAsked n.bay).modNode node (fun n => { n with state := .draining, cause := some (n.cause.getD c) })).count n.bay 12
            (written m))
        | .waits m s' => .next ((s'.modNode node (fun n => { n with copied := m })).count n.bay 12 (written m))
      | _, _ => .next s

/-! ## Exit and retirement (R86, R114, R153) -/

/-- Everything a frame issued has come to its end. -/
def State.frameDrained (s : State) (fid : Nat) : Bool :=
  !s.ops.any (fun p => p.2.frame == fid) && !s.jobs.any (fun p => p.2.frame == fid) && !s.matq.any (fun p => p.2.frame == fid) &&
  !s.producers.any (fun p => p.2.frame == fid) && !s.loads.any (fun p => (SMap.find s.producers p.2.producer).any (fun q => q.frame == fid))

/-- A job names its frame's pane or board: by a window, by its latch, or as a matrix job by its tile (R153). -/
def Job.namesPane (j : Job) : Bool := (j.reads ++ j.writes).any (·.pane) || j.latch.isSome || (match j.kind with
  | .matrix => true
  | .drain _ _ => true
  | _ => false)

/-- Every job of a frame that names its pane or its board has completed (R153). -/
def State.paneFree (s : State) (fid : Nat) : Bool :=
  !s.jobs.any (fun p => p.2.frame == fid && p.2.namesPane) && !s.matq.any (fun p => p.2.frame == fid)

/-- Every thread has executed EXIT. -/
def Frame.allExited (fr : Frame) : Bool := fr.units.all (fun u => u.frontier.isEmpty && u.waits.isEmpty)

/-- What a frame's end reports: its termination, or a job fault that no word delivered (R338, R388). -/
def Frame.endCause (fr : Frame) : Option Nat :=
  fr.term.orElse (fun _ => if fr.units.any (fun u => u.rods.any (fun r => r.jobFault.isSome)) then some 0x388 else none)

/-- A frame leaves its cores for good: its allocations are free, and its node learns its end (R86, R114, R153).
Marked: DEDUCED, not safe, log 105. -/
def State.frameEnds (s : State) (fid : Nat) : State :=
  match s.frame? fid with
  | none => s
  | some fr =>
    let s1 := (s.dropHolds fid).putFrame fid { fr with exited := true }
    { s1 with
      fences := s1.fences.filter (fun p => p.2.frame != fid)
      nodes := s1.nodes.modify fr.node (fun n =>
        let n := { n with live := n.live - 1, cause := n.cause.orElse (fun _ => fr.endCause) }
        if n.live = 0 ∧ n.state = .running then { n with state := .draining } else n) }

/-- Nothing is left of a frame that has exited once all that it issued has come to its end; a job fault or a poisoned index that came so
late is told to its node too (R85, R86, R338).
Marked: DEDUCED, not safe, log 105. -/
def State.dropExited (s : State) (fid : Nat) : State :=
  match s.frame? fid with
  | none => s
  | some fr =>
    if !fr.exited || !s.frameDrained fid then s
    else { s with
      frames := s.frames.drop fid
      nodes := s.nodes.modify fr.node (fun n => { n with cause := n.cause.orElse (fun _ => fr.endCause) }) }

/-- A node that waited for another one waits no more for it. -/
def Node.unblock (n : Node) (done now : Nat) : Node :=
  if memb done n.preds then
    let q := { n with preds := removeNum done n.preds }
    if q.preds.isEmpty && q.state == .waiting then q.released now else q
  else n

/-- Every write of a node is performed at DEV scope, and at SYS scope where it writes a completion pair (R85, R86, R368).
Marked: DEDUCED, not safe, log 105. -/
def State.nodeDone (s : State) (nid : Nat) (n : Node) : Bool :=
  !s.frames.any (fun p => p.2.node == nid) && (recWord n.words 4 == 0 || !s.sysPending)

/-- NODE_RETIRE (R86): the releases, then successors' counts fall, then the completion pair and the interrupt. -/
def execNodeRetire (node : Nat) (s : State) : Out :=
  match SMap.find s.nodes node with
  | none => .next s
  | some n =>
    if n.state ≠ .draining ∨ !s.nodeDone node n then .next s
    else
      let freed := { s with nodes := (s.nodes.drop node).map (fun (p : Nat × Node) => (p.1, p.2.unblock node s.now)) }
      let (s1, done) := freed.completion n.bay (queueLevel n.bay n.queue) n.words n.cause
      if !done then .next { s1 with nodes := s.nodes }
      else
        let s2 := (s1.forgetAsked n.bay).count n.bay 14 (if n.bay < 12 then 1 else 0)
        match (s2.bay n.bay).queue? n.queue with
        | some k => .next (if recIrq n.words && k.irqCmp then s2.queueIrq n.bay n.queue k else s2)
        | none => .next s2

end Sys2Proof.Machine
end

