-- ==== Sys2Proof/Machine/Registers.lean ====
section
/-! DEFINITION. Registers and windows that the host reaches: the writes that have no other row, and every read (R7, R8, R23, R26,
R29, R39, R74, R75, R357, R404, R419, R421, R430, R431). -/

namespace Sys2Proof.Machine

/-! ## Virtual functions (R430) -/

/-- A bay that must keep its binding. -/
def State.bound (s : State) (fn : Nat) : Bool :=
  match SMap.find s.chip.vfbind fn with
  | some b => (s.bay b).state == .reserved
  | none => false

/-- VFBIND_WRITE (R430). -/
def execVfbindWrite (fn : Nat) (v : BitVec 64) (s : State) : Out :=
  let b := field v.toNat 0 4
  .next (if !s.barOpen ∨ fn = 0 ∨ 12 < fn ∨ s.bound fn then s
    else if v.getLsbD 63 then
      if 11 < b ∨ (s.bay b).state = .reserved ∨ s.chip.vfbind.any (fun p => p.1 != fn && p.2 == b) then s
      else s.modChip (fun c => { c with vfbind := c.vfbind.put fn b, vfBay := SMap.set 0 c.vfBay fn b })
    else s.modChip (fun c => { c with vfbind := c.vfbind.drop fn }))

/-! ## Counters (R421) -/

/-- CLR of a bay's CTRCTL: every counter and every held event becomes 0 (R421). -/
def State.clearCounters (s : State) (b : Nat) : State :=
  s.modBay b (fun y => { y with counters := List.replicate 16 0, heldEvents := List.replicate 16 0 })

/-- FREEZE of a bay's CTRCTL takes a value (R421). -/
def State.setFreeze (s : State) (b : Nat) (v : Bool) : State := if v then s.modBay b (fun y => { y with freeze := true }) else s.thaw b

/-- A write of a bay's CTRCTL: CLR clears first, then FREEZE holds what was written (R421). -/
def State.counterControl (s : State) (b : Nat) (v : BitVec 64) : State :=
  if s.barOpen ∧ b < 12 then (if v.getLsbD 1 then s.clearCounters b else s).setFreeze b (v.getLsbD 0) else s

/-- COUNTER_CLEAR (R421). -/
def execCounterClear (bay : Nat) (s : State) : Out := .next (if s.barOpen ∧ bay < 12 then s.clearCounters bay else s)

/-- COUNTER_FREEZE (R421). -/
def execCounterFreeze (bay : Nat) (v : Bool) (s : State) : Out := .next (if s.barOpen ∧ bay < 12 then s.setFreeze bay v else s)

/-! ## Registers without a row of their own (R7) -/

/-- A write of QBASE or QSTAT of a queue (R75): BASE is ignored while EN is 1; VALID and MORE clear where a 1 is written. -/
def State.queueRegister (s : State) (b queue off : Nat) (v : BitVec 64) : State :=
  if !s.queueLives b queue then s
  else s.modBay b (fun y => y.modQueue (queueOf queue) (fun k =>
    match off with
    | 0x00 => if k.en then k else { k with base := v &&& 0xFFFFFFFFFFFFFF00 }
    | 0x20 => { k with statValid := k.statValid && !v.getLsbD 63, statMore := k.statMore && !v.getLsbD 62 }
    | _ => k))

/-- LOCAL address of the staging area (R431). -/
def stagingBase : Nat := 0x17FFC000000

/-- Whether the home takes the host's access to a line of the staging area, a steward access under key 0 (R249, R431). -/
def State.stagingOpen (s : State) (a : AccKind) (off : Nat) : Bool :=
  s.chip.boot.ready && (s.homeCause { bay := 12, level := 2, st := none } a 0 (stagingBase + off)).isNone

/-- The bytes of a host access that lie below 64 MiB of BAR2, cut at lines: offset and length of each run. -/
def bar2Runs (off n : Nat) : List (Nat × Nat) := lineRuns off (min n (2 ^ 26 - off))

/-- A write of `n` bytes at an offset of BAR2 of the physical function, as one: the recovery window (R26), or the staging area (R39, R431).
Bytes beyond 64 MiB go nowhere.
Marked: DESIGN CHOICE, not safe, log 108. -/
def State.bar2 (s : State) (n off : Nat) (v : BitVec 128) : State :=
  if !s.barOpen then s
  else
    let bytes (r : Nat × Nat) : List Byte := ((toBytes n v.toNat).drop (r.1 - off)).take r.2
    (bar2Runs off n).foldl (fun s r =>
      if s.chip.boot.recov then
        s.modChip (fun c => { c with window := (bytes r).zipIdx.foldl (fun w p => SMap.set 0 w (r.1 + p.2) p.1) c.window })
      else if s.stagingOpen .write r.1 then s.areaPut 0 (stagingBase + r.1) (bytes r)
      else s) s

/-- Bytes of an access to BAR2, by the space that names it. -/
def bar2Size (space : Nat) : Option Nat :=
  match space with
  | 2 => some 8
  | 3 => some 16
  | 4 => some 1
  | 5 => some 2
  | 6 => some 4
  | _ => none

/-- REGISTER_WRITE (R7): space 0 is BAR0 of the physical function, 2 its BAR2 (3: in 16 bytes, 4, 5 and 6: in 1, 2 and 4 bytes), and
16 + v BAR0 of virtual function v. -/
def execRegisterWrite (space offset : Nat) (v : BitVec 128) (s : State) : Out :=
  let w := v.setWidth 64
  .next (
    if space = 0 then
      if 0x2000 ≤ offset ∧ offset < 0x2300 then s.queueRegister ((offset - 0x2000) / 0x40) 0 (offset % 0x40) w
      else if 0x3000 ≤ offset ∧ offset < 0x3040 then s.queueRegister 12 0 (offset % 0x40) w
      else if 0x5000 ≤ offset ∧ offset < 0x5C00 ∧ offset % 0x100 = 0 then s.counterControl ((offset - 0x5000) / 0x100) w
      else s
    else match bar2Size space with
    | some n => s.bar2 n offset v
    | none => match (if 16 ≤ space then SMap.find s.chip.vfbind (space - 16) else none) with
      | some b =>
        if 0x1000 ≤ offset ∧ offset < 0x1400 then s.queueRegister b ((offset - 0x1000) / 0x40 + 1) (offset % 0x40) w
        else if offset = 0x2000 ∧ s.vfOpen then s.counterControl b w
        else s
      | none => s)

/-! ## Reads (R7, R8)

Reserved bits and write-only fields read zero. -/

/-- A field of a register read. -/
def fieldAt (pos n : Nat) : BitVec 64 := BitVec.ofNat 64 n <<< pos

/-- A flag of a register read. -/
def flagAt (pos : Nat) (b : Bool) : BitVec 64 := fieldAt pos b.toNat

/-- BOOTST (R29). -/
def BootSt.word (b : BootSt) : BitVec 64 :=
  fieldAt 24 b.stage.toNat ||| fieldAt 16 b.err.toNat ||| fieldAt 8 b.svn.toNat ||| flagAt 3 b.recov ||| flagAt 2 b.halt ||| flagAt 1 b.ready

/-- DOMCTL (R357). -/
def DomCtl.word (d : DomCtl) : BitVec 64 :=
  flagAt 33 d.busy ||| flagAt 32 d.mode ||| fieldAt 24 d.err.toNat ||| fieldAt 16 d.seqpkg.toNat ||| fieldAt 0 d.pkgnum.toNat

/-- VFBIND of a virtual function (R430). -/
def State.vfbindWord (s : State) (fn : Nat) : BitVec 64 :=
  flagAt 63 (SMap.find s.chip.vfbind fn).isSome ||| fieldAt 0 (SMap.get 0 s.chip.vfBay fn)

/-- A register of a queue (R75). -/
def Queue.word (q : Queue) (off : Nat) : BitVec 64 :=
  match off with
  | 0x00 => q.base
  | 0x08 => fieldAt 16 q.msiv.toNat ||| fieldAt 4 q.log2n.toNat ||| flagAt 3 q.irqRef ||| flagAt 2 q.irqCmp ||| flagAt 0 q.en
  | 0x10 => fieldAt 0 q.tail.toNat
  | 0x18 => fieldAt 0 q.head.toNat
  | 0x20 => flagAt 63 q.statValid ||| flagAt 62 q.statMore ||| fieldAt 32 q.statIndex.toNat ||| fieldAt 0 q.statCause.toNat
  | _ => 0

/-- A register of a queue as its function reads it: zero where the queue does not answer (R74). -/
def State.queueWord (s : State) (b n off : Nat) : BitVec 64 :=
  if s.queueLives b n then (((s.bay b).queue? (queueOf n)).map (fun q => q.word off)).getD 0 else 0

/-- A register of a save control block (R404). -/
def SaveCtl.word (c : SaveCtl) (off : Nat) : BitVec 64 :=
  match off with
  | 0x00 => c.base
  | 0x08 => fieldAt 32 c.pto ||| fieldAt 8 c.key.toNat ||| flagAt 1 c.importBit ||| flagAt 0 c.graph
  | 0x10 => c.fmaskLo
  | 0x18 => c.fmaskHi
  | 0x20 => flagAt 63 c.busy ||| fieldAt 48 c.err.toNat ||| fieldAt 0 (c.saved.toNat % 2 ^ 16)
  | _ => 0

/-- A register of a bay's save control block; BUSY is 1 while a saved frame is being resumed too (R404, R412). -/
def Bay.saveWord (y : Bay) (off : Nat) : BitVec 64 :=
  SaveCtl.word { y.ctl with busy := y.ctl.busy || y.placing.any (·.resume.isSome) } off

/-- OLDEST (R419): the smallest dispatch number of the bay's unretired nodes, or DSEQ where none has one. -/
def State.oldest (s : State) (b : Nat) : Nat :=
  (s.nodes.filterMap (fun p => if p.2.bay = b then p.2.dispatch else none)).foldl min (s.bay b).dseq.toNat

/-- A register of a bay's counter block (R421). -/
def State.counterWord (s : State) (b off : Nat) : BitVec 64 :=
  let y := s.bay b
  if off % 8 ≠ 0 then 0
  else if off = 0 then flagAt 0 y.freeze
  else if off < 0x88 then y.counters.getD (off / 8 - 1) 0
  else if off = 0x88 then BitVec.ofNat 64 y.dseq.toNat
  else if off = 0x90 then BitVec.ofNat 64 (s.oldest b)
  else if off = 0x98 then fieldAt 0 y.cred
  else 0

/-- How a host read completes: its data, and whether the completion is a poisoned TLP (R257). -/
structure HostRead where
  data : BitVec 128
  poisoned : Bool
  deriving DecidableEq, Repr

/-- A run of bytes of BAR2 as the host reads it, and whether it is poisoned, which gives zero data. -/
def State.bar2Run (s : State) (r : Nat × Nat) : List Byte × Bool :=
  if s.chip.boot.recov then ((List.range r.2).map (fun i => SMap.get 0 s.chip.window (r.1 + i)), false)
  else if s.stagingOpen .read r.1 then
    let (bs, bad, _) := s.areaGet 0 (stagingBase + r.1) r.2
    (if bad then List.replicate r.2 0 else bs, bad)
  else ((List.range r.2).map (fun i => (Config.refusedRead (r.1 + i)).setWidth 8), false)

/-- A read of `n` bytes at an offset of BAR2: the recovery window (R26), or the staging area (R257, R431).
Marked: DESIGN CHOICE, not safe, log 108. -/
def State.bar2Read (s : State) (n off : Nat) : HostRead :=
  let rs := (bar2Runs off n).map s.bar2Run
  { data := BitVec.ofNat 128 (ofBytes (rs.flatMap (·.1))), poisoned := rs.any (·.2) }

/-- A read of BAR0 of the physical function. -/
def State.bar0Read (s : State) (off : Nat) : BitVec 64 :=
  if off % 8 ≠ 0 then 0
  else if off = 0 then s.chip.boot.word
  else if off = 0x100 then s.chip.dom.word
  else if 0x200 ≤ off ∧ off < 0x260 then s.vfbindWord ((off - 0x200) / 8 + 1)
  else if 0x2000 ≤ off ∧ off < 0x2300 then s.queueWord ((off - 0x2000) / 0x40) 0 (off % 0x40)
  else if 0x3000 ≤ off ∧ off < 0x3040 then s.queueWord 12 0 (off % 0x40)
  else if 0x4000 ≤ off ∧ off < 0x4300 then (s.bay ((off - 0x4000) / 0x40)).saveWord (off % 0x40)
  else if 0x5000 ≤ off ∧ off < 0x5C00 then s.counterWord ((off - 0x5000) / 0x100) (off % 0x100)
  else 0

/-- A read of BAR0 of a virtual function: zero where it is bound to no bay (R74, R421) or not enabled (R26). -/
def State.vfRead (s : State) (fn off : Nat) : BitVec 64 :=
  match (if s.vfOpen then SMap.find s.chip.vfbind fn else none) with
  | none => 0
  | some b =>
    if off % 8 ≠ 0 then 0
    else if 0x1000 ≤ off ∧ off < 0x1400 then s.queueWord b ((off - 0x1000) / 0x40 + 1) (off % 0x40)
    else if 0x2000 ≤ off ∧ off < 0x2100 then s.counterWord b (off % 0x100)
    else 0

/-- How a function answers a configuration request. -/
inductive ConfigAnswer where
  /-- Request Retry Status. -/
  | retry
  | answers
  /-- The function is not enabled. -/
  | absent
  deriving DecidableEq, Repr

/-- The answer to a configuration request to a function, 0 the physical one: before stage 0x02 it is retried, except in recovery; a halted
part still answers (R23, R26, R28). What a configuration register holds is no part of the spec. -/
def State.configAnswer (s : State) (fn : Nat) : ConfigAnswer :=
  let b := s.chip.boot
  if fn = 0 then (if b.stage.toNat < 2 && !b.recov && !b.halt then .retry else .answers)
  else if s.vfOpen && decide (fn ≤ 12) then .answers else .absent

/-- What the host reads of a register (R7), 0 being BAR0 of the physical function and 16 + v that of virtual function v; none while the
function answers no request (R28). A halted part answers for BOOTST, and every other register reads zero (R23). -/
def State.barRead (s : State) (space off : Nat) : Option (BitVec 64) :=
  if s.configAnswer 0 = .retry then none
  else if s.chip.boot.halt then some (if space = 0 ∧ off = 0 then s.chip.boot.word else 0)
  else if space = 0 then some (s.bar0Read off)
  else if 16 ≤ space then some (s.vfRead (space - 16) off)
  else some 0

/-- What the host reads of BAR2 (R26, R257, R431); a halted part reads zero (R23). -/
def State.bar2Load (s : State) (n off : Nat) : Option HostRead :=
  if s.configAnswer 0 = .retry then none
  else if s.chip.boot.halt then some { data := 0, poisoned := false }
  else some (s.bar2Read n off)

end Sys2Proof.Machine
end

