-- ==== Sys2Proof/Machine/Turns.lean ====
section
/-! DEFINITION. The turn of a unit: whether it may issue or halts at a listed point, what it selects, and the traps taken before a
word issues (R41 to R44, R132, R143, R144, R156, R160, R355, R382, R405, R406). -/

namespace Sys2Proof.Machine

/-- A unit of a frame in the entry judged first (R143). -/
def State.standing (s : State) (fid ui : Nat) : Option IssueCtx :=
  match s.frame? fid with
  | none => none
  | some fr =>
    match fr.unit? ui with
    | none => none
    | some u => u.headEntry.map (fun e => { fid := fid, ui := ui, fr := fr, u := u, e := e })

/-- Whether a unit takes part in the rotation: its frame runs, and it is not halted, waiting or paused (R160, R388). -/
def mayIssue (c : IssueCtx) : Bool :=
  c.fr.term.isNone && !c.u.halted && c.u.waits.isEmpty && c.u.pause.isNone

/-- What a turn of a unit comes to. -/
inductive TurnOf where
  /-- A word issues; the state in which its meaning runs. -/
  | issues (i : Instr) (s : State)
  /-- Nothing issues; the state after the turn. -/
  | idle (s : State)

/-- Whether the entry of a unit stands at a transom that is present. -/
def State.standsAtTransom (s : State) (c : IssueCtx) : Bool :=
  match s.fetchAt c c.e.pc with
  | .bytes bs => isTransom (wordOfBytes bs)
  | _ => false

/-- LATE_FAULT_TRAP: a fault that a remote home returned is taken at the next selected word (R382).
Marked: DEDUCED, not safe, log 61; DEDUCED, safe, log 84. -/
def State.takeLate (s : State) (c : IssueCtx) : Option State :=
  match c.u.late with
  | [] => none
  | t :: ts =>
    let s1 := s.modUnit c.fid c.ui (fun u => { u with late := ts })
    some (s1.takeTrap c.fid c.ui c.e { t with atTransom := s.standsAtTransom c })

/-- The check of R132 at the first word of the unit's threads.
Marked: DEDUCED, not safe, log 41. -/
def State.entryCheck (s : State) (c : IssueCtx) : Before :=
  if c.u.fresh && c.u.handler.isNone && c.u.transom.isNone then s.before c c.e.pc else .clear

/-! ## Halting at a listed point (R41 to R44, R406) -/

/-- What a halt lookup finds, and the state its reads leave. -/
inductive Lookup where
  | point (us : List (BitVec 64)) (s : State)
  | nothing (s : State)
  | waits (s : State)

/-- Whether an entry of the point table breaks R42 for a frame, apart from the order of WORDs. -/
def Frame.pointBad (fr : Frame) (us : List (BitVec 64)) : Bool :=
  let u (n : Nat) : Nat := (recWord us n).toNat
  decide (fr.codeWords ≤ field (u 0) 40 24) || field (u 0) 32 8 != 0 || field (u 3) 10 54 != 0 ||
  u 1 / 2 ^ fr.vgran != 0 || u 2 / 2 ^ fr.board != 0 || decide (fr.pane < field (u 3) 0 10)

/-- The entries from one on: one that breaks R42 counts as absent (R42, R43). A lookup that has found its WORD reads no entry behind it,
where a fault or poison would make it find no point: the spec does not say, and this is the model's choice.
Marked: DESIGN CHOICE, not safe, log 95. -/
def State.lookFrom (s : State) (c : IssueCtx) (word : Nat) : Nat → Nat → Option Nat → Lookup
  | 0, _, _ => .nothing s
  | n + 1, va, last =>
    match s.bulkRead (s.unitReader c false) (va % 2 ^ 64) 32 with
    | .waits s' => .waits s'
    | .fault _ _ => .nothing s
    | .value bs poison s1 =>
      if poison then .nothing s1
      else
        let us := (List.range 4).map (word64 bs)
        let at_ := field (recWord us 0).toNat 40 24
        let ordered := match last with
          | some l => decide (l < at_)
          | none => true
        if c.fr.pointBad us || !ordered then s1.lookFrom c word n (va + 32) last
        else if at_ = word then .point us s1
        else s1.lookFrom c word n (va + 32) (some at_)

/-- The lookup of a word index in the frame's point table: the consumer of a transom is never a point (R43, R44). -/
def State.lookup (s : State) (c : IssueCtx) (word : Nat) : Lookup :=
  if c.fr.ppt = 0 then .nothing s
  else match s.bulkRead (s.unitReader c false) c.fr.ppt.toNat 32 with
    | .waits s' => .waits s'
    | .fault _ _ => .nothing s
    | .value bs poison s1 =>
      let h := (List.range 4).map (word64 bs)
      if poison || decide (65536 ≤ (recWord h 0).toNat) || recWord h 1 != 0 || recWord h 2 != 0 || recWord h 3 != 0 then .nothing s1
      else match s1.lookFrom c word ((recWord h 0).toNat % 65536) (c.fr.ppt.toNat + 32) none with
        | .point us s2 =>
          (match s2.before c word with
            | .transom => .nothing s2
            | .waits s' => .waits s'
            | .clear => .point us s2)
        | r => r

/-- Where a unit that is asked to halt stands: its single entry, or the word after a wait that has begun (R355, R406). A BAR none of
whose arrivals has been accepted stands at itself.
Marked: DEDUCED, not safe, log 62. -/
def RodUnit.haltWord (u : RodUnit) : Option Nat :=
  match u.frontier with
  | [e] =>
    if u.handler.isSome then none
    else if u.waits.all (fun w => w.bar && w.q.isNone) then (if u.transom.isSome then none else some e.pc)
    else if u.waits.all (fun w => w.q.isSome) then some (e.pc + 1)
    else none
  | _ => none

/-- A unit that is saved with a BAR not issued. -/
def RodUnit.barUnissued (u : RodUnit) : Bool := !u.waits.isEmpty && u.waits.all (fun w => w.bar && w.q.isNone)

/-- A BAR that is saved as not issued counts as an issue when it executes again, and not before (R355, R424). -/
def State.takeBackIssues (s : State) (b : Nat) (us : List RodUnit) : State := s.uncount b 1 (us.filter RodUnit.barUnissued).length

/-- The unit halts; a BAR that has not arrived is saved as not issued (R355).
Marked: DEDUCED, not safe, log 62. -/
def RodUnit.haltAt (u : RodUnit) (us : List (BitVec 64)) : RodUnit :=
  let v := if u.barUnissued then u.dropWaits else u
  { v with halted := true, point := us }

/-- What a halt request makes of a unit: it stops for this turn, halted or with its lookup unfinished, or goes on, in the state that
the reads of the lookup leave (R43). -/
inductive Halting where
  | stops (s : State)
  | goes (s : State)

/-- The state in which a halt request leaves things. -/
def Halting.state : Halting → State
  | .stops s => s
  | .goes s => s

/-- A halt request at a unit (R406): it goes on where it stands at no listed point. Its lookup counts in no counter (R424).
Marked: DEDUCED, not safe, log 61; DEDUCED, safe, log 88. -/
def State.tryHalt (s : State) (c : IssueCtx) : Halting :=
  if !c.fr.haltReq || c.u.halted || c.fr.term.isSome || !c.u.late.isEmpty then .goes s
  else match c.u.haltWord with
    | none => .goes s
    | some w => match s.lookup c w with
      | .point us s' => .stops (((s'.uncounted s c.fr.bay).takeBackIssues c.fr.bay [c.u]).modUnit c.fid c.ui (fun u => u.haltAt us))
      | .waits s' => .stops (s'.uncounted s c.fr.bay)
      | .nothing s' => .goes (s'.uncounted s c.fr.bay)

/-- UNIT_HALT (R406). -/
def execUnitHalt (frame unit : Nat) (s : State) : Out :=
  match s.standing frame unit with
  | none => .next s
  | some c => .next (s.tryHalt c).state

/-- The turn of a unit. -/
def State.turnOf (s : State) (fid ui : Nat) : TurnOf :=
  match s.standing fid ui with
  | none => .idle s
  | some c =>
    if !mayIssue c then .idle s
    else match s.takeLate c with
    | some s' => .idle s'
    | none =>
      match s.tryHalt c with
      | .stops s' => .idle s'
      | .goes s =>
        match s.entryCheck c with
        | .transom => .idle (s.trapWord c (trapOf 0x007))
        | .waits s' => .idle s'
        | .clear =>
          match s.select c with
          | .none s' => .idle s'
          | .fault e t => .idle (s.takeTrap fid ui e t)
          | .word pc bs s =>
            match decode bs with
            | .ok (i, _) => .issues i { s with cur := some { frame := fid, unit := ui, pc := pc } }
            | .error _ => .idle s

/-- LATE_FAULT_TRAP (R382).
Marked: DEDUCED, safe, log 84. -/
def execLateFaultTrap (frame unit : Nat) (s : State) : Out :=
  match s.standing frame unit with
  | none => .next s
  | some c => .next (if mayIssue c then (s.takeLate c).getD s else s)

/-- FETCH_FAULT (R156): a selected entry whose word cannot be fetched traps at its PC. -/
def execFetchFault (frame unit : Nat) (s : State) : Out :=
  match s.standing frame unit with
  | none => .next s
  | some c =>
    if !mayIssue c || !c.u.late.isEmpty then .next s
    else match s.select c with
      | .fault e t => .next (s.takeTrap frame unit e t)
      | _ => .next s

/-- ICACHE_FILL (R144). -/
def execIcacheFill (core line : Nat) (s : State) : Out := .next (s.fillIcache core line)

/-- PAUSE_END (R167).
Marked: DESIGN CHOICE, not safe, log 13. -/
def execPauseEnd (frame unit : Nat) (s : State) : Out := .next (s.modUnit frame unit (fun u => { u with pause := none }))

end Sys2Proof.Machine
end

