-- ==== Sys2Proof/Machine/Saving.lean ====
section
/-! DEFINITION. Pre-emption, images, resumption, turns, the save control block and the import of a bay (R44, R103, R104, R168, R303,
R324, R340, R355, R404 to R415, R425). -/

namespace Sys2Proof.Config

/-- The frame that the body of an image made elsewhere restores: the body's layout is the part's own (R410).
Marked: DESIGN CHOICE, safe, log 29. -/
opaque savedFrame (image : List Byte) : Machine.Frame

end Sys2Proof.Config

namespace Sys2Proof.Machine

/-! ## Requests (R104, R405) -/

/-- PREEMPT_REQUEST (R405): every resident frame of the bay is asked to halt; a request during a save joins it.
Marked: DEDUCED, safe, log 88. -/
def State.requestSave (s : State) (b : Nat) : State :=
  let s1 := { s with frames := s.frames.map (fun (p : Nat × Frame) => if p.2.bay = b ∧ !p.2.exited then (p.1, p.2.askHalt) else p) }
  (s1.modBay b (fun y => { y with saving := true, ctl := { y.ctl with busy := true } })).settle b

/-- The next VALID entry of a turn table, cyclically (R103). -/
def Group.nextEntry (g : Group) : Option Nat :=
  ((List.range 8).map (fun i => (g.turn + 1 + i) % 8)).find? (fun i => match g.entries[i]? with
    | some e => e.getLsbD 31
    | none => false)

/-- TURN_END (R103, R104). -/
def execTurnEnd (group : Nat) (s : State) : Out :=
  match (if group = 0 then none else s.groups[group - 1]?) with
  | none => .next s
  | some g =>
    if !g.running then .next s
    else match g.nextEntry with
      | none => .next s
      | some i =>
        let s1 := { s with groups := s.groups.set (group - 1) { g with turn := i } }
        let g1 : Group := { g with turn := i }
        if s.turnBay group g1 = s.turnBay group g then .next s1
        else match s.turnBay group g with
          | some out =>
            .next (if (s1.bay out).state = .reserved then
              (((s1.modBay out (fun y => { y with running := false })).requestSave out).settleGroup group) else s1.settleGroup group)
          | none => .next (s1.settleGroup group)

/-! ## Quiescence (R168, R340, R407) -/

/-- The arrivals of a frame's jobs that are done but for a refused arrival (R340); none when some job is not that far.
Marked: DEDUCED, not safe, log 83. -/
def State.keptArrivals (s : State) (fid : Nat) : Option (List Arrival) :=
  (s.jobs.filter (fun p => p.2.frame == fid)).mapM (fun p =>
    match p.2.finished, p.2.latch with
    | true, some l =>
      let a : Arrival := { latch := l, sectors := p.2.sectors, unit := p.2.unit, rod := p.2.rod, widx := p.2.pc }
      (match s.arriveOn fid a with
        | .refused => some a
        | .made _ => none)
    | _, _ => none)

/-- Whether a frame leaves its cores for good: its last thread has exited and its jobs that name its pane or board have completed (R153); or it
was terminated, and what its rods issued to memory and its jobs has come to its end but for arrivals that their latches refuse, which no
thread is left to let in (R388).
Marked: DEDUCED, not safe, log 105. -/
def State.frameLeaves (s : State) (fid : Nat) (fr : Frame) : Bool :=
  if fr.term.isSome then
    !s.ops.any (fun p => p.2.frame == fid) && !s.matq.any (fun p => p.2.frame == fid) && (s.keptArrivals fid).isSome
  else fr.allExited && s.paneFree fid && fr.arrivals.isEmpty

/-- A frame ends with the jobs that are left to it, those of refused arrivals (R153, R388, R407).
Marked: DEDUCED, not safe, log 105. -/
def State.endFrame (s : State) (fid : Nat) (fr : Frame) : State :=
  let s1 := if fr.term.isSome || fr.haltReq then { s with jobs := s.jobs.filter (fun p => p.2.frame != fid) } else s
  ((s1.frameEnds fid).dropExited fid).settle fr.bay

/-- FRAME_EXIT (R153, R388): the last thread has exited and the jobs that name the pane or board have completed; what else the frame issued
goes on without its cores. A pending job fault that was not delivered ends with the frame (R338). -/
def execFrameExit (frame : Nat) (s : State) : Out :=
  match s.frame? frame with
  | none => .next s
  | some fr => .next (if fr.exited then s.dropExited frame else if s.frameLeaves frame fr then s.endFrame frame fr else s)

/-- A frame is quiescent (R407): only an image load may still be pending. Its words are performed at their scope, and so are the writes
of other frames that its rods have read before they were performed (R277, R297, R303). -/
def State.quiescent (s : State) (fid : Nat) (fr : Frame) : Bool :=
  fr.units.all RodUnit.stopped && !s.ops.any (fun p => p.2.frame == fid) && !s.matq.any (fun p => p.2.frame == fid) &&
  !s.producers.any (fun p => p.2.frame == fid && !s.loads.any (fun q => q.2.producer == p.1)) && (s.keptArrivals fid).isSome &&
  (List.range fr.units.length).all (fun ui => s.observedDone fid ui) && !s.sysPending

/-- FORCED_SAVE (R408): the save timer has reached PTO before the frame is quiescent. A BAR that has not arrived is saved as not
issued (R355).
Marked: DESIGN CHOICE, not safe, log 13; DEDUCED, safe, log 88. -/
def execForcedSave (frame : Nat) (s : State) : Out :=
  match s.frame? frame with
  | none => .next s
  | some fr =>
    .next (if fr.haltReq && !fr.timedOut && !fr.exited && fr.term.isNone && !s.quiescent frame fr then
      (s.takeBackIssues fr.bay (fr.units.filter (fun u => !u.halted))).putFrame frame
        { fr with timedOut := true, units := fr.units.map (fun u => if u.halted then u else u.haltAt []) } else s)

/-! ## What an image holds (R44, R168, R409) -/

/-- Fetch entries as an image keeps them: base, stride, k and count of those with uses left (R324). -/
def LRod.keepFetches (r : LRod) : LRod :=
  { r with fetches := (r.fetches.filter (fun p => p.2.count != 0)).map (fun p => (p.1, { p.2 with hold := 0 })) }

/-- A unit as an image holds it, its registers apart.
Marked: DEDUCED, safe, log 50; DEDUCED, not safe, log 61. -/
def RodUnit.asSaved (u : RodUnit) : RodUnit :=
  { u with rods := u.rods.map LRod.keepFetches, halted := false, point := [], pause := none, observed := [], blocked := none,
           waits := u.waits.map (fun w => { w with seen := .unread }) }

/-- The registers of a unit live at its point; a register that is left out reads zero and is full (R44). -/
def RodUnit.liveOnly (u : RodUnit) : RodUnit :=
  let w (n : Nat) : Nat := (recWord u.point n).toNat
  let sl (n : Nat) : Bool := (w 0).testBit (16 + n / 16)
  let pl (n : Nat) : Bool := (w 0).testBit n
  let vl (n : Nat) : Bool := (w 1).testBit (n / 32)
  { u with
    vregs := u.vregs.filter (fun p => vl (p.1 / 64))
    vEmpty := u.vEmpty.filter vl
    vPoison := u.vPoison.filter (fun k => vl (k / 64))
    preds := u.preds.filter (fun p => pl p.1)
    pEmpty := u.pEmpty.filter pl
    pPoison := u.pPoison.filter (fun k => pl (k / 64))
    rods := u.rods.map (fun r => { r with
      sregs := r.sregs.filter (fun p => sl p.1), sEmpty := r.sEmpty.filter sl, sPoison := r.sPoison.filter sl }) }

/-- A frame saved at its listed points (R44, R409). -/
def Frame.liveOnly (fr : Frame) : Frame :=
  let blive := fr.units.foldl (fun m u => m ||| (recWord u.point 2)) 0
  let kib := fr.units.foldl (fun m u => max m (field (recWord u.point 3).toNat 0 10)) 0
  let tl (k : Nat) : Bool := blive.getLsbD (k % 65536 / 1024)
  { fr with
    units := fr.units.map RodUnit.liveOnly
    paneMem := fr.paneMem.filter (fun p => decide (p.1 % 2 ^ 20 < 1024 * kib))
    panePoison := fr.panePoison.filter (fun k => decide (4 * k % 2 ^ 20 < 1024 * kib))
    tiles := fr.tiles.filter (fun p => tl p.1)
    tilePoison := fr.tilePoison.filter tl }

/-- The frame that an image restores. -/
def Frame.toSave (fr : Frame) (kept : List Arrival) : Frame :=
  let v := if fr.timedOut then fr else fr.liveOnly
  { v with units := v.units.map RodUnit.asSaved, haltReq := false, timedOut := false, arrivals := v.arrivals ++ kept }

/-- The bound of R410 on an image's body, in 128-byte lines. -/
def Frame.bodyBound (fr : Frame) : Nat :=
  let side (i : Nat) : Nat := 4096 * fr.hardOn i * fr.vgran + 1024 * fr.pane + 4096 * fr.board + 2048 * fr.logicalOn i
  let n := ((List.range fr.sides).map side).sum
  (n + n / 8) / 128

/-! ## Images and regions (R410 to R412) -/

/-- WIDTH as the descriptor has it (R34). -/
def widthCode (w : Nat) : Nat := if w = 16 then 1 else if w = 64 then 2 else 0

/-- The header of an image (R410). -/
def State.imageHeader (s : State) (fr : Frame) (length : Nat) (digest : BitVec 512) : List (BitVec 64) :=
  let feats := s.features fr.bay
  let desc := ((SMap.find s.nodes fr.node).map (fun n => recWord n.words 1)).getD 0
  [BitVec.ofNat 64 (widthCode fr.width * 2 ^ 50 + (if fr.sides = 2 then 2 ^ 49 else 0) + (if fr.timedOut then 2 ^ 48 else 0) +
     2 ^ 32 + 0x46534A48),
   BitVec.ofNat 64 length, s.nodeWord fr.bay fr, feats.extractLsb' 0 64,
   feats.extractLsb' 64 64, desc, 0, 0] ++
  [digest.extractLsb' 0 64, digest.extractLsb' 64 64, digest.extractLsb' 128 64, digest.extractLsb' 192 64, 0, 0, 0, 0]

/-- LENGTH of a header. -/
def headerLength (h : List (BitVec 64)) : Nat := (recWord h 1).toNat

/-- The published images of a region, in save order. -/
def Bay.inRegion (y : Bay) (c : Nat) : List SavedFrame :=
  y.saved.filter (fun f => decide (y.region c ≤ f.addr.toNat) && decide (f.addr.toNat < y.region (c + 1)))

/-- BYTES of a region (R410). -/
def Bay.regionUsed (y : Bay) (c : Nat) : Nat := ((y.inRegion c).map (fun f => headerLength f.header)).sum

/-- The region header is written (R410). -/
def State.putRegion (s : State) (b c : Nat) : State :=
  let y := s.bay b
  s.areaWords y.ctl.svkey (y.region c) [BitVec.ofNat 64 (y.inRegion c).length, BitVec.ofNat 64 (y.regionUsed c)]

/-- The region of a frame: that of its core, or of its pair's even core. -/
def Frame.regionCore (fr : Frame) : Nat := fr.bayCores.headD 0

/-- A saved frame leaves its cores; its node keeps counting it. -/
def State.leaveCores (s : State) (fid : Nat) : State :=
  let s1 := s.dropHolds fid
  { s1 with
    frames := s1.frames.drop fid
    fences := s1.fences.filter (fun p => p.2.frame != fid)
    jobs := s1.jobs.filter (fun p => p.2.frame != fid) }

/-- The image is written and published (R411): body, header, then the region header.
Marked: DESIGN CHOICE, safe, log 29; DEDUCED, not safe, log 56. -/
def State.publish (s : State) (fid : Nat) (fr : Frame) (kept : List Arrival) : State :=
  let b := fr.bay
  let y := s.bay b
  let c := fr.regionCore
  let (n, s1) := s.takeFree
  let lines := min fr.bodyBound (Config.imageLines n)
  let body := (List.range lines).flatMap (fun i => toBytes 128 (Config.imageLine n i).toNat)
  let header := s.imageHeader fr (128 + 128 * lines) (shake256 body)
  let addr := y.region c + 128 + y.regionUsed c
  let s2 := (s1.areaPut y.ctl.svkey (addr + 128) body).areaWords y.ctl.svkey addr header
  let f : SavedFrame := { addr := BitVec.ofNat 64 addr, header := header, frame := fr.toSave kept, frameNo := fid, made := true }
  let s3 := (s2.leaveCores fid).modBay b (fun y => { y with saved := y.saved ++ [f], ctl := { y.ctl with saved := y.ctl.saved + 1 } })
  s3.putRegion b c

/-- The lines that an image and its region's header take can be written (R267). -/
def State.imageEnters (s : State) (fr : Frame) : Bool :=
  let y := s.bay fr.bay
  let loc := y.region fr.regionCore
  s.areaEnters loc 128 && s.areaEnters (loc + 128 + y.regionUsed fr.regionCore) (128 + 128 * fr.bodyBound)

/-- IMAGE_PUBLISH (R407, R411): a frame whose threads have all exited ends; one that cannot be written is terminated. -/
def execImagePublish (frame : Nat) (s : State) : Out :=
  match s.frame? frame with
  | none => .next s
  | some fr =>
    if !fr.haltReq || fr.exited || fr.term.isSome || !s.quiescent frame fr then .next s
    else
      let kept := (s.keptArrivals frame).getD []
      if fr.allExited then .next (s.endFrame frame fr)
      else if !s.areaUsable fr.bay ((s.bay fr.bay).region fr.regionCore) regionBytes then
        .next ((s.modBay fr.bay (fun y => { y with ctl := { y.ctl with err := 4 } })).terminate frame 0x3E0)
      else if !s.imageEnters fr then .next s
      else .next ((s.publish frame fr kept).settle fr.bay)

/-- The first saved image of a bay is unpublished: the images after it in its region move down, and COUNT falls (R410, R412). An area that has
become unusable is not written (R404). -/
def State.unpublish (s : State) (b : Nat) : State :=
  let y := s.bay b
  match y.saved with
  | [] => s
  | f :: rest =>
    let k := y.ctl.svkey
    let c := (f.addr.toNat - y.ctl.base.toNat) / regionBytes
    let len := headerLength f.header
    let later (g : SavedFrame) : Bool := decide (g.addr.toNat / regionBytes = f.addr.toNat / regionBytes)
    let usable := s.areaUsable b (y.region c) regionBytes
    let s1 := rest.foldl (fun s g =>
      if usable && later g then
        let (bs, _, s') := s.areaGet k g.addr.toNat (headerLength g.header)
        s'.areaPut k (g.addr.toNat - len) bs
      else s) s
    let moved := rest.map (fun g => if later g then { g with addr := g.addr - BitVec.ofNat 64 len } else g)
    let s2 := s1.modBay b (fun y => { y with saved := moved, ctl := { y.ctl with saved := y.ctl.saved - 1 } })
    if usable then s2.putRegion b c else s2

/-! ## Resuming (R412) -/

/-- An image is read; `ok` is the first check of R412.
Marked: DEDUCED, not safe, log 58. -/
def State.readImage (s : State) (b : Nat) (addr : Nat) : StoredBody × State :=
  let y := s.bay b
  let k := y.ctl.svkey
  let room := regionBytes - (addr - y.ctl.base.toNat) % regionBytes
  let (hb, hp, s1) := s.areaGet k addr 128
  let h := (List.range 16).map (word64 hb)
  let len := headerLength h
  let fits := decide (128 ≤ len) && len % 128 == 0 && decide (len ≤ room)
  let (bb, bp, s2) := if fits && !hp then s1.areaGet k (addr + 128) (len - 128) else ([], true, s1)
  let d := shake256 bb
  let good := fits && !hp && !bp && field (recWord h 0).toNat 0 48 == 0x000146534A48 &&
    (List.range 4).all (fun i => recWord h (8 + i) == d.extractLsb' (64 * i) 64)
  ({ header := h, body := bb, ok := good }, s2)

/-- The frame that an image restores: the one it was made from, or what the part reads in a body made elsewhere.
Marked: DESIGN CHOICE, safe, log 29; DEDUCED, not safe, log 58. -/
def SavedFrame.restored (f : SavedFrame) (i : StoredBody) : Frame :=
  if f.made ∧ i.header = f.header then f.frame
  else
    let g := Config.savedFrame (i.header.flatMap (fun w => toBytes 8 w.toNat) ++ i.body)
    { f.frame with units := g.units, paneMem := g.paneMem, panePoison := g.panePoison, tiles := g.tiles, tilePoison := g.tilePoison, rclk := g.rclk, arrivals := g.arrivals }

/-- The units of a side with the slots they take afresh (R110, R412). -/
def Frame.reseat (fr : Frame) (slots : List (List (List (Nat × Nat)))) : Frame :=
  { fr with units := slots.zipIdx.flatMap (fun q =>
      ((fr.units.filter (fun u => u.side == q.2)).zip q.1).map (fun p => { p.1 with slots := p.2 })) }

/-- Every fetch entry of a logical rod is fetched again; a failure leaves its cause (R324).
Marked: DEDUCED, not safe, log 63. -/
def State.refetch (s : State) (fid ui rod : Nat) : State :=
  match s.frame? fid with
  | none => s
  | some fr =>
    match fr.unit? ui with
    | none => s
    | some u =>
      let c : IssueCtx := { fid := fid, ui := ui, fr := fr, u := u, e := (u.frontier.head?).getD { pc := 0, pri := 0, lanes := 0 } }
      (u.rod rod).fetches.foldl (fun s p =>
        let put (s : State) (e : FetchEntry) : State :=
          s.modUnit fid ui (fun u => u.setRod rod (fun r => { r with fetches := r.fetches.put p.1 e }))
        match s.rowsOf c rod false [.read] p.2.base.toNat p.2.stride 64 32 0 with
        | .error t => put s { p.2 with count := 0, failed := some t.cause }
        | .ok rows =>
          let (h, s1) := s.fresh
          let hold : FetchHold :=
            { core := c.core, frame := fid, k := p.2.k, rows := rows, performed := true, waiting := rowLines rows, users := 0,
              released := false, again := true }
          put { s1 with holds := s1.holds.put h hold } { p.2 with hold := h, failed := none }) s

/-- A resumed unit acts as if it executed FENCE.AR at DEV scope, or at SYS after a migration, and its fetch entries are fetched again
(R303, R324).
Marked: DEDUCED, not safe, log 83. -/
def State.rearm (s : State) (fid : Nat) (fr : Frame) (scope : Nat) : State :=
  (List.range fr.units.length).foldl (fun s ui =>
    let (id, s1) := s.fresh
    let r : FenceRec := { frame := fid, unit := ui, lanes := BitVec.allOnes 64, order := 3, scope := scope, ticket := none, word := id }
    let s2 := { s1 with fences := s1.fences.put id r }
    (List.range (((fr.unit? ui).map (fun u => u.rods.length)).getD 0)).foldl (fun s i => s.refetch fid ui i) s2) s

/-- A saved frame ends without resuming (R412).
Marked: DEDUCED, not safe, log 58. -/
def State.failResume (s : State) (b : Nat) (f : SavedFrame) (cause : Nat) : State :=
  ((((({ s with producers := s.producers.filter (fun p => p.2.frame != f.frameNo) }.putFrame f.frameNo
    { f.frame with term := some cause }).frameEnds f.frameNo).dropExited f.frameNo).unpublish b).forgetAsked 12).settle b

/-- A saved frame takes its place (R112, R412).
Marked: DEDUCED, not safe, log 83. -/
def State.seatSaved (s : State) (bay : Nat) (f : SavedFrame) (img : StoredBody) (slots : List (List (List (Nat × Nat)))) : State :=
  let cores := f.frame.bayCores.map (s.coreOf bay)
  let s2 := s.enterCores bay cores
  let fr := { (f.restored img).reseat slots with cores := cores, positions := s2.slotPositions cores f.frame.bindings }
  let s3 := cores.foldl (fun s core => s.syncCore core) (s2.putFrame f.frameNo fr)
  ((((s3.rearm f.frameNo fr (if f.made then 2 else 3)).retryArrivals f.frameNo).unpublish bay).placed bay f.frameNo)

/-- Where the first saved frame stands in the steps of R412: its image has been read and checked, the frame ends with a cause, or there is no
room yet. -/
inductive Resuming where
  | seats (img : StoredBody) (slots : List (List (List (Nat × Nat)))) (s : State)
  | fails (cause : Nat) (s : State)
  | noRoom

/-- Steps 1 and 2 of R412: the image is read and checked once, and the slots are taken once; a placement that has begun holds both (R112). -/
def State.resuming (s : State) (bay : Nat) (f : SavedFrame) : Resuming :=
  match (s.bay bay).placing with
  | some { resume := some img, slots := slots, .. } => .seats img slots s
  | _ =>
    let usable := s.areaUsable bay ((s.bay bay).region f.frame.regionCore) regionBytes
    let (img, s1) := if usable then s.readImage bay f.addr.toNat else ({ header := [], body := [], ok := false }, s)
    let feats := s.features bay
    if !img.ok then .fails 0x3E1 s1
    else if recWord img.header 3 ≠ feats.extractLsb' 0 64 ∨ recWord img.header 4 ≠ feats.extractLsb' 64 64 then .fails 0x3E2 s1
    else match s1.fits bay f.frame.width f.frame.vgran f.frame.pane f.frame.board (sideRods (f.frame.sides == 2) f.frame.rods)
        (customImages f.frame.bindings) (f.frame.bayCores.map (s.coreOf bay)) with
      | none => .noRoom
      | some slots => .seats img slots s1

/-- FRAME_RESUME (R412): the first saved frame of a bay, on the bay cores it was saved from. A placement once begun is completed, whatever
request arrives meanwhile (R112). What follows when frames have left is done here too where it had to wait (R267). -/
def execFrameResume (bay : Nat) (s : State) : Out :=
  let begun := (s.bay bay).placing
  if begun.any (fun p => p.resume.isNone) then .next s
  else if begun.isNone && !s.placesNow bay then .next (if bay < 12 then s.settle bay else s)
  else match (s.bay bay).saved with
    | [] => .next s
    | f :: _ =>
      let cores := f.frame.bayCores.map (s.coreOf bay)
      let images := customImages f.frame.bindings
      let region := (s.bay bay).region f.frame.regionCore
      if s.areaUsable bay region regionBytes && !s.areaEnters region (128 + (s.bay bay).regionUsed f.frame.regionCore) then .next s
      else match s.resuming bay f with
        | .fails k s1 => .next (s1.failResume bay f k)
        | .noRoom => .next s
        | .seats img slots s1 =>
          if s1.allResident cores images then .next (s1.seatSaved bay f img slots)
          else .next (s1.beginPlacement bay { resume := some img, cores := f.frame.bayCores, slots := slots } cores images)

/-! ## The save control block (R404) -/

/-- SAVE_CONTROL_WRITE (R404).
Marked: DEDUCED, not safe, log 68. -/
def execSaveControlWrite (bay offset : Nat) (v : BitVec 64) (s : State) : Out :=
  if !s.barOpen ∨ 12 ≤ bay ∨ ¬ memb offset [0x00, 0x08, 0x10, 0x18] then .next s
  else
    let y := s.bay bay
    let put (g : SaveCtl → SaveCtl) : Out := .next (s.modBay bay (fun y => { y with ctl := g y.ctl }))
    if y.state = .reserved ∨ y.ctl.busy then put (fun c => { c with err := 5 })
    else match offset with
      | 0x00 => put (fun c => { c with base := v &&& 0x00000FFFFF800000, err := 0 })
      | 0x08 =>
        let pto := field v.toNat 32 14
        let ok := decide (10 ≤ pto) && decide (pto ≤ 10000)
        put (fun c => { c with
          pto := if ok then pto else c.pto, key := v.extractLsb' 8 6, importBit := v.getLsbD 1, graph := v.getLsbD 0, err := if ok then 0 else 1 })
      | 0x10 => put (fun c => { c with fmaskLo := v ||| 1, err := 0 })
      | _ => put (fun c => { c with fmaskHi := v, err := 0 })

/-! ## Import (R414, R415, R425) -/

/-- What an import comes to: the bay with its nodes and images, an ERR code, or a wait for lines held elsewhere. -/
inductive Imported where
  | done (s : State)
  | failed (err : BitVec 8)
  | waits (s : State)

/-- A node state by its code in s0. -/
def stateOfCode (n : Nat) : Option NodeState :=
  match n with
  | 1 => some .waiting
  | 2 => some .ready
  | 3 => some .dispatching
  | 4 => some .running
  | 5 => some .draining
  | _ => none

/-- A queue by its code in s0. -/
def queueOfCode (n : Nat) : Option QueueId :=
  if n = 0 then some .steward else if n ≤ 16 then some (.host (n - 1)) else if n = 17 then some .device else none

/-- The node of an entry of the graph section, its edges taken against the nodes before it (R82, R415); none when malformed.
Marked: DEDUCED, not safe, log 64. -/
def State.importNode (s : State) (b : Nat) (ws : List (BitVec 64)) : Option Node :=
  let rec_ := ws.take 32
  let s0 := (recWord ws 32).toNat
  let frames := recFrames rec_
  match stateOfCode (field s0 0 4), queueOfCode (field s0 4 5) with
  | some st, some q =>
    if (recordCause rec_).isSome || s0 / 2 ^ 12 != 0 || decide (3 < field s0 9 3) || decide (1023 < (recWord ws 35).toNat) ||
       (recKind rec_ == 0 && (decide (frames < (recWord ws 33).toNat) ||
         decide ((recWord ws 34).toNat < frames - (recWord ws 33).toNat) || decide (frames < (recWord ws 34).toNat))) then none
    else
      let preds := if st = .waiting then s.predsOf b q none rec_ else []
      let cause := field (recWord ws 35).toNat 0 10
      let n : Node :=
        { bay := b, queue := q, seq := (s.bay b).seq, words := rec_, state := st, preds := preds, cls := field s0 9 3, entered := s.now * 2 ^ 32 + (s.bay b).seq,
          aged := 0, desc := none, bindings := [], nextFrame := (recWord ws 33).toNat
          live := (recWord ws 34).toNat - (if recKind rec_ = 0 then frames - (recWord ws 33).toNat else 0), cause := (if cause = 0 then none else some cause),
          dispatch := none, launcher := none }
      some (if st = .waiting ∧ preds.isEmpty then n.released s.now else n)
  | _, _ => none

/-- The entries one after the other: a grid's descriptor is judged again, and a node that has left the pool takes a dispatch
number of the new bay. -/
def State.importNodes (s : State) (b : Nat) : List (List (BitVec 64)) → Imported
  | [] => .done s
  | ws :: rest =>
    match s.importNode b ws with
    | none => .failed 2
    | some n =>
      let add (s : State) (n : Node) : Imported :=
        let (id, s1) := s.fresh
        let left := n.state != .waiting && n.state != .ready && recKind n.words != 2
        let n1 := if left then { n with dispatch := some (s1.bay b).dseq.toNat } else n
        let s2 := s1.modBay b (fun y => { y with seq := y.seq + 1, dseq := if left then y.dseq + 1 else y.dseq })
        { s2 with nodes := s2.nodes.put id n1 }.importNodes b rest
      if recKind n.words ≠ 0 then add s n
      else match s.judgeDescriptor b (queueLevel b n.queue) (recWord n.words 1) with
        | .refuse _ _ => .failed 2
        | .waits s' => .waits s'
        | .ok (d, m) s' => add s' { n with desc := some d, bindings := m }

/-- The frame that stands for an imported image until it resumes.
Marked: DEDUCED, not safe, log 64. -/
def State.importFrame (s : State) (b c : Nat) (h : List (BitVec 64)) : Option Frame :=
  let w := (recWord h 2).toNat
  match (s.nodesInOrder b)[field w 32 12]? with
  | none => none
  | some (nid, n) =>
    match n.desc with
    | none => none
    | some d =>
      let cores := if d.span then [c, c + 1] else [c]
      if d.span ∧ c % 2 = 1 then none
      else some (buildFrame nid n d (field w 0 32) (queueLevel b n.queue) (cores.map (s.coreOf b)) cores [] [])

/-- The images of a region from one on, with their features checked (R415). -/
def State.importRegion (s : State) (b c : Nat) : Nat → Nat → Imported
  | 0, _ => .done s
  | left + 1, off =>
    let y := s.bay b
    let addr := y.region c + off
    let (hb, hp, s1) := s.areaGet y.ctl.svkey addr 128
    let h := (List.range 16).map (word64 hb)
    let len := headerLength h
    let feats := s.features b
    if hp ∨ len < 128 ∨ len % 128 ≠ 0 ∨ regionBytes < off + len then .failed 2
    else if recWord h 3 ≠ feats.extractLsb' 0 64 ∨ recWord h 4 ≠ feats.extractLsb' 64 64 then .failed 3
    else match s1.importFrame b c h with
      | none => .failed 2
      | some fr =>
        let (fid, s2) := s1.fresh
        let f : SavedFrame := { addr := BitVec.ofNat 64 addr, header := h, frame := fr, frameNo := fid, made := false }
        (s2.modBay b (fun y => { y with saved := y.saved ++ [f], ctl := { y.ctl with saved := y.ctl.saved + 1 } })).importRegion
          b c left (off + len)

/-- Every region of the bay's cores (R415).
Marked: DEDUCED, not safe, log 64. -/
def State.importRegions (s : State) (b : Nat) : List Nat → Imported
  | [] => .done s
  | c :: cs =>
    let y := s.bay b
    let (hb, hp, s1) := s.areaGet y.ctl.svkey (y.region c) 128
    if hp then .failed 2
    else match s1.importRegion b c ((word64 hb 0).toNat % 65536) 128 with
      | .done s' => s'.importRegions b cs
      | r => r

/-- BAYST.RSV of a bay with IMPORT 1 (R415): the graph section, the counter section, and every image.
Marked: DEDUCED, not safe, log 64. -/
def State.importBay (s : State) (b : Nat) : Imported :=
  let y := s.bay b
  let k := y.ctl.svkey
  let loc := s.graphAt b
  let cores := (s.bayCores b).length
  if !s.areaUsable b loc (y.graphBytes + 128) || !(List.range cores).all (fun c => s.areaUsable b (y.region c) regionBytes) then .failed 4
  else
    let (hb, hp, s1) := s.areaGet k loc 128
    let h := (word64 hb 0).toNat
    let n := h % 65536
    if hp || h / 65536 != 2 ^ 47 || !(hb.drop 8).all (· == 0) || decide (y.nodeq < n) then .failed 2
    else
      let (eb, ep, s2) := s1.areaGet k (loc + 128) (320 * n)
      let (cb, cp, s3) := s2.areaGet k (loc + y.graphBytes) 128
      if ep || cp then .failed 2
      else match s3.importNodes b ((List.range n).map (fun i => (List.range 36).map (fun j => word64 eb (40 * i + j)))) with
        | .done s4 =>
          (match s4.importRegions b (List.range cores) with
            | .done s5 => .done (s5.modBay b (fun y => { y with
                stopped := true, counters := (List.range 16).map (word64 cb), ctl := { y.ctl with importBit := false } }))
            | r => r)
        | r => r

end Sys2Proof.Machine
end

