-- ==== Sys2Proof/Machine/System.lean ====
section
/-! DEFINITION. The system words (R393 to R403, with R66 to R69, R94, R95, R98, R102, R384, R386, R392 and R405 to R415). -/

namespace Sys2Proof.Machine

/-! ## What every system word does (R393) -/

/-- What a system word's effect in one logical rod comes to. -/
inductive SysEnd where
  /-- sD's value, at hand. -/
  | gives (v : Nat) (s : State)
  /-- sD waits for another step: what the word does, given the number of the producer. -/
  | later (g : Nat → State → State)

/-- A status and nothing else. -/
def status (k : Nat) (s : State) : SysEnd := .gives k s

/-- A system word as its own description: what it waits for, the block it reads, its effect. -/
structure SysWord where
  /-- The word stays selected; the state after what it asks for. -/
  ready : IssueCtx → Issue → Nat → State → Option State := fun _ _ _ _ => none
  /-- The bay the word acts on, for a word that acts on one (R394). -/
  bay : IssueCtx → Issue → Nat → Option Nat := fun _ _ _ => none
  /-- A bay reset, which wins over a save in progress (R416). -/
  resets : Bool := false
  /-- The block read: virtual address and length. -/
  block : IssueCtx → Issue → Nat → State → Option (Nat × Nat) := fun _ _ _ _ => none
  act : IssueCtx → Issue → Nat → List Byte → State → SysEnd

/-- Operand A of a logical rod. -/
def Issue.opA (x : Issue) (rod : Nat) : Nat := (x.srcA 64 (x.laneOfRod rod)).1
/-- Operand B of a logical rod. -/
def Issue.opB (x : Issue) (rod : Nat) : Nat := (x.srcB 64 0 (x.laneOfRod rod)).1

/-- The first logical rod whose scalar operands are poisoned (R258, R393). -/
def poisonedRod (fm : Form) (x : Issue) : Option Nat :=
  x.rods.find? (fun i => (fm.regs x.f).any (fun r => r.rd && r.cls == .scl && (x.u.rod i).sclPoisoned r.num))

/-- What reading the blocks of a word's rods gives. -/
inductive SysReads where
  | got (bs : List (List Byte)) (s : State)
  | traps (t : TrapInfo)
  | waits (s : State)

/-- The blocks of the rods in turn; every byte is consumed (R393). -/
def State.sysReads (s : State) (c : IssueCtx) (x : Issue) (block : IssueCtx → Issue → Nat → State → Option (Nat × Nat)) :
    List Nat → SysReads
  | [] => .got [] s
  | i :: is =>
    let here : SysReads :=
      match block c x i s with
      | none => .got [[]] s
      | some (va, n) =>
        match s.bulkRead (s.unitReader c true) va n with
        | .waits s' => .waits s'
        | .fault k a => .traps { cause := k, lane := some (c.rodLane i), taddr := a }
        | .value bs poison s' => if poison then .traps (poisonAt (c.rodLane i)) else .got [bs] s'
    match here with
    | .got b s1 =>
      (match s1.sysReads c x block is with
        | .got bs s2 => .got (b ++ bs) s2
        | r => r)
    | r => r

/-- The effect in one logical rod, and the producer of its sD. -/
def State.sysAct (s : State) (w : SysWord) (c : IssueCtx) (x : Issue) (i : Nat) (bs : List Byte) : State :=
  let eff (v : Nat) : Effect := { writes := [.scl i x.f.dst.toNat (BitVec.ofNat 64 v) false], flags := [] }
  let ds : List (OpClass × Nat) := [(.scl, x.f.dst.toNat)]
  match w.act c x i bs s with
  | .gives v s' => s'.produce c [i] ds (eff v) true
  | .later g => g s.nextId (s.produce c [i] ds (eff 0) false)

/-- The acquire that a system word makes, as FENCE.AR.DEV does (R393). -/
def State.sysSync (s : State) (c : IssueCtx) : State := s.syncCore c.core

/-- A word on a bay that is not done yet: an IMGSUB whose image is being loaded, or, but for a bay reset, a PREEMPT whose save goes on
(R394, R416).
Marked: DEDUCED, not safe, log 59. -/
def State.wordsPending (s : State) (resets : Bool) (b : Nat) : Bool :=
  s.loads.any (fun p => p.2.bay == b) || (!resets && !(s.bay b).preempts.isEmpty)

/-- A system word: it acts once in each logical rod, as FENCE.AR.DEV does before and after it. Words on one bay are performed one at a
time (R394).
Marked: DEDUCED, not safe, log 18. -/
def sysWord (fm : Form) (w : SysWord) (f : SFields) (s : State) : Out :=
  withWord fm f (fun c x s =>
    if x.rods.isEmpty then .next (s.finish c (fun u => u))
    else if !s.allDone c 2 then .next (s.waitWord c)
    else match poisonedRod fm x with
    | some i => .next (s.trapWord c (poisonAt (c.rodLane i)))
    | none =>
      if x.rods.any (fun i => (w.bay c x i).any (s.wordsPending w.resets)) then .next (s.waitWord c)
      else match x.rods.findSome? (fun i => w.ready c x i s) with
      | some s' => .next (s'.waitWord c)
      | none =>
        match s.sysReads c x w.block x.rods with
        | .traps t => .next (s.trapWord c t)
        | .waits s' => .next (s'.waitWord c)
        | .got bss s1 =>
          .next ((((x.rods.zip bss).foldl (fun s q => s.sysAct w c x q.1 q.2) s1).sysSync c).finish c (fun u => u))) s

/-- The bay a word acts on: SEL at steward level, the own bay at supervisor level; none when SEL is 0 there (R393). -/
def sysBay (c : IssueCtx) (f : SFields) : Option Nat :=
  if c.level ≠ 2 then some c.fr.bay else if f.sel then some f.selBay else none

/-- A word for which a bay must be named (0x3C9 otherwise). -/
def onBay (c : IssueCtx) (f : SFields) (s : State) (g : Nat → SysEnd) : SysEnd :=
  match sysBay c f with
  | some b => if 12 ≤ b then status 0x3C9 s else g b
  | none => status 0x3C9 s

/-- A word that names its bay in sA. -/
def bayOfA (x : Issue) (i : Nat) (s : State) (g : Nat → SysEnd) : SysEnd := if 12 ≤ x.opA i then status 0x3C9 s else g (x.opA i)

/-! ## TRET (R386) -/

/-- The context in the frame's own code space, to which TRET returns. -/
def IssueCtx.kernel (c : IssueCtx) : IssueCtx := { c with u := { c.u with handler := none } }

/-- TRET and TRET.SK (R386). -/
def execTret (f : SFields) (s : State) : Out :=
  withWord formTret f (fun c x s =>
    if x.rods.isEmpty then .next (s.finish c (fun u => u))
    else if !s.allDone c 2 then .next (s.waitWord c)
    else match c.u.handler with
    | none => .next (s.trapWord c (trapOf 0x3C3))
    | some h =>
      let t := (h.tpc.extractLsb' 0 24).toNat + (if f.m 6 1 = 1 then (h.tpc.extractLsb' 32 2).toNat else 0)
      if c.fr.codeWords ≤ t then .next (s.trapWord c (trapOf 0x081))
      else match s.before c.kernel t with
        | .transom => .next (s.trapWord c (trapOf 0x007))
        | .waits s' => .next (s'.waitWord c)
        | .clear => .next ((s.sysSync c).issued c (fun u => u.leaveHandler h t))) s

/-! ## MOVP (R384, R397) -/

/-- A register of a bay: THBASE, THCTL or TCLS. -/
def Bay.handlerReg (y : Bay) (n : Nat) : BitVec 64 :=
  match n with
  | 0x08 => y.thbase
  | 0x09 => y.thctl
  | _ => y.tcls

/-- A write of THBASE, THCTL or TCLS; reserved bits are ignored (R384). -/
def Bay.putHandlerReg (y : Bay) (n : Nat) (v : BitVec 64) : Bay :=
  match n with
  | 0x08 => { y with thbase := v &&& 0x01FFFFFFFFFF0000 }
  | 0x09 => { y with thctl := v &&& 0xFFFFFFFF00FFFFFF }
  | _ => { y with tcls := v &&& 0x7FE }

/-- MOVP's read of a register in a logical rod (R384): the trap record reads zero outside a handler.
Marked: DESIGN CHOICE, not safe, log 31. -/
def State.movpValue (s : State) (c : IssueCtx) (f : SFields) (rod : Nat) : BitVec 64 :=
  let n := movpNum f
  let r := c.u.rod rod
  let inHandler (v : Handler → BitVec 64) : BitVec 64 := (c.u.handler.map v).getD 0
  match n with
  | 0x00 => inHandler (fun _ => r.tcause)
  | 0x01 => inHandler (fun _ => r.taddr)
  | 0x02 => inHandler (fun h => h.tpc)
  | 0x03 => inHandler (fun h => h.tlanes)
  | 0x04 => r.tscr0
  | 0x05 => r.tscr1
  | 0x10 => s.chip.stkey
  | _ => match sysBay c f with
    | some b => (s.bay b).handlerReg n
    | none => Config.unnamedBay n

/-- The bay whose register MOVP moves, for registers 0x08 to 0x0A. -/
def movpBay (c : IssueCtx) (f : SFields) : Option Nat := if memb (movpNum f) [0x08, 0x09, 0x0A] then sysBay c f else none

/-- MOVP must wait: for the unit's earlier memory words, or for an earlier word on the bay whose register it moves (R393, R394). -/
def State.movpWaits (s : State) (c : IssueCtx) (x : Issue) (f : SFields) : Bool :=
  !x.rods.isEmpty && (!s.allDone c 2 || (movpBay c f).any (s.wordsPending false))

/-- MOVP reading (R397): sD is written before the next turn.
Marked: DEDUCED, not safe, log 66. -/
def execMovpRead (f : SFields) (s : State) : Out :=
  withWord formMovpRead f (fun c x s =>
    if s.movpWaits c x f then .next (s.waitWord c)
    else
      let eff : Effect := { writes := x.rods.map (fun i => .scl i f.dst.toNat (s.movpValue c f i) false), flags := [] }
      .next ((if x.rods.isEmpty then s else s.sysSync c).finish c (fun u => u.apply eff))) s

/-- Fields PC and PRI of TPC take a written value (R384). -/
def writeTpc (old v : BitVec 64) : BitVec 64 := (old.extractLsb' 32 32) ++ (v.extractLsb' 0 32)

/-- MOVP's write of a register by one logical rod (R384, R397).
Marked: DESIGN CHOICE, not safe, log 31. -/
def State.movpPut (s : State) (c : IssueCtx) (f : SFields) (rod : Nat) (v : BitVec 64) : State :=
  let unit (g : RodUnit → RodUnit) : State := s.modUnit c.fid c.ui g
  match movpNum f with
  | 0x02 => unit (fun u => { u with handler := u.handler.map (fun h => { h with tpc := writeTpc h.tpc v }) })
  | 0x04 => unit (fun u => u.setRod rod (fun r => { r with tscr0 := v }))
  | 0x05 => unit (fun u => u.setRod rod (fun r => { r with tscr1 := v }))
  | 0x10 => s.modChip (fun ch => { ch with stkey := v &&& 0x800F00000000003F })
  | 0x08 | 0x09 | 0x0A => match sysBay c f with
    | some b => s.modBay b (fun y => y.putHandlerReg (movpNum f) v)
    | none => s
  | _ => s

/-- The form by which a MOVP write is judged (R384, R397). -/
def State.movpForm (s : State) : Form := if s.issuing.any (fun c => c.u.handler.isSome) then formMovpWriteIn else formMovpWrite

/-- MOVP writing (R397). -/
def execMovpWrite (f : SFields) (s : State) : Out :=
  withWord s.movpForm f (fun c x s =>
    if s.movpWaits c x f then .next (s.waitWord c)
    else match poisonedRod formMovpWrite x with
    | some i => .next (s.trapWord c (poisonAt (c.rodLane i)))
    | none =>
      let s1 := x.rods.foldl (fun s i => s.movpPut c f i (BitVec.ofNat 64 (x.opB i))) s
      .next ((if x.rods.isEmpty then s1 else s1.sysSync c).finish c (fun u => u))) s

/-! ## Translation (R398) -/

/-- Accesses of a bay that used a translation and are not performed (R247, R398), fetches of code among them. -/
def State.bayAccesses (s : State) (b : Nat) : Bool :=
  let mine (fid : Nat) : Bool := (s.frame? fid).any (fun fr => fr.bay == b)
  s.ops.any (fun p => p.2.bay == b && p.2.unperformed) ||
  s.matq.any (fun p => mine p.2.frame) ||
  s.jobs.any (fun p => mine p.2.frame && !p.2.finished && (!p.2.prog.runs.isEmpty || (match p.2.kind with
    | .drain _ _ => true
    | _ => false))) ||
  s.holds.any (fun p => mine p.2.frame && !p.2.waiting.isEmpty) || s.cache.fetching.any (fun p => p.2.1 == b)

/-- The kept translations of a bay that a test names go (R398). -/
def State.flushTlb (s : State) (b : Nat) (p : TlbEntry → Bool) : State :=
  s.modCache (fun c => { c with tlb := c.tlb.filter (fun t => !(t.bay == b && p t)) })

/-- The target of TLBI and PTROOT: the steward core's own translation with SEL 0 at steward level (R398). -/
def transBay (c : IssueCtx) (f : SFields) : Nat := (sysBay c f).getD 12

/-- TLBI, TLBI.ALL and PTROOT wait until every access that used a discarded translation is performed. -/
def transReady (c : IssueCtx) (x : Issue) (_ : Nat) (s : State) : Option State :=
  if s.bayAccesses (transBay c x.f) then some s else none

/-- The bay that a "sel" word acts on. -/
def onSel (c : IssueCtx) (x : Issue) (_ : Nat) : Option Nat := sysBay c x.f

/-- The bay that a word names in sA. -/
def onA (_ : IssueCtx) (x : Issue) (i : Nat) : Option Nat := some (x.opA i)

/-- A bay selector of 12 to 15 at steward level. -/
def selBeyond (c : IssueCtx) (f : SFields) : Bool := match sysBay c f with
  | some b => c.level == 2 && decide (12 ≤ b)
  | none => false

/-- TLBI (R398). -/
def execTlbi (f : SFields) (s : State) : Out :=
  sysWord formTlbi
    { ready := transReady
      bay := onSel
      act := fun c x i _ s => let b := transBay c x.f
        if selBeyond c x.f then status 0x3C9 s else status 0 (s.flushTlb b (fun t => t.covers b (BitVec.ofNat 64 (x.opA i)))) } f s

/-- TLBI.ALL (R398). -/
def execTlbiAll (f : SFields) (s : State) : Out :=
  sysWord formTlbiAll
    { ready := transReady
      bay := onSel
      act := fun c x _ _ s => let b := transBay c x.f
        if selBeyond c x.f then status 0x3C9 s else status 0 (s.flushTlb b (fun _ => true)) } f s

/-- PTROOT (R398): bits other than [51:12] must be zero. -/
def execPtroot (f : SFields) (s : State) : Out :=
  sysWord formSelA
    { ready := transReady
      bay := onSel
      act := fun c x i _ s =>
        let b := transBay c x.f
        let a := x.opA i
        if selBeyond c x.f ∨ a % 4096 ≠ 0 ∨ 2 ^ 52 ≤ a then status 0x3C9 s
        else status 0 ((s.modBay b (fun y => { y with root := BitVec.ofNat 64 a })).flushTlb b (fun _ => true)) } f s

/-! ## Format images (R66 to R69, R399) -/

/-- The shortest and the longest image.
Marked: DEDUCED, not safe, log 65. -/
def imageMin : Nat := 64 + 1 + 3309
/-- The longest image.
Marked: DEDUCED, not safe, log 65. -/
def imageMax : Nat := 64 + 1048576 + 3309

/-- IMGSUB (R399): pages are checked and the bytes read as it issues; the loader judges them later.
Marked: DEDUCED, not safe, log 65. -/
def execImgsub (f : SFields) (s : State) : Out :=
  withWord formSelAB f (fun c x s =>
    if x.rods.isEmpty then .next (s.finish c (fun u => u))
    else if !s.allDone c 2 then .next (s.waitWord c)
    else match poisonedRod formSelAB x with
    | some i => .next (s.trapWord c (poisonAt (c.rodLane i)))
    | none =>
      if (sysBay c f).any (s.wordsPending false) then .next (s.waitWord c)
      else
      let sane (i : Nat) : Bool := decide (imageMin ≤ x.opB i) && decide (x.opB i ≤ imageMax)
      let bad := match sysBay c f with
        | some b => decide (12 ≤ b)
        | none => true
      let b := (sysBay c f).getD 0
      let put (s : State) (i st : Nat) (load : Option ImageLoad) : State :=
        let eff : Effect := { writes := [.scl i f.dst.toNat (BitVec.ofNat 64 st) false], flags := [] }
        let n := s.nextId
        let s1 := s.produce c [i] [(.scl, f.dst.toNat)] eff load.isNone
        match load with
        | none => s1
        | some l => let (id, s2) := s1.fresh; { s2 with loads := s2.loads.put id { l with producer := n } }
      let rec read (s : State) : List Nat → Except Out (State × List (Nat × Nat × Option ImageLoad))
        | [] => .ok (s, [])
        | i :: is =>
          let on (s : State) (st : Nat) (load : Option ImageLoad) : Except Out (State × List (Nat × Nat × Option ImageLoad)) :=
            (read s is).map (fun r => (r.1, (i, st, load) :: r.2))
          if bad then on s 0x3C9 none
          else if !sane i then on s 0x360 none
          else match s.bulkRead (s.unitReader c true) (x.opA i) (x.opB i) with
            | .waits s' => .error (.next (s'.waitWord c))
            | .fault k a => .error (.next (s.trapWord c { cause := k, lane := some (c.rodLane i), taddr := a }))
            | .value bs poison s' => on s' 0 (some { bay := b, bytes := bs, poison := poison, producer := 0 })
      match read s x.rods with
      | .error o => o
      | .ok (s1, rs) => .next (((rs.foldl (fun s r => put s r.1 r.2.1 r.2.2) s1).sysSync c).finish c (fun u => u))) s

/-- Fields of an image header (R56). -/
def imageField (bs : List Byte) (at_ n : Nat) : Nat := ofBytes ((bs.drop at_).take n)

/-- Check 1 of R66, and the length rule of R399. -/
def imageShapeOk (bs : List Byte) : Bool :=
  let g := imageField bs
  let body := g 24 8
  let kind := g 9 1
  g 0 4 == 0x46494A48 && g 4 2 == 1 && g 6 2 == 0 && decide (2 ≤ g 8 1) && decide (g 8 1 ≤ 32) && decide (kind ≤ 3) &&
  (g 10 1 == 0 || g 10 1 == 32) && decide (g 11 1 < 8) && decide (g 12 1 < 32) && g 12 1 % 2 == 1 && g 13 1 == 0 &&
  (kind == 3 || g 14 2 == 0) && decide (1 ≤ body) && decide (body ≤ 1048576) && g 32 32 == 0 && bs.length == 64 + body + 3309

/-- The image that a submitted one becomes. -/
def imageOf (bs : List Byte) (digest : BitVec 512) : Image :=
  let g := imageField bs
  { libnum := 0, width := g 8 1, kind := g 9 1, block := g 10 1, flags := g 11 1, modes := g 12 1, fracshift := g 14 2,
    maxfin := BitVec.ofNat 32 (g 16 4), qnan := BitVec.ofNat 32 (g 20 4), digest := digest }

/-- Images of a store that have not been withdrawn. -/
def Bay.images (y : Bay) : List Image := (y.store.filter (fun i => !i.withdrawn)).map (·.image)

/-- The loader's judgement (R66, R67, R399): the status and the state after it.
Marked: DESIGN CHOICE, safe, log 30; DEDUCED, not safe, log 65. -/
def State.loadImage (s : State) (b : Nat) (bs : List Byte) (poison : Bool) : Nat × State :=
  let y := s.bay b
  let message := bs.take (bs.length - 3309)
  if poison || !imageShapeOk bs then (0x360, s)
  else match y.keys.find? (fun k => Config.signatureVerifies k.2 message (bs.drop (bs.length - 3309))) with
    | none => (0x361, s)
    | some key =>
      let i := imageOf bs (shake256 message)
      let stored := y.images.any (· == i)
      if y.images.any (fun j => j.digest.setWidth 64 == i.digest.setWidth 64 && j.digest != i.digest) then (0x362, s)
      else if !stored && decide (16 ≤ y.images.length) then (0x363, s)
      else if 4096 ≤ s.chip.attest.length then (0x365, s)
      else
        let s1 := s.modChip (fun c => { c with
          attest := c.attest ++ [{ bay := b, seq := BitVec.ofNat 32 c.attest.length, image := i.digest, key := key.1 }] })
        (0, if stored then s1 else s1.modBay b (fun y => { y with
          store := y.store.filter (fun j => j.image != i) ++ [{ image := i, withdrawn := false }] }))

/-- IMAGE_LOAD_COMPLETE (R66, R67, R399). -/
def execImageLoadComplete (load : Nat) (s : State) : Out :=
  match SMap.find s.loads load with
  | none => .next s
  | some l =>
    let (st, s1) := s.loadImage l.bay l.bytes l.poison
    .next ({ s1 with loads := s1.loads.drop load }.giveStatus l.producer st)

/-- Whether an unretired node retains an image (R69). -/
def State.retained (s : State) (b : Nat) (i : Image) : Bool :=
  s.nodes.any (fun p => p.2.bay == b && (customImages p.2.bindings).any (· == i))

/-- IMGWD (R69, R399): a withdrawn image stays only while a node retains it. -/
def execImgwd (f : SFields) (s : State) : Out :=
  sysWord formSelA
    { bay := onSel
      act := fun c x i _ s => onBay c x.f s fun b =>
        let hit (j : StoredImage) : Bool := !j.withdrawn && j.image.digest.setWidth 64 == BitVec.ofNat 64 (x.opA i)
        if !(s.bay b).store.any hit then status 0x364 s
        else status 0 (s.modBay b (fun y => { y with
          store := (y.store.map (fun j => if hit j then { j with withdrawn := true } else j)).filter
            (fun j => !j.withdrawn || s.retained b j.image) })) } f s

/-! ## Bays (R93 to R103, R400) -/

/-- BAYRST (R401). -/
def execBayrst (f : SFields) (s : State) : Out :=
  sysWord formStewA
    { bay := onA
      resets := true
      act := fun _ x i _ s => bayOfA x i s fun b =>
        if (s.bay b).state = .free then status 0x3CE s else status 0 (s.endBay b false) } f s

/-- Word n of a block as read. -/
def blockWords (bs : List Byte) (n : Nat) : List (BitVec 64) := (List.range n).map (word64 bs)

/-- Other bays that are CONFIGURED or RESERVED. -/
def State.otherBays (s : State) (b : Nat) : List Bay :=
  ((List.range 12).filter (fun o => o != b && (s.bay o).state != .free)).map s.bay

/-- The checks of R95 on a new block of a bay. -/
def State.blockRefused (s : State) (b : Nat) (ws : List (BitVec 64)) : Bool :=
  let y : Bay := { Bay.blank with block := ws }
  let os := s.otherBays b
  let pairs (z : Bay) : BitVec 128 := z.c 1 ++ z.c 0
  let meet (v w : Nat) : Bool := v &&& w != 0
  let c3 := (y.c 3).toNat
  let check1 := field c3 61 3 != 0 || field c3 2 3 != 0 || decide (8 ≤ (y.c 5).toNat) || y.c 6 != 0 || y.c 7 != 0 || y.plan == 3 ||
    decide (4096 < y.nodeq) || decide (16 < y.hostq) || decide (28 < y.wayCount) || y.chslot % 16 != 0 || y.vcmask % 4 != 0 ||
    (y.c 4).getLsbD 0
  let check2 := y.pairs.any (fun k => s.chip.retired.any (· == .pair k))
  let check3 := y.group == 0 && os.any (fun o => meet (pairs y).toNat (pairs o).toNat)
  let check4 := y.group != 0 && os.any (fun o =>
    if o.group = y.group then pairs o != pairs y || o.plan != y.plan else meet (pairs y).toNat (pairs o).toNat)
  let check5 := os.any (fun o => meet y.chslot o.chslot || meet y.vcmask o.vcmask || meet (y.c 4).toNat (o.c 4).toNat)
  let check6 := decide (28 < y.wayCount + (os.map Bay.wayCount).sum) || decide (48 < y.hostq + (os.map Bay.hostq).sum) ||
    decide (4096 < y.nodeq + (os.map Bay.nodeq).sum)
  let check7 := y.c 4 == 0 || (y.chslot == 0 && !y.pairs.isEmpty)
  check1 || check2 || check3 || check4 || check5 || check6 || check7

/-- The highest-numbered ways that no other bay holds (R98). -/
def State.waysFor (s : State) (b n : Nat) : List Nat :=
  let held := (s.otherBays b).flatMap (·.ways)
  ((((List.range 32).map (31 - ·)).filter (fun w => !memb w held)).take n)

/-- The customer positions of a bay's cores are freed, and what their caches keep is dropped, where no other bay of its slice group
still has the cores (R52, R98). -/
def State.clearCores (s : State) (b : Nat) : State :=
  let g := (s.bay b).group
  if g ≠ 0 ∧ (s.members g).any (· != b) then s
  else
    let cores := s.bayCores b
    (s.freeStrips cores).modCache (fun c => { c with
      l1 := c.l1.filter (fun p => !memb (p.1 / 2 ^ 52) cores)
      icache := c.icache.filter (fun p => !memb (p.1 / 2 ^ 52) cores) })

/-- A block is accepted (R94, R98): the cores it gives up and those it takes hold nothing of another bay. -/
def State.configure (s : State) (b : Nat) (ws : List (BitVec 64)) : State :=
  let n := (({ Bay.blank with block := ws } : Bay)).wayCount
  let ways := s.waysFor b n
  (s.clearCores b).modBay b (fun y => { y with state := .configured, block := ws, ways := ways })

/-- Whether BAYCFG gets as far as reading its block. -/
def cfgReads (x : Issue) (i : Nat) (s : State) : Bool :=
  decide (x.opA i < 12) && x.opB i % 64 == 0 && (s.bay (x.opA i)).state != .reserved

/-- BAYCFG (R94, R95, R400): a misaligned block address is judged before the bay's state.
Marked: DEDUCED, not safe, log 101. -/
def execBaycfg (f : SFields) (s : State) : Out :=
  sysWord formStewAB
    { bay := onA
      block := fun _ x i s => if cfgReads x i s then some (x.opB i, 64) else none
      act := fun _ x i bs s => bayOfA x i s fun b =>
        if x.opB i % 64 ≠ 0 then status 0x3C9 s
        else if (s.bay b).state = .reserved then status 0x3C6 s
        else if s.blockRefused b (blockWords bs 8) then status 0x3C5 s
        else status 0 (s.configure b (blockWords bs 8)) } f s

/-- The turns of a group start (R103).
Marked: DEDUCED, not safe, log 60; DESIGN CHOICE, not safe, log 100. -/
def State.startTurns (s : State) (g : Nat) : State :=
  match s.groups[g - 1]? with
  | none => s
  | some x =>
    if x.running then s
    else
      let first := ({ x with turn := 7 } : Group).nextEntry.getD 0
      { s with groups := s.groups.set (g - 1) { x with turn := first, running := true } }

/-- A bay enters RESERVED (R94, R101, R103, R111, R260, R269, R400, R419).
Marked: DEDUCED, not safe, log 60. -/
def State.reserve (s : State) (b : Nat) : State :=
  let g := (s.bay b).group
  let s1 := s.modBay b (fun y => { y with
    state := .reserved, cursor := 0, pairCursor := 0, cred := 0, credUsed := 0, kept := 0, broken := 0, epochDue := false, dseq := 0, seq := 0,
    stopped := false, saving := false, running := g == 0 })
  if g = 0 then s1 else (s1.startTurns g).settleGroup g

/-- Whether the turn table of a group has a VALID entry. -/
def State.tableValid (s : State) (g : Nat) : Bool := match s.groups[g - 1]? with
  | some x => x.entries.any (fun e => e.getLsbD 31)
  | none => false

/-- BAYST.RSV (R400, R415). -/
def execBaystRsv (f : SFields) (s : State) : Out :=
  sysWord formStewOp
    { bay := onA
      ready := fun _ x i s =>
        let b := x.opA i
        if b < 12 ∧ (s.bay b).state = .configured ∧ (s.bay b).ctl.importBit then (match (s.reserve b).importBay b with
          | .waits s' => some { s with cache := s'.cache }
          | _ => none) else none
      act := fun _ x i _ s => bayOfA x i s fun b =>
        let y := s.bay b
        if y.state ≠ .configured then status 0x3CE s
        else if y.group ≠ 0 ∧ !s.tableValid y.group then status 0x3C8 s
        else if !y.ctl.importBit then status 0 (s.reserve b)
        else match (s.reserve b).importBay b with
          | .done s' => status 0 s'
          | .failed k => status 0x3CE (s.modBay b (fun y => { y with ctl := { y.ctl with err := k } }))
          | .waits _ => status 0x3CE s } f s

/-- Whether work remains in a bay (R94). -/
def State.hasWork (s : State) (b : Nat) : Bool := !(s.bayNodes b).isEmpty || !(s.bayFrames b).isEmpty

/-- The turns of a group stop when its last member leaves RESERVED; they start again at the first VALID entry when a member enters it
(R103).
Marked: DESIGN CHOICE, not safe, log 100. -/
def State.stopTurns (s : State) (g : Nat) : State :=
  if g = 0 ∨ (s.members g).any (fun b => (s.bay b).state == .reserved) then s
  else { s with groups := s.groups.modify (g - 1) (fun x => { x with running := false }) }

/-- BAYST.UNR (R94, R265, R400).
Marked: DEDUCED, not safe, log 59. -/
def execBaystUnr (f : SFields) (s : State) : Out :=
  sysWord formStewOp
    { bay := onA
      act := fun _ x i _ s => bayOfA x i s fun b =>
        let y := s.bay b
        if s.hasWork b then status 0x3C7 s
        else if y.state ≠ .reserved then status 0x3CE s
        else status 0 (((s.modBay b (fun y => { y with state := .configured, running := false })).deadLines b).stopTurns y.group) } f s

/-- A bay becomes FREE and gives everything back; its virtual function is unbound (R94, R98, R384, R400, R404, R421, R430).
Marked: DEDUCED, not safe, log 86. -/
def State.release (s : State) (b : Nat) : State :=
  ((s.clearCores b).modBay b (fun y => { Bay.blank with
    steward := y.steward, hosts := y.hosts, device := y.device, rotation := y.rotation, brc := y.brc })
    |>.modChip (fun c => { c with vfbind := c.vfbind.filter (fun p => p.2 != b) })).flushTlb b (fun _ => true)

/-- BAYST.REL (R400).
Marked: DEDUCED, not safe, log 59. -/
def execBaystRel (f : SFields) (s : State) : Out :=
  sysWord formStewOp
    { bay := onA
      act := fun _ x i _ s => bayOfA x i s fun b =>
        if s.hasWork b then status 0x3C7 s
        else if (s.bay b).state ≠ .configured then status 0x3CE s
        else status 0 (s.release b) } f s

/-- A turn table entry that R102 refuses.
Marked: DEDUCED, not safe, log 60. -/
def State.entryRefused (s : State) (g : Nat) (e : BitVec 32) : Bool :=
  let bay := field e.toNat 27 4
  let len := field e.toNat 0 20
  e.getLsbD 31 && (decide (len < 1000) || decide (1000000 < len) ||
    (bay != 15 && (!memb bay (s.members g) || decide (len < 2 * (s.bay bay).ctl.pto))))

/-- Whether TURNW gets as far as reading its table. -/
def turnReads (x : Issue) (i : Nat) (s : State) : Bool :=
  decide (1 ≤ x.opA i) && decide (x.opA i ≤ 7) && x.opB i % 32 == 0 &&
  !(s.members (x.opA i)).any (fun b => (s.bay b).state == .reserved)

/-- TURNW (R102, R400). -/
def execTurnw (f : SFields) (s : State) : Out :=
  sysWord formStewAB
    { block := fun _ x i s => if turnReads x i s then some (x.opB i, 32) else none
      act := fun _ x i bs s =>
        let g := x.opA i
        let es := (List.range 8).map (fun n => BitVec.ofNat 32 (ofBytes ((bs.drop (4 * n)).take 4)))
        if g = 0 ∨ 7 < g ∨ x.opB i % 32 ≠ 0 then status 0x3C9 s
        else if !turnReads x i s || es.any (s.entryRefused g) then status 0x3C8 s
        else status 0 { s with groups := s.groups.set (g - 1) { entries := es.map (· &&& 0xF80FFFFF), turn := 0, running := false } } } f s

/-! ## Keys and ownership (R248, R249, R402) -/

/-- Cached lines of this package that a test of line and KEYID names are written back where dirty and dropped, with the copies in L1 and
in the instruction caches (R249, R250, R402).
Marked: DEDUCED, not safe, log 67. -/
def State.dropLines (s : State) (p : Nat → Nat → Bool) : State :=
  let s1 := (s.cache.lines.filter (fun e => e.2.guest.isNone && p e.1 e.2.key)).foldl (fun s e => s.evict e.1) s
  let q (k key : Nat) : Bool := decide (k % 2 ^ 52 < 2 ^ 43) && p (k % 2 ^ 52) key
  s1.modCache (fun c => { c with
    l1 := c.l1.filter (fun e => !q e.1 e.2.key)
    icache := c.icache.filter (fun e => !q e.1 e.2.2) })

/-- KEYSET (R402): lines written under the old key read as other data afterwards (R250). -/
def execKeyset (f : SFields) (s : State) : Out :=
  sysWord formStewA
    { act := fun _ x i _ s =>
        let k := x.opA i % 64
        if k = 0 ∨ (List.range 12).any (fun b => (s.bay b).state != .free && (s.bay b).keySet.getLsbD k) then status 0x3CA s
        else
          let s1 := s.dropLines (fun _ key => key == k)
          status 0 (s1.modChip (fun c => { c with keyGen := SMap.set 0 c.keyGen k (SMap.get 0 c.keyGen k + 1) })) } f s

/-- Whether a range of granules lies in the ownership table (R248). -/
def inTable (a n : Nat) : Bool :=
  decide (a + 65536 * n ≤ hbmBytes) || (decide (tierBase ≤ a) && decide (a + 65536 * n ≤ tierBase + tierSize))

/-- An entry that OWNSET refuses (R396).
Marked: DEDUCED, not safe, log 39. -/
def entryRefusal (e : BitVec 16) : Bool :=
  entryOwner e == 0xC || entryOwner e == 0xD || field e.toNat 6 5 != 0 || (entryOwner e == 0xE && entryKey e != 0)

/-- Accesses checked under the old entries of a range that are not performed (R249): those of words, of queued matrix operations, of
fetch entries, whose rows were checked when TFETCH issued, of drains, and fetches of code. -/
def State.rangeBusy (s : State) (a n : Nat) : Bool :=
  let inside (line : Nat) : Bool := decide (a ≤ line * 128) && decide (line * 128 < a + 65536 * n)
  s.ops.any (fun p => p.2.acc.any (fun q => !q.done && !q.pane && q.pkg == s.pkgNum && inside (q.addr / 128))) ||
  s.matq.any (fun p => (match p.2.kind with
    | .drain d => if d.pane then [] else d.rows
    | _ => s.matRows p.2).flatten.any (fun r => inside r.line)) ||
  s.holds.any (fun p => p.2.rows.flatten.any (fun r => inside r.line)) ||
  s.cache.fetching.any (fun p => inside (p.1 % 2 ^ 52)) ||
  s.jobs.any (fun p => !p.2.finished && (p.2.prog.runs.any (fun r => inside r.line) || (match p.2.kind with
    | .drain d _ => !d.pane && d.rows.flatten.any (fun r => inside r.line)
    | _ => false)))

/-- The granules of a range take an entry (R249, R402).
Marked: DEDUCED, not safe, log 67. -/
def State.putOwners (s : State) (a n : Nat) (e : BitVec 16) : State :=
  let inside (line : Nat) : Bool := decide (a ≤ line * 128) && decide (line * 128 < a + 65536 * n)
  let s1 := s.dropLines (fun line key => inside line && key != entryKey e)
  let s2 := s1.modChip (fun c => { c with
    owners := (List.range n).foldl (fun m i => SMap.set 0xF000 m (a / 65536 + i) e) c.owners
    ownersBad := c.ownersBad.filter (fun g => decide (g < a / 65536) || decide (a / 65536 + n ≤ g)) })
  let bay := if entryOwner e < 12 then entryOwner e else 12
  s2.modCache (fun c => { c with lines := c.lines.map (fun p => if inside p.1 then (p.1, { p.2 with bay := bay }) else p) })

/-- Whether OWNSET's operands are in range. -/
def ownsetOk (x : Issue) (i : Nat) : Bool := x.opA i % 65536 == 0 && x.opB i != 0
/-- OWNSET's entry. -/
def ownsetEntry (f : SFields) : BitVec 16 := BitVec.ofNat 16 (f.i 0 16)

/-- OWNSET (R249, R402). -/
def execOwnset (f : SFields) (s : State) : Out :=
  sysWord formOwnset
    { ready := fun _ x i s =>
        if ownsetOk x i && !entryRefusal (ownsetEntry x.f) && inTable (x.opA i) (x.opB i) && s.rangeBusy (x.opA i) (x.opB i) then some s else none
      act := fun _ x i _ s =>
        if !ownsetOk x i then status 0x3C9 s
        else if entryRefusal (ownsetEntry x.f) || !inTable (x.opA i) (x.opB i) then status 0x3CB s
        else status 0 (s.putOwners (x.opA i) (x.opB i) (ownsetEntry x.f)) } f s

/-- Whether KEYENR reads its key. -/
def enrolReads (x : Issue) (i : Nat) (s : State) : Bool := decide (x.opA i < 12) && decide ((s.bay (x.opA i)).keys.length < 4)

/-- KEYENR (R66, R402). -/
def execKeyenr (f : SFields) (s : State) : Out :=
  sysWord formKeyenr
    { bay := onA
      block := fun _ x i s => if enrolReads x i s then some (x.opB i, 1952) else none
      act := fun _ x i bs s => bayOfA x i s fun b =>
        if 4 ≤ (s.bay b).keys.length then status 0x3CC s
        else status 0 (s.modBay b (fun y => { y with keys := y.keys ++ [(shake256 bs, BitVec.ofNat 15616 (ofBytes bs))] })) } f s

/-- KEYENR.WD (R402). -/
def execKeyenrWd (f : SFields) (s : State) : Out :=
  sysWord formKeyenr
    { bay := onA
      act := fun _ x i _ s => bayOfA x i s fun b =>
        let hit (k : BitVec 512 × BitVec 15616) : Bool := k.1.setWidth 64 == BitVec.ofNat 64 (x.opB i)
        if !(s.bay b).keys.any hit then status 0x3CC s
        else status 0 (s.modBay b (fun y => { y with keys := y.keys.eraseP hit })) } f s

/-! ## The remaining steward words (R14, R18, R376, R377, R392, R403) -/

/-- RATIO (R14). -/
def execRatio (f : SFields) (s : State) : Out :=
  sysWord formStewAB
    { act := fun _ x i _ s =>
        if 15 < x.opA i ∨ x.opB i = 0 ∨ 7 < x.opB i then status 0x3C9 s
        else if (List.range 12).any (fun b => (s.bay b).state != .free && (s.bay b).chslot != 0) then status 0x3C4 s
        else status 0 (s.modChip (fun c => { c with ratios := SMap.set 4 c.ratios (x.opA i) (x.opB i) })) } f s

/-- A unit is written to the retirement record (R18, R396). -/
def State.retire (s : State) (u : RetUnit) : SysEnd :=
  if s.chip.retired.any (· == u) || s.chip.retireRecord.any (· == u) || decide (32 ≤ s.chip.retireRecord.length) then status 0x3CD s
  else status 0 (s.modChip (fun c => { c with retireRecord := c.retireRecord ++ [u] }))

/-- RETIRE of a kind of unit (R403).
Marked: DEDUCED, not safe, log 39. -/
def retireWord (limit : Nat) (g : Nat → RetUnit) (f : SFields) (s : State) : Out :=
  sysWord formStewOp { act := fun _ x i _ s => if limit ≤ x.opA i then status 0x3C9 s else s.retire (g (x.opA i)) } f s

/-- RETIRE.PAIR (R403). -/
def execRetirePair (f : SFields) (s : State) : Out := retireWord 128 .pair f s
/-- RETIRE.SLICE (R403). -/
def execRetireSlice (f : SFields) (s : State) : Out := retireWord 128 .slice f s
/-- RETIRE.PCH (R403). -/
def execRetirePch (f : SFields) (s : State) : Out := retireWord 1024 .pch f s

/-- The sill of an HBM line with POIS as the line stands, from the home slice if it holds the line (R363, R376). -/
def State.sillNow (s : State) (line : Nat) : BitVec 32 :=
  let v := s.sill line
  if sillBad s.chip.dom.mode v then v
  else
    let pois := match (if s.chip.dom.mode then none else s.l2? line) with
      | some l => l.poison
      | none => memb line s.mem.poison
    sealSill ((v &&& 0xFFFFEFFF) ||| (if pois then 0x1000 else 0))

/-- The report of SILLRD (R376). -/
def State.sillReport (s : State) (addr : Nat) : Nat :=
  if !s.inHbm addr then 0
  else
    let line := addr / 128
    let v := s.sillNow line
    let mode := s.chip.dom.mode
    let quar := mode && s.cache.quarantine.any (fun set => memb line (s.setLines set))
    2 ^ 63 + (if mode then 2 ^ 62 else 0) + (if quar then 2 ^ 61 else 0) + (if sillBad mode v then 2 ^ 60 else 0) + v.toNat

/-- A transaction of a line is open, or a request that came before waits for its turn there (R367). -/
def State.lineTaken (s : State) (line : Nat) : Bool :=
  (SMap.find s.cache.txns line).isSome || s.cache.held.any (fun r => r.line == line)

/-- SILLRD (R376): it takes the line's transaction turn. -/
def execSillrd (f : SFields) (s : State) : Out :=
  sysWord formStewFlag
    { ready := fun _ x i s => if s.lineTaken (x.opA i / 128) then some s else none
      act := fun _ x i _ s => .gives (s.sillReport (x.opA i)) s } f s

/-- SILLRD.OWN (R403). -/
def execSillrdOwn (f : SFields) (s : State) : Out :=
  sysWord formStewFlag
    { act := fun _ x i _ s =>
        let a := x.opA i
        .gives (if a < hbmBytes ∨ inTier a then 2 ^ 63 + (s.ownerEntry a).toNat else 0) s } f s

/-- A set of the tier cache is emptied: its dirty surviving ways go to the tier first (R377). -/
def State.clearSet (s : State) (set : Nat) : State :=
  let s1 := (s.setLines set).foldl (fun s h =>
    let v := s.sill h
    if !sillBad true v && wayV v && wayD v then s.modMem (fun m => m.moveLine h (tierBase / 128 + wayTag v * s.tierSets + set))
    else s) s
  let s2 := (s1.setLines set).foldl (fun s h => s.setSill h (mkWay false false 0 0 0 false)) s1
  s2.modCache (fun c => { c with quarantine := removeNum set c.quarantine })

/-- SILLCLR (R377). -/
def execSillclr (f : SFields) (s : State) : Out :=
  sysWord formStewA
    { act := fun _ x i _ s =>
        if s.tierSets ≤ x.opA i then status 0x3C9 s
        else status 0 (if s.chip.dom.mode then s.clearSet (x.opA i) else s) } f s

/-- A word of the machine-check log (R392).
Marked: DEDUCED, not safe, log 76. -/
def State.mcWord (s : State) (idx : Nat) (w1 : Bool) : Nat :=
  if idx = 0x100 then s.chip.mcCount.toNat * 2 ^ 32 + s.chip.mcCount.toNat % 256
  else if 0x100 < idx then 0
  else match SMap.find s.chip.mclog idx with
    | none => if w1 then 0 else 0xF * 2 ^ 52
    | some e => if w1 then e.unit.toNat else 2 ^ 63 + e.bay % 16 * 2 ^ 52 + e.cause % 1024 * 2 ^ 32 + e.seq.toNat

/-- MCRD and MCRD.W1 (R392, R403). -/
def execMcrd (f : SFields) (s : State) : Out :=
  sysWord formStewFlag { act := fun _ x i _ s => .gives (s.mcWord (x.opA i) (x.f.m 6 1 == 1)) s } f s

/-- Word `w` of an attestation entry (R399). -/
def Attest.word (a : Attest) (w : Nat) : Nat :=
  if w = 0 then 2 ^ 63 + a.bay % 16 * 2 ^ 48 + a.seq.toNat
  else if w ≤ 8 then field a.image.toNat (64 * (w - 1)) 64
  else if w ≤ 16 then field a.key.toNat (64 * (w - 9)) 64 else 0

/-- ATTRD (R399): the whole log at steward level with SEL 0, else a bay's own entries. -/
def execAttrd (f : SFields) (s : State) : Out :=
  sysWord formSelAB
    { bay := onSel
      act := fun c x i _ s =>
        let log := match sysBay c x.f with
          | none => s.chip.attest
          | some b => s.chip.attest.filter (fun a => a.bay == b)
        if selBeyond c x.f then status 0x3C9 s
        else .gives ((log[x.opA i]?).map (fun a => a.word (x.opB i)) |>.getD 0) s } f s

/-- PREEMPT_REQUEST of PREEMPT (R401, R405): sD is written when the last save is complete. -/
def State.preemptBay (b n : Nat) (s : State) : State :=
  (s.modBay b (fun y => { y with stopped := true, preempts := y.preempts ++ [n] })).requestSave b

/-- PREEMPT (R401). -/
def execPreempt (f : SFields) (s : State) : Out :=
  sysWord formStewFlag
    { bay := onA
      act := fun _ x i _ s => bayOfA x i s fun b =>
        if (s.bay b).state ≠ .reserved then status 0x3CE s else .later (State.preemptBay b) } f s

/-- PREEMPT.GO (R401). -/
def execPreemptGo (f : SFields) (s : State) : Out :=
  sysWord formStewFlag
    { bay := onA
      act := fun _ x i _ s => bayOfA x i s fun b =>
        if (s.bay b).state ≠ .reserved then status 0x3CE s
        else status 0 (s.modBay b (fun y => { y with stopped := false })) } f s

/-- An entry of a refusal log, or its header (R399). -/
def Bay.logWord (y : Bay) (idx : Nat) : Nat :=
  let n := y.refusalCount
  if idx = 0x40 then n % 2 ^ 32 + n % 64 * 2 ^ 32
  else
    let first := n - y.refusals.length
    match ((List.range y.refusals.length).find? (fun k => (first + k) % 64 == idx)).bind (fun k => y.refusals[k]?) with
    | some r => 2 ^ 63 + (if r.cw then 2 ^ 62 else 0) + r.cause % 1024 * 2 ^ 32 + r.tag.toNat
    | none => 0

/-- LOGRD (R91, R399).
Marked: DEDUCED, not safe, log 39. -/
def execLogrd (f : SFields) (s : State) : Out :=
  sysWord formLogrd
    { bay := onSel
      act := fun c x i _ s => onBay c x.f s fun b =>
        if 0x40 < x.opA i then status 0x3C9 s else .gives ((s.bay b).logWord (x.opA i)) s } f s

end Sys2Proof.Machine
end

