-- ==== Sys2Proof/Machine/Dispatch.lean ====
section
/-! DEFINITION. One arm for each constructor of Instr: a direct call of its meaning. -/

namespace Sys2Proof.Machine

/-- The meaning of an instruction or a step of the part. -/
def exec (i : Instr) (s : State) : Host.Outcome State Fault Refusal :=
  match i with
  | .iadd f => Sys2Proof.Machine.execIadd f s
  | .isub f => Sys2Proof.Machine.execIsub f s
  | .imul f => Sys2Proof.Machine.execImul f s
  | .imulh f => Sys2Proof.Machine.execImulh f s
  | .umulh f => Sys2Proof.Machine.execUmulh f s
  | .imad f => Sys2Proof.Machine.execImad f s
  | .idiv f => Sys2Proof.Machine.execIdiv f s
  | .udiv f => Sys2Proof.Machine.execUdiv f s
  | .irem f => Sys2Proof.Machine.execIrem f s
  | .urem f => Sys2Proof.Machine.execUrem f s
  | .ineg f => Sys2Proof.Machine.execIneg f s
  | .iabs f => Sys2Proof.Machine.execIabs f s
  | .imin f => Sys2Proof.Machine.execImin f s
  | .imax f => Sys2Proof.Machine.execImax f s
  | .umin f => Sys2Proof.Machine.execUmin f s
  | .umax f => Sys2Proof.Machine.execUmax f s
  | .iadds f => Sys2Proof.Machine.execIadds f s
  | .isubs f => Sys2Proof.Machine.execIsubs f s
  | .uadds f => Sys2Proof.Machine.execUadds f s
  | .usubs f => Sys2Proof.Machine.execUsubs f s
  | .and f => Sys2Proof.Machine.execAnd f s
  | .or f => Sys2Proof.Machine.execOr f s
  | .xor f => Sys2Proof.Machine.execXor f s
  | .not f => Sys2Proof.Machine.execNot f s
  | .andn f => Sys2Proof.Machine.execAndn f s
  | .shl f => Sys2Proof.Machine.execShl f s
  | .shr f => Sys2Proof.Machine.execShr f s
  | .sar f => Sys2Proof.Machine.execSar f s
  | .rol f => Sys2Proof.Machine.execRol f s
  | .ror f => Sys2Proof.Machine.execRor f s
  | .fshl f => Sys2Proof.Machine.execFshl f s
  | .fshr f => Sys2Proof.Machine.execFshr f s
  | .bfx f => Sys2Proof.Machine.execBfx f s
  | .bfxs f => Sys2Proof.Machine.execBfxs f s
  | .bfi f => Sys2Proof.Machine.execBfi f s
  | .popc f => Sys2Proof.Machine.execPopc f s
  | .clz f => Sys2Proof.Machine.execClz f s
  | .ctz f => Sys2Proof.Machine.execCtz f s
  | .brev f => Sys2Proof.Machine.execBrev f s
  | .bswap f => Sys2Proof.Machine.execBswap f s
  | .sext f => Sys2Proof.Machine.execSext f s
  | .zext f => Sys2Proof.Machine.execZext f s
  | .iaddc f => Sys2Proof.Machine.execIaddc f s
  | .isubb f => Sys2Proof.Machine.execIsubb f s
  | .idp4 f => Sys2Proof.Machine.execIdp4 f s
  | .idp2 f => Sys2Proof.Machine.execIdp2 f s
  | .icmp f => Sys2Proof.Machine.execIcmp f s
  | .ucmp f => Sys2Proof.Machine.execUcmp f s
  | .plop f => Sys2Proof.Machine.execPlop f s
  | .pset f => Sys2Proof.Machine.execPset f s
  | .pget f => Sys2Proof.Machine.execPget f s
  | .mov f => Sys2Proof.Machine.execMov f s
  | .sel f => Sys2Proof.Machine.execSel f s
  | .movsRead f => Sys2Proof.Machine.execMovsRead f s
  | .movsWrite f => Sys2Proof.Machine.execMovsWrite f s
  | .lea f => Sys2Proof.Machine.execLea f s
  | .capq f => Sys2Proof.Machine.execCapq f s
  | .fmtq f => Sys2Proof.Machine.execFmtq f s
  | .fadd f => Sys2Proof.Machine.execFadd f s
  | .fsub f => Sys2Proof.Machine.execFsub f s
  | .fmul f => Sys2Proof.Machine.execFmul f s
  | .fma f => Sys2Proof.Machine.execFma f s
  | .fms f => Sys2Proof.Machine.execFms f s
  | .fnma f => Sys2Proof.Machine.execFnma f s
  | .fmin f => Sys2Proof.Machine.execFmin f s
  | .fmax f => Sys2Proof.Machine.execFmax f s
  | .fabs f => Sys2Proof.Machine.execFabs f s
  | .fneg f => Sys2Proof.Machine.execFneg f s
  | .fdiv f => Sys2Proof.Machine.execFdiv f s
  | .fsqrt f => Sys2Proof.Machine.execFsqrt f s
  | .frcp f => Sys2Proof.Machine.execFrcp f s
  | .frsq f => Sys2Proof.Machine.execFrsq f s
  | .fexp2 f => Sys2Proof.Machine.execFexp2 f s
  | .flog2 f => Sys2Proof.Machine.execFlog2 f s
  | .fsin f => Sys2Proof.Machine.execFsin f s
  | .fcos f => Sys2Proof.Machine.execFcos f s
  | .ftanh f => Sys2Proof.Machine.execFtanh f s
  | .fcmp f => Sys2Proof.Machine.execFcmp f s
  | .fclass f => Sys2Proof.Machine.execFclass f s
  | .frnd f => Sys2Proof.Machine.execFrnd f s
  | .fldexp f => Sys2Proof.Machine.execFldexp f s
  | .fsgn f => Sys2Proof.Machine.execFsgn f s
  | .cvt f => Sys2Proof.Machine.execCvt f s
  | .cvts f => Sys2Proof.Machine.execCvts f s
  | .pack f => Sys2Proof.Machine.execPack f s
  | .unpack f => Sys2Proof.Machine.execUnpack f s
  | .scaleb f => Sys2Proof.Machine.execScaleb f s
  | .shfl f => Sys2Proof.Machine.execShfl f s
  | .shflu f => Sys2Proof.Machine.execShflu f s
  | .shfld f => Sys2Proof.Machine.execShfld f s
  | .shflx f => Sys2Proof.Machine.execShflx f s
  | .bcst f => Sys2Proof.Machine.execBcst f s
  | .vote f => Sys2Proof.Machine.execVote f s
  | .elect f => Sys2Proof.Machine.execElect f s
  | .pscan f => Sys2Proof.Machine.execPscan f s
  | .lred f => Sys2Proof.Machine.execLred f s
  | .ld f => Sys2Proof.Machine.execLd f s
  | .st f => Sys2Proof.Machine.execSt f s
  | .lde f => Sys2Proof.Machine.execLde f s
  | .ste f => Sys2Proof.Machine.execSte f s
  | .pf f => Sys2Proof.Machine.execPf f s
  | .cctlIinv f => Sys2Proof.Machine.execCctlIinv f s
  | .cctlL1inv f => Sys2Proof.Machine.execCctlL1inv f s
  | .atom f => Sys2Proof.Machine.execAtom f s
  | .atomc f => Sys2Proof.Machine.execAtomc f s
  | .red f => Sys2Proof.Machine.execRed f s
  | .fence f => Sys2Proof.Machine.execFence f s
  | .mma f => Sys2Proof.Machine.execMma f s
  | .tfetch f => Sys2Proof.Machine.execTfetch f s
  | .sumsR f => Sys2Proof.Machine.execSumsR f s
  | .sumsC f => Sys2Proof.Machine.execSumsC f s
  | .aclr f => Sys2Proof.Machine.execAclr f s
  | .ald f => Sys2Proof.Machine.execAld f s
  | .amovTov f => Sys2Proof.Machine.execAmovTov f s
  | .amovTob f => Sys2Proof.Machine.execAmovTob f s
  | .drain f => Sys2Proof.Machine.execDrain f s
  | .copy f => Sys2Proof.Machine.execCopy f s
  | .gather f => Sys2Proof.Machine.execGather f s
  | .scatter f => Sys2Proof.Machine.execScatter f s
  | .linit f => Sys2Proof.Machine.execLinit f s
  | .larr f => Sys2Proof.Machine.execLarr f s
  | .lreg f => Sys2Proof.Machine.execLreg f s
  | .lregD f => Sys2Proof.Machine.execLregD f s
  | .lwait f => Sys2Proof.Machine.execLwait f s
  | .lexp f => Sys2Proof.Machine.execLexp f s
  | .bar f => Sys2Proof.Machine.execBar f s
  | .pause f => Sys2Proof.Machine.execPause f s
  | .bra f => Sys2Proof.Machine.execBra f s
  | .call f => Sys2Proof.Machine.execCall f s
  | .callt f => Sys2Proof.Machine.execCallt f s
  | .ret f => Sys2Proof.Machine.execRet f s
  | .exit f => Sys2Proof.Machine.execExit f s
  | .launch f => Sys2Proof.Machine.execLaunch f s
  | .trap f => Sys2Proof.Machine.execTrap f s
  | .nop f => Sys2Proof.Machine.execNop f s
  | .pairWord h0 h1 => Sys2Proof.Machine.execPairWord h0 h1 s
  | .lit rsv payload => Sys2Proof.Machine.execLit rsv payload s
  | .lbr rsv payload => Sys2Proof.Machine.execLbr rsv payload s
  | .ovr rsv payload => Sys2Proof.Machine.execOvr rsv payload s
  | .tret f => Sys2Proof.Machine.execTret f s
  | .movpRead f => Sys2Proof.Machine.execMovpRead f s
  | .movpWrite f => Sys2Proof.Machine.execMovpWrite f s
  | .tlbi f => Sys2Proof.Machine.execTlbi f s
  | .tlbiAll f => Sys2Proof.Machine.execTlbiAll f s
  | .ptroot f => Sys2Proof.Machine.execPtroot f s
  | .imgsub f => Sys2Proof.Machine.execImgsub f s
  | .imgwd f => Sys2Proof.Machine.execImgwd f s
  | .bayrst f => Sys2Proof.Machine.execBayrst f s
  | .baycfg f => Sys2Proof.Machine.execBaycfg f s
  | .baystRsv f => Sys2Proof.Machine.execBaystRsv f s
  | .baystUnr f => Sys2Proof.Machine.execBaystUnr f s
  | .baystRel f => Sys2Proof.Machine.execBaystRel f s
  | .turnw f => Sys2Proof.Machine.execTurnw f s
  | .keyset f => Sys2Proof.Machine.execKeyset f s
  | .ownset f => Sys2Proof.Machine.execOwnset f s
  | .keyenr f => Sys2Proof.Machine.execKeyenr f s
  | .keyenrWd f => Sys2Proof.Machine.execKeyenrWd f s
  | .ratio f => Sys2Proof.Machine.execRatio f s
  | .retirePair f => Sys2Proof.Machine.execRetirePair f s
  | .retireSlice f => Sys2Proof.Machine.execRetireSlice f s
  | .retirePch f => Sys2Proof.Machine.execRetirePch f s
  | .sillrd f => Sys2Proof.Machine.execSillrd f s
  | .sillrdOwn f => Sys2Proof.Machine.execSillrdOwn f s
  | .sillclr f => Sys2Proof.Machine.execSillclr f s
  | .mcrd f => Sys2Proof.Machine.execMcrd f s
  | .attrd f => Sys2Proof.Machine.execAttrd f s
  | .preempt f => Sys2Proof.Machine.execPreempt f s
  | .preemptGo f => Sys2Proof.Machine.execPreemptGo f s
  | .logrd f => Sys2Proof.Machine.execLogrd f s
  | .coldReset => Sys2Proof.Machine.execColdReset s
  | .packageReset => Sys2Proof.Machine.execPackageReset s
  | .vfReset fn => Sys2Proof.Machine.execVfReset fn s
  | .rootOfTrustStart => Sys2Proof.Machine.execRootOfTrustStart s
  | .imageCheck => Sys2Proof.Machine.execImageCheck s
  | .bootstImgset v => Sys2Proof.Machine.execBootstImgset v s
  | .managementStart => Sys2Proof.Machine.execManagementStart s
  | .hbmTraining failed routes => Sys2Proof.Machine.execHbmTraining failed routes s
  | .hbmScrub => Sys2Proof.Machine.execHbmScrub s
  | .remapBuild => Sys2Proof.Machine.execRemapBuild s
  | .stewardBringup => Sys2Proof.Machine.execStewardBringup s
  | .thermalTrip => Sys2Proof.Machine.execThermalTrip s
  | .queueTailWrite bay queue v => Sys2Proof.Machine.execQueueTailWrite bay queue v s
  | .queueControlWrite bay queue v => Sys2Proof.Machine.execQueueControlWrite bay queue v s
  | .nodeAccept bay readError => Sys2Proof.Machine.execNodeAccept bay readError s
  | .gridDispatch bay => Sys2Proof.Machine.execGridDispatch bay s
  | .copyNodeStart bay => Sys2Proof.Machine.execCopyNodeStart bay s
  | .copyNodeComplete node => Sys2Proof.Machine.execCopyNodeComplete node s
  | .poolAgeing node => Sys2Proof.Machine.execPoolAgeing node s
  | .nodeRetire node => Sys2Proof.Machine.execNodeRetire node s
  | .framePlace bay => Sys2Proof.Machine.execFramePlace bay s
  | .imagePositionReconfig core pos => Sys2Proof.Machine.execImagePositionReconfig core pos s
  | .frameExit frame => Sys2Proof.Machine.execFrameExit frame s
  | .turnEnd group => Sys2Proof.Machine.execTurnEnd group s
  | .pauseEnd frame unit => Sys2Proof.Machine.execPauseEnd frame unit s
  | .icacheFill core line => Sys2Proof.Machine.execIcacheFill core line s
  | .longLatencyComplete producer => Sys2Proof.Machine.execLongLatencyComplete producer s
  | .lateFaultTrap frame unit => Sys2Proof.Machine.execLateFaultTrap frame unit s
  | .rclkTick frame => Sys2Proof.Machine.execRclkTick frame s
  | .brcTick bay => Sys2Proof.Machine.execBrcTick bay s
  | .lineClaimDue line => Sys2Proof.Machine.execLineClaimDue line s
  | .lineClaimLapse line => Sys2Proof.Machine.execLineClaimLapse line s
  | .credEpochEnd bay => Sys2Proof.Machine.execCredEpochEnd bay s
  | .throttleDecay core => Sys2Proof.Machine.execThrottleDecay core s
  | .homeRead op piece => Sys2Proof.Machine.execHomeRead op piece s
  | .homeWrite op piece => Sys2Proof.Machine.execHomeWrite op piece s
  | .homeRefill line congested sillError => Sys2Proof.Machine.execHomeRefill line congested sillError s
  | .ticketGrant op => Sys2Proof.Machine.execTicketGrant op s
  | .remoteReadRequest pkg line req key k ch cts => Sys2Proof.Machine.execRemoteReadRequest pkg line req key k ch cts s
  | .ownershipRequest pkg line req key k ch cts => Sys2Proof.Machine.execOwnershipRequest pkg line req key k ch cts s
  | .forward home line requester keep ch => Sys2Proof.Machine.execForward home line requester keep ch s
  | .recall home line keep ch => Sys2Proof.Machine.execRecall home line keep ch s
  | .invalidation home line ch => Sys2Proof.Machine.execInvalidation home line ch s
  | .invalidationAck pkg line dirty => Sys2Proof.Machine.execInvalidationAck pkg line dirty s
  | .writeBack pkg line dirty => Sys2Proof.Machine.execWriteBack pkg line dirty s
  | .remoteResponse op piece cause perm bytes poison wts rts => Sys2Proof.Machine.execRemoteResponse op piece cause perm bytes poison wts rts s
  | .pathFailure pkg => Sys2Proof.Machine.execPathFailure pkg s
  | .domctlWrite v => Sys2Proof.Machine.execDomctlWrite v s
  | .modeChangeComplete => Sys2Proof.Machine.execModeChangeComplete s
  | .vfbindWrite fn v => Sys2Proof.Machine.execVfbindWrite fn v s
  | .saveControlWrite bay offset v => Sys2Proof.Machine.execSaveControlWrite bay offset v s
  | .counterClear bay => Sys2Proof.Machine.execCounterClear bay s
  | .counterFreeze bay v => Sys2Proof.Machine.execCounterFreeze bay v s
  | .registerWrite space offset v => Sys2Proof.Machine.execRegisterWrite space offset v s
  | .matrixOpStart core => Sys2Proof.Machine.execMatrixOpStart core s
  | .matrixOpComplete core => Sys2Proof.Machine.execMatrixOpComplete core s
  | .fetchLineArrival core => Sys2Proof.Machine.execFetchLineArrival core s
  | .jobStart job => Sys2Proof.Machine.execJobStart job s
  | .jobComplete job => Sys2Proof.Machine.execJobComplete job s
  | .latchArrival job => Sys2Proof.Machine.execLatchArrival job s
  | .lwaitWake frame unit => Sys2Proof.Machine.execLwaitWake frame unit s
  | .barRetry frame unit => Sys2Proof.Machine.execBarRetry frame unit s
  | .unitHalt frame unit => Sys2Proof.Machine.execUnitHalt frame unit s
  | .forcedSave frame => Sys2Proof.Machine.execForcedSave frame s
  | .imagePublish frame => Sys2Proof.Machine.execImagePublish frame s
  | .frameResume bay => Sys2Proof.Machine.execFrameResume bay s
  | .imageLoadComplete load => Sys2Proof.Machine.execImageLoadComplete load s
  | .memoryError kind place bits => Sys2Proof.Machine.execMemoryError kind place bits s
  | .undefinedEncoding w => Sys2Proof.Machine.execUndefinedEncoding w s
  | .fetchFault frame unit => Sys2Proof.Machine.execFetchFault frame unit s
  | .l1CopyDrop core line => Sys2Proof.Machine.execL1CopyDrop core line s

end Sys2Proof.Machine
end

