-- ==== Sys2Proof/Machine/Placing.lean ====
section
/-! DEFINITION. The part's own round of happenings (R11), and how one word is placed to be run next. -/

namespace Sys2Proof.Machine

/-! ## The round -/

/-- The step of bring-up in progress (R28). -/
def State.bootTurns (s : State) : List Instr :=
  match s.chip.boot.stage.toNat with
  | 0 => [.rootOfTrustStart]
  | 1 => [.imageCheck]
  | 2 => [.managementStart]
  | 3 => [.hbmTraining [] []]
  | 4 => [.hbmScrub]
  | 5 => [.remapBuild]
  | 6 => [.stewardBringup]
  | _ => []

/-- Steps of the memory system that may be due. -/
def State.memoryTurns (s : State) : List Instr :=
  s.ops.flatMap (fun p => (List.range (s.pieces p.2).length).map (fun i => if p.2.writes then .homeWrite p.1 i else .homeRead p.1 i) ++
    [.ticketGrant p.1]) ++
  s.ops.flatMap (fun p => (p.2.acc.filter (fun a => !a.done && !a.pane)).map (fun a => .homeRefill (s.accLine a) false false)) ++
  s.fences.map (fun p => .ticketGrant p.1) ++
  s.producers.map (fun p => .longLatencyComplete p.1) ++
  s.cache.fetching.map (fun p => .icacheFill (p.1 / 2 ^ 52) (p.1 % 2 ^ 52)) ++
  s.cache.held.map (fun r =>
    if r.own then .ownershipRequest r.pkg r.line r.req r.key r.k r.ch { cts := r.cts, ticket := r.ticket }
    else .remoteReadRequest r.pkg r.line r.req r.key r.k r.ch { cts := r.cts, ticket := r.ticket }) ++
  s.cache.lines.flatMap (fun p => match p.2.cls with
    | .timed => [.lineClaimDue p.1]
    | .due => [.lineClaimLapse p.1]
    | _ => [])

/-- Steps of jobs, of the matrix engines and of the loaders that may be due. -/
def State.jobTurns (s : State) : List Instr :=
  s.jobs.flatMap (fun p => [.jobStart p.1, .jobComplete p.1, .latchArrival p.1]) ++
  s.matq.flatMap (fun p => [.matrixOpStart p.2.core, .matrixOpComplete p.2.core]) ++
  s.holds.map (fun p => .fetchLineArrival p.2.core) ++
  s.loads.map (fun p => .imageLoadComplete p.1) ++
  s.chip.stripLoads.map (fun p => .imagePositionReconfig (p.1 / 32) (p.1 % 32))

/-- Steps of frames and their units that may be due. -/
def State.frameTurns (s : State) : List Instr :=
  s.frames.flatMap (fun p =>
    [.frameExit p.1, .imagePublish p.1, .latchArrival p.1, .rclkTick p.1] ++
    (List.range p.2.units.length).flatMap (fun u =>
      [.unitHalt p.1 u, .lwaitWake p.1 u, .barRetry p.1 u, .pauseEnd p.1 u]))

/-- Steps of the bays' pipelines, dispatchers and clocks that may be due. -/
def State.bayTurns (s : State) : List Instr :=
  (List.range 13).flatMap (fun b =>
    [.nodeAccept b false, .gridDispatch b, .copyNodeStart b, .framePlace b, .frameResume b, .brcTick b, .credEpochEnd b]) ++
  s.nodes.flatMap (fun p => [.copyNodeComplete p.1, .nodeRetire p.1]) ++
  (if s.chip.dom.busy then [.modeChangeComplete] else [])

/-- Every happening of the part that may be due, and the turn of every unit. What comes from outside, and what timers bring about
(R87, R104, R255, R408), comes by the agenda.
Marked: DESIGN CHOICE, not safe, log 11. -/
def State.candidatesNow (s : State) : List Turn :=
  s.frames.flatMap (fun p => (List.range p.2.units.length).map (fun u => Turn.issue p.1 u)) ++
  (s.bootTurns ++ s.memoryTurns ++ s.jobTurns ++ s.frameTurns ++ s.bayTurns).map Turn.event

/-- The next happening of the round.
Marked: DESIGN CHOICE, not safe, log 11. -/
def State.nextTurn (s : State) : Option Turn :=
  let cs := s.candidatesNow
  cs[s.round % (max 1 cs.length)]?

/-! ## Placing one word -/

/-- Bytes of memory put as they stand, without a cache between. -/
def State.pokeBytes (s : State) (loc : Nat) (bs : List Byte) : State :=
  s.modMem (fun m => { m with cells := bs.zipIdx.foldl (fun c p => SMap.set 0 c (loc + p.2) p.1) m.cells })

/-- A line of memory whose tag is a key's, and whose granule belongs to an owner. -/
def State.pokeOwner (s : State) (loc owner key : Nat) : State :=
  (s.modChip (fun c => { c with owners := SMap.set 0xF000 c.owners (loc / 65536) (BitVec.ofNat 16 (owner * 4096 + key)) })).modMem
    (fun m => m.setTag (loc / 128) (s.keyTag key))

/-- A table entry, under key 1. -/
def State.pokeEntry (s : State) (loc : Nat) (e : Nat) : State := (s.pokeOwner loc 0 1).pokeBytes loc (toBytes 8 e)

/-- The frame in which a placed word stands: one hardware rod of 32 lanes.
Marked: DESIGN CHOICE, not safe, log 12. -/
def placedFrame (nid b lvl core : Nat) (vgran pane board : Nat) (codeBase : BitVec 64) : Frame :=
  { node := nid, bay := b, level := lvl, frameId := 0, x := 0, y := 0, z := 0, karg := 0, width := 32, rods := 1, vgran := vgran,
    pane := pane, board := board, sides := 1, cores := [core], bayCores := [0], codeBase := codeBase, codeWords := 4096, ftab := 0,
    ftlen := 0, ppt := 0, bindings := [], positions := [], units := sideUnits 32 0 0 1 [[(0, 0)]] 0 0, paneMem := [],
    panePoison := [], tiles := [], tilePoison := [], rclk := 0, haltReq := false, timedOut := false, term := none, arrivals := [] }

/-- A word at the start of a frame's code, present in its core's instruction cache, and the frame's turn next. -/
def State.placeAt (s : State) (fr : Frame) (core loc w : Nat) : State :=
  let fid := s.nextId
  let s1 := s.pokeBytes loc (toBytes 12 w)
  let line := loc / 128
  let s2 := s1.modCache (fun c => { c with
    icache := c.icache.put (icKey core line) (BitVec.ofNat 1024 (w * 2 ^ (8 * (loc % 128))), s1.granuleKey line) })
  { (s2.putFrame fid fr).modBoot (fun b => { b with halt := false }) with
    nextId := s.nextId + 2
    agenda := [.issue fid 0] }

/-- A word of class 0b11 runs on the steward core, at the start of the staging area (R379, R431).
Marked: DESIGN CHOICE, not safe, log 12. -/
def State.placeSteward (s : State) (w : Nat) : State :=
  let s1 := (s.pokeOwner 0x17FFC000000 14 0).modBay 12 (fun b => { b with state := .reserved, running := true, root := bringupRoot })
  s1.placeAt (placedFrame (s.nextId + 1) 12 2 stewardCore 64 64 0 0) stewardCore 0x17FFC000000 w

/-- Any other word runs at frame level in bay 0, which holds pair 0 and key 1, through tables at LOCAL 0x10_0000 to 0x10_2000 that map
the first GiB onto itself (R33, R93, R244).
Marked: DESIGN CHOICE, not safe, log 12. -/
def State.placeBay (s : State) (w : Nat) : State :=
  let s1 := s.modBay 0 (fun b =>
    { b with state := .reserved, running := true, block := [1, 0, 0, 0, 2, 0, 0, 0], root := 0x100000 })
  let s2 := ((s1.pokeEntry 0x100000 0x101001).pokeEntry 0x101000 0x102001).pokeEntry 0x102000 (2 ^ 52 + 0x1F)
  (s2.pokeOwner 0x10000 0 1).placeAt (placedFrame (s.nextId + 1) 0 0 0 64 64 64 0x10000) 0 0x10000 w

/-- The state with one word where the very next step fetches and runs it.
Marked: DESIGN CHOICE, not safe, log 12. -/
def State.placeWord (s : State) (w : Nat) : State :=
  if w / 2 ^ 94 % 4 = 3 then s.placeSteward w else s.placeBay w

end Sys2Proof.Machine
end

