-- ==== Sys2Proof/Machine/Step.lean ====
section
/-! DEFINITION. One step of the machine: the next happening on the agenda, or, with none there, the next in the part's own round. -/

namespace Sys2Proof.Machine

/-- Carry out one happening: a step of the part, or the turn of a unit. A word does not happen by itself.
Marked: DESIGN CHOICE, not safe, log 11. -/
def runTurn (t : Turn) (s : State) : Host.Outcome State Fault Refusal :=
  match t with
  | .event i => if (encode i).isSome then .next s else exec i s
  | .issue f u =>
    match s.turnOf f u with
    | .issues i s' => exec i s'
    | .idle s' => .next s'

/-- One step. A halted part answers to a cold reset alone (R23).
Marked: DESIGN CHOICE, not safe, log 11 and 13. -/
def step (s : State) : Host.Outcome State Fault Refusal :=
  let s1 := { s with now := s.now + 1, cur := none }
  match s1.agenda with
  | t :: ts =>
    if s.chip.boot.halt && t != .event .coldReset then .next { s1 with agenda := ts }
    else runTurn t { s1 with agenda := ts }
  | [] =>
    if s.chip.boot.halt then .next s1
    else match s1.nextTurn with
      | some t => runTurn t { s1 with round := s1.round + 1 }
      | none => .next s1

/-- The state with one instruction placed where the next step fetches and runs it: a unit of a frame whose word stands in
memory and in its core's instruction cache, and whose turn is next.
Marked: DESIGN CHOICE, not safe, log 12. -/
def State.withFetchWord (s : State) (nbits w : Nat) : State := s.placeWord (w % 2 ^ nbits)

end Sys2Proof.Machine
end

