-- ==== Sys2Proof/Safety.lean ====
section
/-! DEFINITION. What counts as a safe run, and the terms in which claims about the machine are stated: when a word issues, how a
lane's value reads, and what of the state a step leaves as it was. -/

namespace Sys2Proof.Machine

/-- A safe run: `k` steps from `s` without a fault or a refusal. -/
def SafeRun (k : Nat) (s : State) : Prop := ∃ s', Sys2Proof.core.run k s = .next s'

/-- An invariant of every step: memory's canonical form, 12 bays beside the steward core, 7 slice groups, and a block of zeros in a FREE bay
(R93, R94, R102). -/
def State.Inv (s : State) : Prop :=
  Memory.wf s.mem = true ∧ s.bays.length = 13 ∧ s.groups.length = 7 ∧ ∀ b ∈ s.bays, b.state = .free → b.block = List.replicate 8 0

/-- A single or system word issues: it is the turn of unit `c`, no check of R136 fails, no register it names is empty (R166), and
no predicate its guard reads is poisoned (R258). -/
abbrev State.wordIssues (s : State) (c : IssueCtx) (fm : Form) (f : SFields) : Prop :=
  s.issuing = some c ∧ checkWord (s.checkCtx c) fm c.u.transom f = none ∧
  readiness c [f.guard.toNat] (fm.regs f ++ fm.moreRegs c.fr.width f) = .issues ∧
  guardPoison c.fr.width c.u c.e (fm.uniform f) f.guard.toNat = none

/-- A vector lane as a value: one register, or the even-odd pair of a 64-bit value (R120). -/
def RodUnit.laneVal (u : RodUnit) (wide : Bool) (reg lane : Nat) : Nat :=
  if wide then (u.vecPair reg lane).toNat else (u.vec reg lane).toNat

/-- Element `i` of width `e` of a value (R171). -/
def elemAt (e i v : Nat) : BitVec e := BitVec.ofNat e (v >>> (e * i))

/-- The unit after it has issued a word that moves every lane of its entry to the next word (R140, R142), before the word's own effect
on registers: the transom is used up. -/
def IssueCtx.passed (c : IssueCtx) (u : RodUnit) : RodUnit := (u.advance c.e).used

/-- A lane stands at a word index (R141). -/
def standsAt (fr : List Entry) (lane pc : Nat) : Prop := ∃ e ∈ fr, e.pc = pc ∧ e.lanes.getLsbD lane = true

/-- No two entries stand at one word (R141). -/
def oneEntryPerWord (fr : List Entry) : Prop := (fr.map (·.pc)).Nodup

/-- Registers of two units agree. -/
def RodUnit.sameRegs (u v : RodUnit) : Prop :=
  (∀ r l, l < 64 → u.vec r l = v.vec r l) ∧ (∀ p, u.pred p = v.pred p) ∧ (∀ i, u.rod i = v.rod i)

/-- What a step changes of the issuing unit only, besides the counters of its bay: every other part of the state is as it was. -/
def State.sameBut (s t : State) (c : IssueCtx) : Prop :=
  t.chip = s.chip ∧ t.mem = s.mem ∧ t.cache = s.cache ∧ t.host = s.host ∧ t.groups = s.groups ∧ t.nodes = s.nodes ∧
  t.ops = s.ops ∧ t.fences = s.fences ∧ t.producers = s.producers ∧ t.jobs = s.jobs ∧ t.matq = s.matq ∧ t.holds = s.holds ∧
  t.loads = s.loads ∧ t.nextId = s.nextId ∧
  (∀ k, k ≠ c.fid → t.frame? k = s.frame? k) ∧
  (∀ k i, (k, i) ≠ (c.fid, c.ui) → t.unit? k i = s.unit? k i)

/-- Where the lanes of an issuing unit stand afterwards: the active ones at their targets, the rest of the entry at the next word, the
lanes of other entries where they were. -/
abbrev lanesGo (c : IssueCtx) (x : Issue) (u : RodUnit) (target : Nat → Nat) : Prop :=
  ∀ l p, standsAt u.frontier l p ↔ (l ∈ x.lanes ∧ p = target l) ∨
    (c.e.lanes.getLsbD l = true ∧ l ∉ x.lanes ∧ p = c.e.pc + 1) ∨ (p ≠ c.e.pc ∧ standsAt c.u.frontier l p)

/-- The class of a word of a unit's code (R118), where the word can be fetched and is present. -/
def State.wordClass (s : State) (c : IssueCtx) (n : Nat) : Option (BitVec 2) :=
  match s.fetchAt c n with
  | .bytes bs => some ((wordOfBytes bs).extractLsb' 94 2)
  | _ => none

/-- The word before a target is present and no transom (R132); nothing stands before index 0. -/
abbrev State.clearBefore (s : State) (c : IssueCtx) (t : Nat) : Prop := t = 0 ∨ (s.wordClass c (t - 1)).any (· != 2) = true

/-- The word before a target is a transom word (R132). -/
abbrev State.transomBefore (s : State) (c : IssueCtx) (t : Nat) : Prop := t ≠ 0 ∧ s.wordClass c (t - 1) = some 2

/-- The priority of each entry afterwards: the largest of those with which lanes come to its word or stand there already (R140, R142). -/
abbrev prioritiesGo (c : IssueCtx) (x : Issue) (u : RodUnit) (target : Nat → Nat) (pri : Nat → BitVec 8) : Prop :=
  ∀ e ∈ u.frontier,
    let comes (p : BitVec 8) : Prop := (∃ l ∈ x.lanes, target l = e.pc ∧ p = pri l) ∨
      (e.pc = c.e.pc + 1 ∧ (∃ l, c.e.lanes.getLsbD l = true ∧ l ∉ x.lanes) ∧ p = c.e.pri) ∨
      (∃ o ∈ c.u.frontier, o.pc = e.pc ∧ o.pc ≠ c.e.pc ∧ p = o.pri)
    comes e.pri ∧ ∀ p, comes p → p ≤ e.pri

end Sys2Proof.Machine
end

