-- ==== Sys2Proof/Safety/Integer.lean ====
section
/-! DEFINITION. The integer words as chapter 10 tables them: for each word the relation between the elements of its sources, of the
old destination and of the result, written over bit vectors (R170 to R173, R195 to R204). -/

namespace Sys2Proof.Machine

/-- A word of R194 with its rule: elements a and b of the sources, d of the old destination, r of the result. -/
structure IntRow where
  word : SFields → Instr
  form : Form
  rel : (e : Nat) → (a b d r : BitVec e) → Prop

/-- The shift count of R172: bits [7:0] of B's element. -/
def count8 {e : Nat} (b : BitVec e) : Nat := b.toNat % 256

/-- The clamp of an exact result to a range (R170), the range given as integers. -/
def clampInt (lo hi t : Int) : Int := if t < lo then lo else if hi < t then hi else t

/-- The width and the number of the elements of a word's form (R192). -/
def SFields.shape (f : SFields) : Nat × Nat := if f.dc == .scl then (64, 1) else ewShape f.ew

/-- What a word of R194 does when it issues: it answers a next state in which every element of every active lane, or the scalar of
every logical rod that takes the effect, stands in the word's relation to the elements read; only the issuing unit and its bay's
counters have changed. -/
def IntRow.does (row : IntRow) : Prop :=
  ∀ (s : State) (c : IssueCtx) (f : SFields), s.wordIssues c row.form f →
    let x := c.issue row.form f
    let e := (SFields.shape f).1
    let n := (SFields.shape f).2
    let w := e * n
    ∃ (t : State) (u : RodUnit), exec (row.word f) s = .next t ∧ t.unit? c.fid c.ui = some (c.passed u) ∧ s.sameBut t c ∧
      (f.dc ≠ .scl → ∀ l ∈ x.lanes, ∀ i < n,
        row.rel e (elemAt e i (x.srcA w l).1) (elemAt e i (x.srcB w (immLane e n f) l).1) (elemAt e i (x.srcD w l).1)
          (elemAt e i (u.laneVal f.isD f.dst.toNat l))) ∧
      (f.dc = .scl → f.dst ≠ 0 → ∀ r ∈ x.rods,
        row.rel 64 (elemAt 64 0 (x.srcA 64 (x.laneOfRod r)).1) (elemAt 64 0 (x.srcB 64 (immLane 64 1 f) (x.laneOfRod r)).1)
          (elemAt 64 0 (x.srcD 64 (x.laneOfRod r)).1) ((u.rod r).scl f.dst.toNat))

/-- R195 and R196, without the saturating words. -/
def arithRows : List IntRow := [
  ⟨.iadd, formInt2, fun _ a b _ r => r = a + b⟩,
  ⟨.isub, formInt2, fun _ a b _ r => r = a - b⟩,
  ⟨.imul, formInt2, fun _ a b _ r => r = a * b⟩,
  ⟨.imulh, formInt2, fun e a b _ r => r = BitVec.ofInt e (a.toInt * b.toInt / (2 ^ e : Nat))⟩,
  ⟨.umulh, formInt2, fun e a b _ r => r = BitVec.ofNat e (a.toNat * b.toNat / 2 ^ e)⟩,
  ⟨.imad, formImad, fun _ a b d r => r = d + a * b⟩,
  ⟨.ineg, formInt1, fun _ a _ _ r => r = -a⟩,
  ⟨.iabs, formInt1, fun _ a _ _ r => r = if a.toInt < 0 then -a else a⟩,
  ⟨.imin, formInt2, fun _ a b _ r => r = if b.toInt < a.toInt then b else a⟩,
  ⟨.imax, formInt2, fun _ a b _ r => r = if a.toInt < b.toInt then b else a⟩,
  ⟨.umin, formInt2, fun _ a b _ r => r = if b < a then b else a⟩,
  ⟨.umax, formInt2, fun _ a b _ r => r = if a < b then b else a⟩]

/-- The saturating words of R195. -/
def saturatingRows : List IntRow := [
  ⟨.iadds, formInt2, fun e a b _ r => r.toInt = clampInt (-(2 ^ (e - 1) : Nat)) ((2 ^ (e - 1) : Nat) - 1) (a.toInt + b.toInt)⟩,
  ⟨.isubs, formInt2, fun e a b _ r => r.toInt = clampInt (-(2 ^ (e - 1) : Nat)) ((2 ^ (e - 1) : Nat) - 1) (a.toInt - b.toInt)⟩,
  ⟨.uadds, formInt2, fun e a b _ r => (r.toNat : Int) = clampInt 0 ((2 ^ e : Nat) - 1) (a.toNat + b.toNat)⟩,
  ⟨.usubs, formInt2, fun e a b _ r => (r.toNat : Int) = clampInt 0 ((2 ^ e : Nat) - 1) (a.toNat - b.toNat)⟩]

/-- R200 with R172. -/
def logicRows : List IntRow := [
  ⟨.and, formInt2, fun _ a b _ r => r = a &&& b⟩,
  ⟨.or, formInt2, fun _ a b _ r => r = a ||| b⟩,
  ⟨.xor, formInt2, fun _ a b _ r => r = a ^^^ b⟩,
  ⟨.not, formInt1, fun _ a _ _ r => r = ~~~a⟩,
  ⟨.andn, formInt2, fun _ a b _ r => r = a &&& ~~~b⟩,
  ⟨.shl, formInt2, fun e a b _ r => r = if count8 b < e then a <<< count8 b else 0⟩,
  ⟨.shr, formInt2, fun e a b _ r => r = if count8 b < e then a >>> count8 b else 0⟩,
  ⟨.sar, formInt2, fun e a b _ r => ∀ j < e, r.getLsbD j = if j + count8 b < e then a.getLsbD (j + count8 b) else a.msb⟩,
  ⟨.rol, formInt2, fun e a b _ r => r = a.rotateLeft (count8 b % e)⟩,
  ⟨.ror, formInt2, fun e a b _ r => r = a.rotateRight (count8 b % e)⟩]

/-- R201 and R202: V of the funnel shifts is the double-width value A:d. -/
def fieldRows : List IntRow := [
  ⟨.fshl, formInt3Wide, fun e a b d r =>
    r = if count8 b < 2 * e then ((a ++ d) <<< count8 b).extractLsb' e e else 0⟩,
  ⟨.fshr, formInt3Wide, fun e a b d r =>
    r = if count8 b < 2 * e then ((a ++ d) >>> count8 b).extractLsb' 0 e else 0⟩,
  ⟨.bfx, formInt2Wide, fun e a b _ r =>
    let len := min (b.toNat / 256 % 256) e
    ∀ j < e, r.getLsbD j = (decide (j < len) && a.getLsbD (j + count8 b))⟩,
  ⟨.bfxs, formInt2Wide, fun e a b _ r =>
    let len := min (b.toNat / 256 % 256) e
    ∀ j < e, r.getLsbD j = (decide (len ≠ 0 ∧ count8 b < e) && a.getLsbD (min j (len - 1) + count8 b))⟩,
  ⟨.bfi, formInt3Wide, fun e a b d r =>
    let len := min (b.toNat / 256 % 256) e
    ∀ j < e, r.getLsbD j = if count8 b ≤ j ∧ j < count8 b + len then a.getLsbD (j - count8 b) else d.getLsbD j⟩]

/-- R203: the results of CLZ and CTZ are pinned by the bit they find. -/
def bitRows : List IntRow := [
  ⟨.popc, formInt1, fun e a _ _ r => r.toNat = ((List.range e).filter (fun j => a.getLsbD j)).length⟩,
  ⟨.clz, formInt1, fun e a _ _ r => r.toNat ≤ e ∧ (∀ j < r.toNat, a.getLsbD (e - 1 - j) = false) ∧
    (r.toNat < e → a.getLsbD (e - 1 - r.toNat) = true)⟩,
  ⟨.ctz, formInt1, fun e a _ _ r => r.toNat ≤ e ∧ (∀ j < r.toNat, a.getLsbD j = false) ∧ (r.toNat < e → a.getLsbD r.toNat = true)⟩,
  ⟨.brev, formInt1, fun e a _ _ r => ∀ j < e, r.getLsbD (e - 1 - j) = a.getLsbD j⟩,
  ⟨.bswap, formInt1, fun e a _ _ r => ∀ k < e / 8, ∀ j < 8, r.getLsbD (8 * (e / 8 - 1 - k) + j) = a.getLsbD (8 * k + j)⟩]

end Sys2Proof.Machine
end

