-- ==== Sys2Proof/Safety/Registers.lean ====
section
/-! DEFINITION. The other words of chapter 10 and those of chapter 11 that move, compare or combine registers, as their rules state
them: what the destination holds once the word has issued (R197 to R214, R229 to R236). -/

namespace Sys2Proof.Machine

/-- A word between registers with its rule: `pre` is what it needs of its operands beyond issuing, `post` relates the word at its issue
to the unit with the results in place. -/
structure RegRow where
  word : SFields → Instr
  form : Form
  pre : State → IssueCtx → Issue → Prop := fun _ _ _ => True
  post : Issue → RodUnit → Prop

/-- What a word between registers does when it issues (R162): it answers a next state in which its results stand, every lane of the
entry has moved to the next word, and only the issuing unit and its bay's counters have changed. -/
def RegRow.does (row : RegRow) : Prop :=
  ∀ (s : State) (c : IssueCtx) (f : SFields), s.wordIssues c row.form f →
    row.pre s c (c.issue row.form f) →
    ∃ (t : State) (u : RodUnit), exec (row.word f) s = .next t ∧ t.unit? c.fid c.ui = some (c.passed u) ∧ s.sameBut t c ∧
      row.post (c.issue row.form f) u

/-- What a long-latency word does when it issues (R165): its destinations are marked empty, its lanes move on, and a producer stands
ready whose effect, carried out, leaves its results; when it takes no effect no producer is made. Nothing else changes. -/
def RegRow.doesLongAt (row : RegRow) (s : State) : Prop :=
  ∀ (c : IssueCtx) (f : SFields), s.wordIssues c row.form f →
    let x := c.issue row.form f
    ∃ (t : State) (u : RodUnit), exec (row.word f) s = .next t ∧ t.unit? c.fid c.ui = some (c.passed u) ∧
      t.mem = s.mem ∧ t.cache = s.cache ∧ t.ops = s.ops ∧
      (∀ r l, u.vec r l = c.u.vec r l) ∧ (∀ i n, (u.rod i).scl n = (c.u.rod i).scl n) ∧ (∀ p, u.pred p = c.u.pred p) ∧
      (takesEffect row.form f x = false → t.producers = s.producers ∧ t.nextId = s.nextId) ∧
      (takesEffect row.form f x = true → ∃ p : Producer, SMap.find t.producers s.nextId = some p ∧ p.frame = c.fid ∧ p.unit = c.ui ∧
        p.rods = x.rods ∧ p.ready = true ∧ p.faulted = false ∧ p.dests = destsOf (row.form.regs f) ∧
        (∀ d ∈ p.dests, (d.1 = .vec → memb d.2 u.vEmpty = true) ∧
          (d.1 = .scl → d.2 ≠ 0 → ∀ i ∈ x.rods, memb d.2 (u.rod i).sEmpty = true)) ∧
        row.post x (c.u.apply p.effect))

/-- The same in every state. -/
def RegRow.doesLong (row : RegRow) : Prop := ∀ s, row.doesLongAt s

/-! ## Chapter 10 -/

/-- A result in whichever form the word has: `g` gives it for a lane. -/
def formHolds (x : Issue) (u : RodUnit) (wide : Bool) (g : Nat → Nat) : Prop :=
  (x.f.dc ≠ .scl → ∀ l ∈ x.lanes, u.laneVal wide x.f.dst.toNat l = g l) ∧
  (x.f.dc = .scl → x.f.dst ≠ 0 → ∀ r ∈ x.rods, ((u.rod r).scl x.f.dst.toNat).toNat = g (x.laneOfRod r))

/-- The width in bits of a result: 32 for a vector form without .D, 64 otherwise. -/
def Issue.bits (x : Issue) : Nat := if x.f.dc == .scl || x.f.isD then 64 else 32

/-- Bit `j` of an extension of an `e`-bit value from bit n − 1 (R204). -/
def extBit (isSigned : Bool) (a : BitVec 64) (n j : Nat) : Bool :=
  if n = 0 then false else if j < n then a.getLsbD j else isSigned && a.getLsbD (n - 1)

/-- Source A of SEXT and ZEXT: under .W a single register or the low 32 bits of a scalar (R204). -/
def Issue.extA (x : Issue) (l : Nat) : Nat := (x.srcA (if x.f.m 6 1 = 1 then 32 else x.bits) l).1

/-- SEXT and ZEXT (R204). -/
def extRow (isSigned : Bool) : RegRow where
  word := if isSigned then .sext else .zext
  form := formExt
  post x u :=
    let n (l : Nat) : Nat := (x.srcB x.bits x.f.simm l).1 % 256
    (x.f.dc ≠ .scl → ∀ l ∈ x.lanes, ∀ j < x.bits,
      (u.laneVal x.f.isD x.f.dst.toNat l).testBit j =
        if x.bits ≤ n l then (x.extA l).testBit j else extBit isSigned (BitVec.ofNat 64 (x.extA l)) (n l) j) ∧
    (x.f.dc = .scl → x.f.dst ≠ 0 → ∀ r ∈ x.rods, ∀ j < 64,
      ((u.rod r).scl x.f.dst.toNat).getLsbD j =
        if 64 ≤ n (x.laneOfRod r) then (x.extA (x.laneOfRod r)).testBit j
        else extBit isSigned (BitVec.ofNat 64 (x.extA (x.laneOfRod r))) (n (x.laneOfRod r)) j)

/-- The carry or borrow bit a lane reads. -/
def Issue.carryIn (x : Issue) (l : Nat) : Nat := if (x.u.pred (predField x.f)).getLsbD l then 1 else 0

/-- IADDC and ISUBB (R198): no active lane's predicate bit is poisoned. -/
def carryRow (sub : Bool) : RegRow where
  word := if sub then .isubb else .iaddc
  form := formCarry
  pre _ _ x := ∀ l ∈ x.lanes, x.u.predPoisoned (predField x.f) l = false
  post x u :=
    let e := if x.f.isD then 64 else 32
    let t (l : Nat) : Int :=
      if sub then ((x.srcA e l).1 : Int) - (x.srcB e x.f.simm l).1 - x.carryIn l
      else (x.srcA e l).1 + (x.srcB e x.f.simm l).1 + x.carryIn l
    (∀ l ∈ x.lanes, (u.laneVal x.f.isD x.f.dst.toNat l : Int) = t l % 2 ^ e ∧
      (u.pred (predField x.f)).getLsbD l = (if sub then decide (t l < 0) else decide ((2 : Int) ^ e ≤ t l))) ∧
    (∀ l < 64, l ∉ x.lanes → (u.pred (predField x.f)).getLsbD l = (x.u.pred (predField x.f)).getLsbD l)

/-- IDP4 and IDP2 (R199): `m` elements of `w` bits. -/
def dotRow (m w : Nat) : RegRow where
  word := if m = 4 then .idp4 else .idp2
  form := formDot
  post x u :=
    let ext (isS : Bool) (v : BitVec w) : Int := if isS then v.toInt else v.toNat
    let sum (l : Nat) : Int := (BitVec.ofNat 32 (x.srcD 32 l).1).toInt +
      ((List.range m).map (fun i => ext (x.f.m 6 1 == 1) (elemAt w i (x.srcA 32 l).1) *
        ext (x.f.m 7 1 == 1) (elemAt w i (x.srcB 32 x.f.simm l).1))).sum
    ∀ l ∈ x.lanes, u.vec x.f.dst.toNat l =
      BitVec.ofInt 32 (if x.f.m 3 1 = 1 then clampInt (-(2 ^ 31)) (2 ^ 31 - 1) (sum l) else sum l)

/-- The condition of R205 on two elements. -/
def condOf (isSigned : Bool) (cc : Nat) {e : Nat} (a b : BitVec e) : Bool :=
  let va : Int := if isSigned then a.toInt else a.toNat
  let vb : Int := if isSigned then b.toInt else b.toNat
  match cc with
  | 0 => decide (va = vb)
  | 1 => decide (va ≠ vb)
  | 2 => decide (va < vb)
  | 3 => decide (va ≤ vb)
  | 4 => decide (vb < va)
  | _ => decide (vb ≤ va)

/-- ICMP and UCMP (R205). -/
def cmpRow (isSigned : Bool) : RegRow where
  word := if isSigned then .icmp else .ucmp
  form := formCmp
  post x u :=
    let e := (SFields.shape x.f).1
    let n := (SFields.shape x.f).2
    let test (l i : Nat) : Bool := condOf isSigned (x.f.m 6 3) (elemAt e i (x.srcA (e * n) l).1)
      (elemAt e i (x.srcB (e * n) (immLane e n x.f) l).1)
    (x.f.dc = .prd → x.f.dst ≠ 0 → ∀ l ∈ x.lanes, (u.pred x.f.dst.toNat).getLsbD l =
      if x.f.m 9 1 = 1 then (List.range n).any (test l) else (List.range n).all (test l)) ∧
    (x.f.dc = .scl → x.f.dst ≠ 0 → ∀ r ∈ x.rods, (u.rod r).scl x.f.dst.toNat = if test (x.laneOfRod r) 0 then 1 else 0) ∧
    (x.f.dc = .vec → ∀ l ∈ x.lanes, ∀ i < n,
      elemAt e i (u.laneVal x.f.isD x.f.dst.toNat l) = if test l i then BitVec.allOnes e else 0)

/-- A predicate as source A or B reads it. -/
def Issue.prdBit (x : Issue) (p l : Nat) : Nat := if (x.u.pred p).getLsbD l then 1 else 0

/-- PLOP (R206). -/
def plopRow : RegRow where
  word := .plop
  form := formPlop
  post x u := x.f.dst ≠ 0 → ∀ l ∈ x.lanes,
    (u.pred x.f.dst.toNat).getLsbD l = x.f.mod.getLsbD (2 * x.prdBit x.f.a.toNat l + x.prdBit x.f.b.toNat l)

/-- PSET (R207). -/
def psetRow : RegRow where
  word := .pset
  form := formPset
  post x u := x.f.dst ≠ 0 → ∀ l ∈ x.lanes, (u.pred x.f.dst.toNat).getLsbD l =
    if x.f.ac = .vec then decide (x.u.vec x.f.a.toNat l ≠ 0)
    else ((x.rodOf l).scl x.f.a.toNat).getLsbD (logicalLane x.width l)

/-- PGET (R207): into a scalar bit n is the bit of logical lane n, into a vector each active lane takes its own. -/
def pgetRow : RegRow where
  word := .pget
  form := formPget
  post x u :=
    (x.f.dc = .scl → x.f.dst ≠ 0 → ∀ r ∈ x.rods, ∀ n < 64, ((u.rod r).scl x.f.dst.toNat).getLsbD n =
      (decide (n < x.width) && (x.u.pred x.f.a.toNat).getLsbD (if x.width = 16 then 16 * r + n else n))) ∧
    (x.f.dc = .vec → ∀ l ∈ x.lanes, (u.vec x.f.dst.toNat l).toNat = x.prdBit x.f.a.toNat l)

/-- MOV (R208). -/
def movRow : RegRow where
  word := .mov
  form := formMov
  post x u := formHolds x u x.f.isD (fun l => (x.srcB x.bits x.f.simm l).1)

/-- SEL (R209). -/
def selRow : RegRow where
  word := .sel
  form := formSel
  pre _ _ x := ∀ l ∈ selLanes x, x.u.predPoisoned (predField x.f) l = false
  post x u :=
    let pick (l pl : Nat) : Nat :=
      if (x.u.pred (predField x.f)).getLsbD pl then (x.srcA x.bits l).1 else (x.srcB x.bits x.f.simm l).1
    (x.f.dc ≠ .scl → ∀ l ∈ x.lanes, u.laneVal x.f.isD x.f.dst.toNat l = pick l l) ∧
    (x.f.dc = .scl → x.f.dst ≠ 0 → ∀ r ∈ x.rods, ((u.rod r).scl x.f.dst.toNat).toNat =
      pick (x.laneOfRod r) ((lowestLaneOf x.width x.e.lanes r).getD 0))

/-- LEA (R210). -/
def leaRow : RegRow where
  word := .lea
  form := formLea
  post x u :=
    let b (l : Nat) : Int := match x.f.bc with
      | .vec => if x.f.m 9 1 = 1 then ((x.u.vec x.f.b.toNat l).toNat : Int) else (x.u.vec x.f.b.toNat l).toInt
      | .scl => ((x.rodOf l).scl x.f.b.toNat).toNat
      | _ => (x.lit.getD x.f.simm).toNat
    let off : Int := if x.f.bc = .imm then 0 else x.f.simm.toInt
    formHolds x u true (fun l => (((x.srcA 64 l).1 + b l * 2 ^ x.f.m 6 3 + off) % 2 ^ 64).toNat)

/-- What a special register reads in a lane (R107, R121, R186, R211, R228, R259). -/
def Issue.special (x : Issue) (l : Nat) : Nat → BitVec 64
  | 0x10 => BitVec.ofNat 64 (logicalLane x.fr.width l)
  | 0x11 => BitVec.ofNat 64 (x.u.rodBase + rodOfLane x.fr.width l)
  | 0x12 => BitVec.ofNat 64 x.fr.width
  | 0x13 => 32
  | 0x14 => x.fr.frameId.setWidth 64
  | 0x15 => BitVec.ofNat 64 x.fr.x
  | 0x16 => BitVec.ofNat 64 x.fr.y
  | 0x17 => BitVec.ofNat 64 x.fr.z
  | 0x18 => x.fr.karg
  | 0x19 => BitVec.ofNat 64 ((x.fr.bayCores[x.u.side]?).getD 0)
  | 0x1A => (x.rodOf l).exm
  | 0x1B => (x.rodOf l).fpx
  | 0x1C => x.fr.rclk
  | 0x1D => (x.rodOf l).tsc
  | 0x1E => (x.rodOf l).satcnt
  | 0x1F => (x.rodOf l).srseed
  | _ => 0

/-- No flag-setting producer of the rods concerned is in flight where the word is a MOVS of FPX or SATCNT (R188, R228). -/
def noFlagsAwaited (s : State) (c : IssueCtx) (x : Issue) (num : Nat) : Prop :=
  (num = 0x1B ∨ num = 0x1E) → s.flagsInFlight c x.rods = false

/-- MOVS reading (R211): every special register. -/
def movsReadRow : RegRow where
  word := .movsRead
  form := formMovsRead
  pre s c x := noFlagsAwaited s c x x.f.a.toNat
  post x u := formHolds x u x.f.isD (fun l => (x.special l x.f.a.toNat).toNat % 2 ^ x.bits)

/-- The writable bits of a special register (R65, R146, R181, R186, R228). -/
def writableBits (width : Nat) : Nat → BitVec 64
  | 0x1A => BitVec.ofNat 64 (2 ^ width - 1)
  | 0x1B => 0x7F7F
  | 0x1D => 0xFFFF
  | 0x1E => 0xFFFFFFFF
  | _ => BitVec.allOnes 64

/-- A special register that software may write, in a logical rod. -/
def LRod.special (r : LRod) : Nat → BitVec 64
  | 0x1A => r.exm
  | 0x1B => r.fpx
  | 0x1D => r.tsc
  | 0x1E => r.satcnt
  | _ => r.srseed

/-- MOVS writing (R212): each writable special register takes its writable bits, and the others of the rod stay. -/
def movsWriteRow : RegRow where
  word := .movsWrite
  form := formMovsWrite
  pre s c x := noFlagsAwaited s c x x.f.dst.toNat ∧ ∀ r ∈ x.rods, (x.srcB 64 x.f.simm (x.laneOfRod r)).2 = false
  post x u := ∀ r ∈ x.rods, ∀ n ∈ [0x1A, 0x1B, 0x1D, 0x1E, 0x1F], (u.rod r).special n =
    if n = x.f.dst.toNat then BitVec.ofNat 64 (x.srcB 64 x.f.simm (x.laneOfRod r)).1 &&& writableBits x.fr.width n
    else (x.u.rod r).special n

/-- Division (R173, R197), as rows of one relation on elements. -/
def divRow (word : SFields → Instr) (rel : (e : Nat) → (a b r : BitVec e) → Prop) : RegRow where
  word := word
  form := formIdiv
  post x u :=
    let e := (SFields.shape x.f).1
    (x.f.dc ≠ .scl → ∀ l ∈ x.lanes, rel e (elemAt e 0 (x.srcA e l).1) (elemAt e 0 (x.srcB e x.f.simm l).1)
      (elemAt e 0 (u.laneVal x.f.isD x.f.dst.toNat l))) ∧
    (x.f.dc = .scl → x.f.dst ≠ 0 → ∀ r ∈ x.rods, rel 64 (elemAt 64 0 (x.srcA 64 (x.laneOfRod r)).1)
      (elemAt 64 0 (x.srcB 64 x.f.simm (x.laneOfRod r)).1) ((u.rod r).scl x.f.dst.toNat))

/-- IDIV, IREM, UDIV and UREM (R173). -/
def divRows : List RegRow := [
  divRow .idiv (fun e a b r => r = if b = 0 then BitVec.allOnes e else BitVec.ofInt e (Int.tdiv a.toInt b.toInt)),
  divRow .irem (fun e a b r => r = if b = 0 then a else BitVec.ofInt e (Int.tmod a.toInt b.toInt)),
  divRow .udiv (fun e a b r => r = if b = 0 then BitVec.allOnes e else a / b),
  divRow .urem (fun _ a b r => r = if b = 0 then a else a % b)]

/-- CAPQ and FMTQ: a scalar for each logical rod from operand B (R213, R214). -/
def queryRow (word : SFields → Instr) (fm : Form) (g : Issue → Nat → BitVec 64) : RegRow where
  word := word
  form := fm
  post x u := x.f.dst ≠ 0 → ∀ r ∈ x.rods, (u.rod r).scl x.f.dst.toNat = g x (x.srcB 64 x.f.zimm (x.laneOfRod r)).1

end Sys2Proof.Machine
end

