-- ==== Sys2Proof/Safety/Float.lean ====
section
/-! DEFINITION. The FP32 and conversion words of chapter 11 as their rules state them, over rational numbers (R175 to R180, R217 to
R229). -/

namespace Sys2Proof.Machine

/-! ## FP32 values (R175, R179) -/

/-- 2 to an integer power. -/
def pow2 (e : Int) : Rat := (2 : Rat) ^ e

/-- The magnitude of a finite FP32 encoding, from its low 31 bits (R175). -/
def fpMag (m : Nat) : Rat :=
  if m / 2 ^ 23 = 0 then (m : Rat) * pow2 (-149) else ((2 ^ 23 + m % 2 ^ 23 : Nat) : Rat) * pow2 ((m / 2 ^ 23 : Nat) - 150)

/-- An FP32 operand or an exact result: NaN, an infinity, or a sign and a magnitude; a zero keeps its sign (R178). -/
inductive FpExt where
  | nan
  | inf (neg : Bool)
  | fin (neg : Bool) (mag : Rat)
  deriving DecidableEq, Repr

/-- The value of an FP32 encoding (R175). -/
def fpExt (x : Nat) : FpExt :=
  let neg := x.testBit 31
  let m := x % 2 ^ 31
  if 0x7F800000 < m then .nan else if m = 0x7F800000 then .inf neg else .fin neg (fpMag m)

/-- The signed value of a finite one. -/
def FpExt.val : FpExt → Rat
  | .fin neg q => if neg then -q else q
  | _ => 0

/-- NaN. -/
def FpExt.isNan : FpExt → Bool
  | .nan => true
  | _ => false

/-- The negation, exact. -/
def FpExt.neg : FpExt → FpExt
  | .nan => .nan
  | .inf n => .inf !n
  | .fin n q => .fin (!n) q

/-- A signed exact value that is not zero, or a zero of the given sign. -/
def FpExt.of (q : Rat) (zneg : Bool) : FpExt := if q = 0 then .fin zneg 0 else if q < 0 then .fin true (-q) else .fin false q

/-- The exact sum (R177, R178). -/
def FpExt.add (rm : RMode) : FpExt → FpExt → FpExt
  | .nan, _ => .nan
  | _, .nan => .nan
  | .inf n, .inf m => if n = m then .inf n else .nan
  | .inf n, .fin _ _ => .inf n
  | .fin _ _, .inf n => .inf n
  | .fin n p, .fin m q =>
    FpExt.of ((FpExt.fin n p).val + (FpExt.fin m q).val) (if p = 0 ∧ q = 0 ∧ n = m then n else rm == .rd)

/-- The exact product (R177, R178). -/
def FpExt.mul : FpExt → FpExt → FpExt
  | .nan, _ => .nan
  | _, .nan => .nan
  | .inf n, .inf m => .inf (n != m)
  | .inf n, .fin m q => if q = 0 then .nan else .inf (n != m)
  | .fin m q, .inf n => if q = 0 then .nan else .inf (n != m)
  | .fin n p, .fin m q => .fin (n != m) (p * q)

/-- The exact quotient (R177). -/
def FpExt.div : FpExt → FpExt → FpExt
  | .nan, _ => .nan
  | _, .nan => .nan
  | .inf _, .inf _ => .nan
  | .inf n, .fin m _ => .inf (n != m)
  | .fin m _, .inf n => .fin (n != m) 0
  | .fin n p, .fin m q => if q = 0 then (if p = 0 then .nan else .inf (n != m)) else .fin (n != m) (p / q)

/-- One value comes before another; NaN before none. -/
def FpExt.lt : FpExt → FpExt → Bool
  | .inf n, .inf m => n && !m
  | .inf n, .fin _ _ => n
  | .fin _ _, .inf m => !m
  | .fin n p, .fin m q => decide ((FpExt.fin n p).val < (FpExt.fin m q).val)
  | _, _ => false

/-- An encoding with a sign bit. -/
def signedEnc (neg : Bool) (m : Nat) : Nat := if neg then 2 ^ 31 + m else m

/-- `r` is the FP32 encoding that an exact value rounds to: NaN is canonical (R176), an infinity stays or is clamped under SAT (R218),
and a finite value goes once through the rounding of R179 in some exact form n / d × 2^e. -/
def fpRounds (rm : RMode) (sat : Bool) (rnd : Nat) (v : FpExt) (r : Nat) : Prop :=
  match v with
  | .nan => r = 0x7FC00000
  | .inf neg => r = signedEnc neg (if sat then 0x7F7FFFFF else 0x7F800000)
  | .fin neg q => ∃ (n d : Nat) (e : Int), 0 < d ∧ (n : Rat) / d * pow2 e = q ∧ r = (fp32.round rm sat rnd (.fin neg n d e)).1

/-- How a number compares with another. -/
def orderOf (a b : Rat) : Ordering := if a < b then .lt else if a = b then .eq else .gt

/-- One rounding of an exact magnitude to a grid of rising magnitudes, to the grid's place `c` (R179, R180): `cmp t` tells how `t`
compares with the exact magnitude, and `lo` is the last place of the grid that does not pass it. -/
def roundsTo (mag : Nat → Rat) (cmp : Rat → Ordering) (rm : RMode) (neg : Bool) (rnd c : Nat) : Prop :=
  ∃ lo : Nat, cmp (mag lo) ≠ .gt ∧ cmp (mag (lo + 1)) = .gt ∧
    let part (n : Nat) : Ordering := cmp (mag lo + (mag (lo + 1) - mag lo) * n / 65536)
    let up : Bool := match rm with
      | .rne => part 32768 == .lt || (part 32768 == .eq && lo % 2 == 1)
      | .rz => false
      | .rd => neg
      | .ru => !neg
      | .sr => rnd != 0 && part (65536 - rnd) != .gt
    c = if cmp (mag lo) = .eq ∨ up = false then lo else lo + 1

/-- The rounding of R179 into FP32 in the modes other than SR, on magnitudes: `q` is the magnitude and `m` the encoding chosen. -/
def choosesMag (rm : RMode) (sat neg : Bool) (q : Rat) (m : Nat) : Prop :=
  let top : Nat := 0x7F7FFFFF
  let toward : Bool := rm == .rz || (rm == .rd && !neg) || (rm == .ru && neg)
  (m ≤ top ∨ m = 0x7F800000) ∧
  (∀ y ≤ top, fpMag y = q → m = y) ∧
  (toward = true → m ≤ top ∧ fpMag m ≤ q ∧ ∀ y ≤ top, fpMag y ≤ q → y ≤ m) ∧
  (toward = false → rm ≠ .rne → (q ≤ fpMag top → m ≤ top ∧ q ≤ fpMag m ∧ ∀ y ≤ top, q ≤ fpMag y → m ≤ y) ∧
    (fpMag top < q → m = if sat then top else 0x7F800000)) ∧
  (rm = .rne → (q < pow2 128 - pow2 103 → m ≤ top ∧
      ∀ y ≤ top, (fpMag m - q).abs ≤ (fpMag y - q).abs ∧ (y ≠ m → (fpMag m - q).abs = (fpMag y - q).abs → m % 2 = 0)) ∧
    (pow2 128 - pow2 103 ≤ q → m = if sat then top else 0x7F800000))

/-! ## The arithmetic words -/

/-- The immediate of an FP32 word (R217). -/
def fpImmOf (f : SFields) : BitVec 64 := BitVec.ofNat 64 (f.imm.toNat * 2 ^ 10)

/-- An FP32 result in whichever form the word has: the relation holds of the encodings read and the one written. -/
def fpHolds (x : Issue) (u : RodUnit) (rel : (rnd a b d r : Nat) → Prop) : Prop :=
  let at_ (l r : Nat) : Prop := rel (x.rnd l 0) (x.srcA 32 l).1 (x.srcB 32 (fpImmOf x.f) l).1 (x.srcD 32 l).1 r
  (x.f.dc = .vec → ∀ l ∈ x.lanes, at_ l (u.vec x.f.dst.toNat l).toNat) ∧
  (x.f.dc = .scl → x.f.dst ≠ 0 → ∀ i ∈ x.rods, at_ (x.laneOfRod i) ((u.rod i).scl x.f.dst.toNat).toNat)

/-- A row of R218, R219 or R221 by its relation. -/
def fpRow (word : SFields → Instr) (fm : Form) (rel : (rm : RMode) → (sat : Bool) → (rnd a b d r : Nat) → Prop) : RegRow where
  word := word
  form := fm
  post x u := fpHolds x u (rel x.rm x.sat)

/-- FADD, FSUB, FMUL and the fused words (R218). -/
def fpArithRows : List RegRow := [
  fpRow .fadd formFp2 (fun rm sat rnd a b _ r => fpRounds rm sat rnd ((fpExt a).add rm (fpExt b)) r),
  fpRow .fsub formFp2 (fun rm sat rnd a b _ r => fpRounds rm sat rnd ((fpExt a).add rm (fpExt b).neg) r),
  fpRow .fmul formFp2 (fun rm sat rnd a b _ r => fpRounds rm sat rnd ((fpExt a).mul (fpExt b)) r),
  fpRow .fma formFma (fun rm sat rnd a b d r => fpRounds rm sat rnd (((fpExt a).mul (fpExt b)).add rm (fpExt d)) r),
  fpRow .fms formFma (fun rm sat rnd a b d r => fpRounds rm sat rnd (((fpExt a).mul (fpExt b)).add rm (fpExt d).neg) r),
  fpRow .fnma formFma (fun rm sat rnd a b d r => fpRounds rm sat rnd (((fpExt a).mul (fpExt b)).neg.add rm (fpExt d)) r)]

/-- The integral value FRND chooses for a magnitude (R220), in the modes other than SR. -/
def integralOf (rm : RMode) (neg : Bool) (q : Rat) (k : Nat) : Prop :=
  match rm with
  | .rz => (k : Rat) ≤ q ∧ q < k + 1
  | .rd => if neg then q ≤ (k : Rat) ∧ (k : Rat) < q + 1 else (k : Rat) ≤ q ∧ q < k + 1
  | .ru => if neg then (k : Rat) ≤ q ∧ q < k + 1 else q ≤ (k : Rat) ∧ (k : Rat) < q + 1
  | .rne => ((k : Rat) - q).abs ≤ 1 / 2 ∧ (((k : Rat) - q).abs = 1 / 2 → k % 2 = 0)
  | .sr => (k : Rat) < q + 1 ∧ q < k + 1

/-- FRND (R220): NaN is canonical, infinities and zeros stay, any other value goes to an integral one of its sign. -/
def frndRel (rm : RMode) (_sat : Bool) (_rnd a _b _d r : Nat) : Prop :=
  match fpExt a with
  | .nan => r = 0x7FC00000
  | .inf _ => r = a
  | .fin neg q => if q = 0 then r = a else ∃ k : Nat, integralOf rm neg q k ∧ fpExt r = .fin neg k

/-- The smaller or the larger of two operands (R221). -/
def minMaxRel (isMax : Bool) (a b r : Nat) : Prop :=
  let va := fpExt a
  let vb := fpExt b
  if va.isNan ∧ vb.isNan then r = 0x7FC00000
  else if va.isNan then r = b
  else if vb.isNan then r = a
  else (r = a ∨ r = b) ∧
    (if isMax then (fpExt r).lt va = false ∧ (fpExt r).lt vb = false else va.lt (fpExt r) = false ∧ vb.lt (fpExt r) = false) ∧
    (va = .fin true 0 → vb = .fin false 0 → r = if isMax then b else a) ∧
    (va = .fin false 0 → vb = .fin true 0 → r = if isMax then a else b)

/-- The sign words (R221): the low 31 bits of A under a sign, NaN canonical. -/
def signRel (neg : Nat → Nat → Bool) (a b r : Nat) : Prop :=
  if (fpExt a).isNan then r = 0x7FC00000 else r = signedEnc (neg a b) (a % 2 ^ 31)

/-- FRND, FMIN, FMAX, FABS, FNEG and FSGN. -/
def fpExactRows : List RegRow := [
  fpRow .frnd formFp1 frndRel,
  fpRow .fmin formFp2Exact (fun _ _ _ a b _ r => minMaxRel false a b r),
  fpRow .fmax formFp2Exact (fun _ _ _ a b _ r => minMaxRel true a b r),
  fpRow .fabs formFp1Exact (fun _ _ _ a b _ r => signRel (fun _ _ => false) a b r),
  fpRow .fneg formFp1Exact (fun _ _ _ a b _ r => signRel (fun a _ => !a.testBit 31) a b r),
  fpRow .fsgn formFp2Exact (fun _ _ _ a b _ r => signRel (fun _ b => b.testBit 31) a b r)]

/-- FLDEXP (R220): a × 2^S(b), rounded once; zeros stay and NaN is canonical. An infinity is clamped under SAT (R218; log 46). -/
def ldexpRel (rm : RMode) (sat : Bool) (rnd a : Nat) (k : Int) (r : Nat) : Prop :=
  match fpExt a with
  | .fin neg q => if q = 0 then r = a else fpRounds rm sat rnd (.fin neg (q * pow2 k)) r
  | v => fpRounds rm sat rnd v r

/-- FLDEXP reads B as a signed integer. -/
def fldexpRow : RegRow where
  word := .fldexp
  form := formFp2
  post x u :=
    let at_ (l r : Nat) : Prop :=
      ldexpRel x.rm x.sat (x.rnd l 0) (x.srcA 32 l).1 (BitVec.ofNat 32 (x.srcB 32 x.f.simm l).1).toInt r
    (x.f.dc = .vec → ∀ l ∈ x.lanes, at_ l (u.vec x.f.dst.toNat l).toNat) ∧
    (x.f.dc = .scl → x.f.dst ≠ 0 → ∀ i ∈ x.rods, at_ (x.laneOfRod i) ((u.rod i).scl x.f.dst.toNat).toNat)

/-! ## The long-latency words (R177, R218, R219) -/

/-- FDIV and FRCP. -/
def divRel (rm : RMode) (sat : Bool) (rnd a b _d r : Nat) : Prop := fpRounds rm sat rnd ((fpExt a).div (fpExt b)) r

/-- FSQRT: the special cases, and one rounding of the root, which squares compare with the operand. -/
def sqrtRel (rm : RMode) (sat : Bool) (rnd a r : Nat) : Prop :=
  match fpExt a with
  | .nan => r = 0x7FC00000
  | .inf neg => fpRounds rm sat rnd (if neg then .nan else .inf false) r
  | .fin neg q =>
    if q = 0 then r = a else if neg then r = 0x7FC00000
    else r < 0x7F800000 ∧ roundsTo fpMag (fun t => orderOf (t * t) q) rm false rnd r

/-- FRSQ: the special cases, and one rounding of the root of 1 / a, which squares compare with it. -/
def rsqRel (rm : RMode) (sat : Bool) (rnd a r : Nat) : Prop :=
  match fpExt a with
  | .nan => r = 0x7FC00000
  | .inf neg => fpRounds rm sat rnd (if neg then .nan else .fin false 0) r
  | .fin neg q =>
    if q = 0 then fpRounds rm sat rnd (.inf neg) r else if neg then r = 0x7FC00000
    else r < 0x7F800000 ∧ roundsTo fpMag (fun t => orderOf (t * t * q) 1) rm false rnd r

/-- The special and exact cases of FEXP2, FLOG2, FSIN, FCOS and FTANH (R177, R219). -/
def exp2Rel (rm : RMode) (sat : Bool) (rnd a r : Nat) : Prop :=
  match fpExt a with
  | .nan => r = 0x7FC00000
  | .inf neg => fpRounds rm sat rnd (if neg then .fin false 0 else .inf false) r
  | .fin neg q => ∀ k : Int, -149 ≤ k → k ≤ 127 → (FpExt.fin neg q).val = k → fpRounds rm sat rnd (.fin false (pow2 k)) r

/-- FLOG2. -/
def log2Rel (rm : RMode) (sat : Bool) (rnd a r : Nat) : Prop :=
  match fpExt a with
  | .nan => r = 0x7FC00000
  | .inf neg => fpRounds rm sat rnd (if neg then .nan else .inf false) r
  | .fin neg q =>
    if q = 0 then fpRounds rm sat rnd (.inf true) r else if neg then r = 0x7FC00000
    else ∀ k : Int, -149 ≤ k → k ≤ 127 → q = pow2 k → fpRounds rm sat rnd (FpExt.of k false) r

/-- FSIN in half-turns. -/
def sinRel (rm : RMode) (sat : Bool) (rnd a r : Nat) : Prop :=
  match fpExt a with
  | .nan => r = 0x7FC00000
  | .inf _ => r = 0x7FC00000
  | .fin neg q => ∀ k : Nat, (q = k → fpRounds rm sat rnd (.fin neg 0) r) ∧
      (q = k + 1 / 2 → fpRounds rm sat rnd (.fin (neg != decide (k % 2 = 1)) 1) r)

/-- FCOS in half-turns. -/
def cosRel (rm : RMode) (sat : Bool) (rnd a r : Nat) : Prop :=
  match fpExt a with
  | .nan => r = 0x7FC00000
  | .inf _ => r = 0x7FC00000
  | .fin _ q => ∀ k : Nat, (q = k → fpRounds rm sat rnd (.fin (decide (k % 2 = 1)) 1) r) ∧
      (q = k + 1 / 2 → fpRounds rm sat rnd (.fin false 0) r)

/-- FTANH. -/
def tanhRel (rm : RMode) (sat : Bool) (rnd a r : Nat) : Prop :=
  match fpExt a with
  | .nan => r = 0x7FC00000
  | .inf neg => fpRounds rm sat rnd (.fin neg 1) r
  | .fin _ q => q = 0 → r = a

/-- FDIV, FSQRT, FRCP and FRSQ. -/
def fpLongRows : List RegRow := [
  fpRow .fdiv formFdiv divRel,
  fpRow .frcp formFp1 (fun rm sat rnd a _ _ r => fpRounds rm sat rnd ((FpExt.fin false 1).div (fpExt a)) r),
  fpRow .fsqrt formFp1 (fun rm sat rnd a _ _ r => sqrtRel rm sat rnd a r),
  fpRow .frsq formFp1 (fun rm sat rnd a _ _ r => rsqRel rm sat rnd a r)]

/-- FEXP2, FLOG2, FSIN, FCOS and FTANH. -/
def fpElemRows : List RegRow := [
  fpRow .fexp2 formFp1 (fun rm sat rnd a _ _ r => exp2Rel rm sat rnd a r),
  fpRow .flog2 formFp1 (fun rm sat rnd a _ _ r => log2Rel rm sat rnd a r),
  fpRow .fsin formFp1 (fun rm sat rnd a _ _ r => sinRel rm sat rnd a r),
  fpRow .fcos formFp1 (fun rm sat rnd a _ _ r => cosRel rm sat rnd a r),
  fpRow .ftanh formFp1 (fun rm sat rnd a _ _ r => tanhRel rm sat rnd a r)]

/-! ## Compare, classify, convert -/

/-- The conditions of R222. -/
def fpCondOf (cc : Nat) (a b : FpExt) : Bool :=
  let un := a.isNan || b.isNan
  match cc with
  | 0 => !un && !a.lt b && !b.lt a
  | 1 => un || a.lt b || b.lt a
  | 2 => a.lt b
  | 3 => !un && !b.lt a
  | 4 => b.lt a
  | 5 => !un && !a.lt b
  | 6 => un
  | _ => !un

/-- The classes of R223, by bit position. -/
def fpClassOf (x : Nat) : Nat :=
  let sub := decide (x % 2 ^ 31 < 2 ^ 23)
  match fpExt x with
  | .nan => 8
  | .inf neg => if neg then 0 else 7
  | .fin neg q => if q = 0 then (if neg then 3 else 4) else if sub then (if neg then 2 else 5) else if neg then 1 else 6

/-- A test that goes into a predicate bit, a scalar 0 or 1, or a lane of all ones or zeros (R205, R222). -/
def testHolds (x : Issue) (u : RodUnit) (test : Nat → Bool) : Prop :=
  (x.f.dc = .prd → x.f.dst ≠ 0 → ∀ l ∈ x.lanes, (u.pred x.f.dst.toNat).getLsbD l = test l) ∧
  (x.f.dc = .scl → x.f.dst ≠ 0 → ∀ r ∈ x.rods, (u.rod r).scl x.f.dst.toNat = if test (x.laneOfRod r) then 1 else 0) ∧
  (x.f.dc = .vec → ∀ l ∈ x.lanes, u.vec x.f.dst.toNat l = if test l then BitVec.allOnes 32 else 0)

/-- FCMP (R222). -/
def fcmpRow : RegRow where
  word := .fcmp
  form := formFcmp
  post x u := testHolds x u (fun l => fpCondOf (x.f.m 6 3) (fpExt (x.srcA 32 l).1) (fpExt (x.srcB 32 (fpImmOf x.f) l).1))

/-- FCLASS (R223). -/
def fclassRow : RegRow where
  word := .fclass
  form := formFclass
  post x u :=
    let cls (l : Nat) : Nat := fpClassOf (x.srcA 32 l).1
    (x.f.dc = .prd → x.f.dst ≠ 0 → ∀ l ∈ x.lanes, (u.pred x.f.dst.toNat).getLsbD l =
      (x.lit.getD x.f.zimm).getLsbD (cls l)) ∧
    (x.f.dc = .scl → x.f.dst ≠ 0 → ∀ r ∈ x.rods, ((u.rod r).scl x.f.dst.toNat).toNat = 2 ^ cls (x.laneOfRod r)) ∧
    (x.f.dc = .vec → ∀ l ∈ x.lanes, (u.vec x.f.dst.toNat l).toNat = 2 ^ cls l)

/-- An exact value of the machine as a number. -/
def XVal.ext : XVal → FpExt
  | .nan => .nan
  | .inf neg => .inf neg
  | .fin neg n d e => .fin neg ((n : Rat) / d * pow2 e)

/-- The magnitude of a value. -/
def FpExt.abs : FpExt → FpExt
  | .nan => .nan
  | .inf _ => .inf false
  | .fin _ q => .fin false q

/-- The capture of AMAX (R226): the old value of the register, where a NaN counts as −inf, against the largest magnitude of the source
values that are numbers, rounded up into FP32; with no such value the register stays. -/
def captures (vs : List FpExt) (old r : BitVec 64) : Prop :=
  ((∀ v ∈ vs, v.isNan = true) → r = old) ∧
  (∀ v ∈ vs, v.isNan = false → (∀ w ∈ vs, v.abs.lt w.abs = false) →
    ∃ m, fpRounds .ru false 0 v.abs m ∧ r.toNat < 2 ^ 32 ∧
      minMaxRel true (if (fpExt (old.toNat % 2 ^ 32)).isNan = true then 0xFF800000 else old.toNat % 2 ^ 32) m r.toNat)

/-- CVT and CVTS (R224, R225): both slots are bound, neither is a block image and the destination accepts the mode. The result goes
once through the destination slot's rounding. Under AMAX each logical rod captures over its active lanes (R226). -/
def cvtRow (scaled : Bool) : RegRow where
  word := if scaled then .cvts else .cvt
  form := if scaled then formCvts else formCvt
  pre _ _ x := slotCause x.fr [cvtFa x.f, cvtFd x.f] (cvtFd x.f) (x.f.m 0 3) = none
  post x u := ∀ ba bd, x.fr.slot (cvtFa x.f) = some ba → x.fr.slot (cvtFd x.f) = some bd →
    let v (l : Nat) : XVal :=
      let a := ba.decode ((x.srcA 32 l).1 % 2 ^ ba.width)
      if scaled then (a.mul (fp32.decode (x.srcB 32 0 l).1)).1 else a
    let r (l : Nat) : Nat := (bd.round (x.f.m 0 3) x.sat (x.rnd l 0) (v l)).1
    (x.f.dc = .vec → ∀ l ∈ x.lanes, (u.vec x.f.dst.toNat l).toNat = r l % 2 ^ 32) ∧
    (x.f.dc = .scl → x.f.dst ≠ 0 → (x.f.i 21 1 = 0 ∨ x.f.i 13 8 ≠ x.f.dst.toNat) →
      ∀ i ∈ x.rods, ((u.rod i).scl x.f.dst.toNat).toNat = r (x.laneOfRod i) % 2 ^ 64) ∧
    (x.f.i 21 1 = 1 → x.f.i 13 8 ≠ 0 → (x.f.dc = .scl → x.f.i 13 8 ≠ x.f.dst.toNat) → ∀ i ∈ x.rods,
      let ls := if x.f.dc = .scl then (if ∃ l ∈ x.lanes, rodOfLane x.width l = i then [x.laneOfRod i] else [])
        else x.lanes.filter (fun l => rodOfLane x.width l == i)
      captures (ls.map (fun l => (ba.decode ((x.srcA 32 l).1 % 2 ^ ba.width)).ext)) ((x.u.rod i).scl (x.f.i 13 8))
        ((u.rod i).scl (x.f.i 13 8)))

/-- PACK (R229): field `j` of the result is the low bits of register A + j, and the bits above the fields are clear. -/
def packRow : RegRow where
  word := .pack
  form := packForm false
  post x u := ∀ l ∈ x.lanes, ∀ b < 32, (u.vec x.f.dst.toNat l).getLsbD b =
    (decide (b < x.f.packN * x.f.packW) && (x.u.vec (x.f.a.toNat + b / x.f.packW) l).getLsbD (b % x.f.packW))

/-- UNPACK (R229): every source is read before a register is written. -/
def unpackRow : RegRow where
  word := .unpack
  form := packForm true
  post x u := ∀ l ∈ x.lanes, ∀ j < x.f.packN,
    u.vec (x.f.dst.toNat + j) l =
      let v := (x.u.vec x.f.a.toNat l).extractLsb' (j * x.f.packW) x.f.packW
      if x.f.m 6 1 = 1 then v.signExtend 32 else v.setWidth 32

/-- The E8M0 code of SCALEB (R227): from the power of two below the magnitude, clamped to 0 to 254. -/
def scalebCode (a : Nat) (emax : Int) (X : Nat) : Prop :=
  match fpExt a with
  | .nan => X = 255
  | .inf _ => X = 254
  | .fin _ q => if q = 0 then X = 127 else ∀ k : Int, pow2 k ≤ q → q < pow2 (k + 1) → (X : Int) = max 0 (min 254 (k - emax + 127))

/-- SCALEB (R227): the E8M0 code, or its inverse in FP32. -/
def scalebRow : RegRow where
  word := .scaleb
  form := formScaleb
  post x u :=
    let out (l r : Nat) : Prop :=
      ∃ X, scalebCode (x.srcA 32 l).1 (BitVec.ofNat 32 (x.srcB 32 x.f.simm l).1).toInt X ∧
        if x.f.m 6 1 = 1 then (if X = 255 then r = 0x7FC00000 else fpExt r = .fin false (pow2 (127 - X))) else r = X
    (x.f.dc = .vec → ∀ l ∈ x.lanes, out l (u.vec x.f.dst.toNat l).toNat) ∧
    (x.f.dc = .scl → x.f.dst ≠ 0 → ∀ r ∈ x.rods, out (x.laneOfRod r) ((u.rod r).scl x.f.dst.toNat).toNat)

/-! ## Across lanes (R230 to R236) -/

/-- The participants of a logical rod, in ascending order (R230). -/
def partsOf (x : Issue) (rod : Nat) : List Nat := x.lanes.filter (fun l => rodOfLane x.width l == rod)

/-- The unit lane of logical lane `j` of a logical rod, when it exists and takes part (R231). -/
def sourceLane (x : Issue) (rod : Nat) (j : Int) : Option Nat :=
  (partsOf x rod).find? (fun l => (logicalLane x.width l : Int) == j)

/-- The shuffles by the source position each takes (R231): 0 SHFL, 1 SHFLU, 2 SHFLD, 3 SHFLX. -/
def shflRow (kind : Nat) : RegRow where
  word := match kind with
    | 0 => .shfl
    | 1 => .shflu
    | 2 => .shfld
    | _ => .shflx
  form := formShfl
  post x u := ∀ l ∈ x.lanes,
    let b := (x.srcB 32 x.f.zimm l).1
    let d : Nat := if x.f.m 10 1 = 1 then b * x.width / 64 else b
    let me := logicalLane x.width l
    let j : Int := match kind with
      | 0 => d
      | 1 => (me : Int) - d
      | 2 => (me : Int) + d
      | _ => (me ^^^ d : Nat)
    let from_ := sourceLane x (rodOfLane x.width l) j
    u.laneVal x.f.isD x.f.dst.toNat l = (x.srcA x.bits (from_.getD l)).1 ∧
    (predField x.f ≠ 0 → (u.pred (predField x.f)).getLsbD l = from_.isSome)

/-- BCST (R232). -/
def bcstRow : RegRow where
  word := .bcst
  form := formBcst
  post x u :=
    let src (l : Nat) : Option Nat := sourceLane x (rodOfLane x.width l) (x.srcB 64 x.f.zimm l).1
    (x.f.dc = .vec → ∀ l ∈ x.lanes, u.laneVal x.f.isD x.f.dst.toNat l = (x.srcA x.bits ((src l).getD l)).1 ∧
      (predField x.f ≠ 0 → (u.pred (predField x.f)).getLsbD l = (src l).isSome)) ∧
    (x.f.dc = .scl → x.f.dst ≠ 0 → ∀ r ∈ x.rods, ((u.rod r).scl x.f.dst.toNat).toNat =
      match src (x.laneOfRod r) with
      | some j => (x.srcA (if x.f.isD then 64 else 32) j).1
      | none => 0)

/-- VOTE (R233): no participant's tested predicate is poisoned. -/
def voteRow : RegRow where
  word := .vote
  form := formVote
  pre _ _ x := ∀ l ∈ x.lanes, x.u.predPoisoned x.f.a.toNat l = false
  post x u :=
    let p (l : Nat) : Bool := (x.u.pred x.f.a.toNat).getLsbD l
    let res (rod : Nat) : Bool := match x.f.m 6 2 with
      | 0 => (partsOf x rod).all p
      | 1 => (partsOf x rod).any p
      | _ => (partsOf x rod).all p || (partsOf x rod).all (fun l => !p l)
    (x.f.dc = .prd → x.f.dst ≠ 0 → ∀ l ∈ x.lanes, (u.pred x.f.dst.toNat).getLsbD l = res (rodOfLane x.width l)) ∧
    (x.f.dc = .scl → x.f.dst ≠ 0 → ∀ r ∈ x.rods,
      if x.f.m 6 2 = 3 then ∀ n < 64, ((u.rod r).scl x.f.dst.toNat).getLsbD n =
        (partsOf x r).any (fun l => logicalLane x.width l == n && p l)
      else (u.rod r).scl x.f.dst.toNat = if res r then 1 else 0)

/-- ELECT (R234). -/
def electRow : RegRow where
  word := .elect
  form := formElect
  post x u :=
    (x.f.dc = .prd → x.f.dst ≠ 0 → ∀ l ∈ x.lanes, (u.pred x.f.dst.toNat).getLsbD l =
      (partsOf x (rodOfLane x.width l)).all (fun m => decide (l ≤ m))) ∧
    (x.f.dc = .scl → x.f.dst ≠ 0 → ∀ r ∈ x.rods, ∀ l ∈ partsOf x r, (∀ m ∈ partsOf x r, l ≤ m) →
      ((u.rod r).scl x.f.dst.toNat).toNat = logicalLane x.width l)

/-- The 32-bit combinations of R235 and R236 and their identities. -/
def combine (op : Nat) (a b : BitVec 32) : BitVec 32 :=
  match op with
  | 0 => a + b
  | 1 => if b.toInt < a.toInt then b else a
  | 2 => if a.toInt < b.toInt then b else a
  | 3 => if b < a then b else a
  | 4 => if a < b then b else a
  | 5 => a &&& b
  | 6 => a ||| b
  | _ => a ^^^ b

/-- The identity of a combination (R235). -/
def identityOf (op : Nat) : BitVec 32 :=
  match op with
  | 1 => 0x7FFFFFFF
  | 2 => 0x80000000
  | 3 => BitVec.allOnes 32
  | 5 => BitVec.allOnes 32
  | _ => 0

/-- PSCAN (R235). -/
def pscanRow : RegRow where
  word := .pscan
  form := formPscan
  post x u := ∀ l ∈ x.lanes, u.vec x.f.dst.toNat l =
    (((partsOf x (rodOfLane x.width l)).filter (fun m => decide (m < l) || (decide (m = l) && decide (x.f.m 9 1 = 1)))).map
      (fun m => x.u.vec x.f.a.toNat m)).foldl (combine (x.f.m 6 3)) (identityOf (x.f.m 6 3))

/-- What the log-step tree of R236 leaves at position 0: at step `k` the value of each position `i` that stands is combined with that of
position i + 2^k; a position without a participant passes the other value on. 64 positions are six steps. -/
def reduces (leaf : Nat → Option (BitVec 32)) (rel : (i k : Nat) → (a b r : BitVec 32) → Prop) (r : BitVec 32) : Prop :=
  ∃ node : Nat → Nat → Option (BitVec 32), (∀ i, node 0 i = leaf i) ∧
    (∀ k i, match node k i, node k (i + 2 ^ k) with
      | some a, some b => ∃ v, node (k + 1) i = some v ∧ rel i k a b v
      | some a, none => node (k + 1) i = some a
      | none, o => node (k + 1) i = o) ∧
    node 6 0 = some r

/-- LRED (R236): with an integer combination any order of the participants gives its result; FADD, which rounds each sum once, FMIN and
FMAX go by the tree over logical lanes. -/
def lredRow : RegRow where
  word := .lred
  form := formLred
  post x u :=
    let vals (rod : Nat) : List (BitVec 32) := (partsOf x rod).map (fun m => x.u.vec x.f.a.toNat m)
    let leaf (rod i : Nat) : Option (BitVec 32) :=
      ((partsOf x rod).find? (fun l => logicalLane x.width l == i)).map (fun l => x.u.vec x.f.a.toNat l)
    let rel (rod i k : Nat) (a b r : BitVec 32) : Prop := match x.f.m 6 3 with
      | 5 => fpRounds x.rm false (srBits (x.u.rod rod).srseed i k) ((fpExt a.toNat).add x.rm (fpExt b.toNat)) r.toNat
      | 6 => minMaxRel false a.toNat b.toNat r.toNat
      | _ => minMaxRel true a.toNat b.toNat r.toNat
    let res (rod : Nat) (r : BitVec 32) : Prop :=
      (x.f.m 6 3 < 5 → r = (vals rod).foldl (combine (x.f.m 6 3)) (identityOf (x.f.m 6 3))) ∧
      (5 ≤ x.f.m 6 3 → reduces (leaf rod) (rel rod) r)
    (x.f.dc = .vec → ∀ l ∈ x.lanes, res (rodOfLane x.width l) (u.vec x.f.dst.toNat l)) ∧
    (x.f.dc = .scl → x.f.dst ≠ 0 → ∀ r ∈ x.rods, partsOf x r ≠ [] →
      res r (((u.rod r).scl x.f.dst.toNat).setWidth 32) ∧ ((u.rod r).scl x.f.dst.toNat).toNat < 2 ^ 32)

/-! ## Vendor formats (R60 to R63) -/

/-- A floating layout of R60 and R62: its number, width, mantissa bits and bias, the largest finite encoding, and the encodings of +inf and
of the canonical NaN where it has them. -/
structure FmtRow where
  num : Nat
  w : Nat
  m : Nat
  bias : Nat
  top : Nat
  inf : Option Nat
  nan : Option Nat

/-- The floating layouts. -/
def fmtRows : List FmtRow :=
  let e4m3 (n : Nat) : FmtRow := ⟨n, 8, 3, 7, 0x7E, none, some 0x7F⟩
  let e5m2 (n : Nat) : FmtRow := ⟨n, 8, 2, 15, 0x7B, some 0x7C, some 0x7E⟩
  let e3m2 (n : Nat) : FmtRow := ⟨n, 6, 2, 3, 0x1F, none, none⟩
  let e2m3 (n : Nat) : FmtRow := ⟨n, 6, 3, 1, 0x1F, none, none⟩
  let e2m1 (n : Nat) : FmtRow := ⟨n, 4, 1, 1, 0x7, none, none⟩
  [⟨0x0001, 32, 23, 127, 0x7F7FFFFF, some 0x7F800000, some 0x7FC00000⟩, ⟨0x0002, 16, 7, 127, 0x7F7F, some 0x7F80, some 0x7FC0⟩,
   ⟨0x0003, 16, 10, 15, 0x7BFF, some 0x7C00, some 0x7E00⟩, e4m3 0x10, e5m2 0x11, e3m2 0x12, e2m3 0x13, e2m1 0x14,
   e4m3 0x20, e5m2 0x21, e3m2 0x22, e2m3 0x23, e2m1 0x24]

/-- The magnitude at a place of a layout's grid: an exponent field of zero is a zero or a subnormal (R60). Above the largest finite
encoding the grid goes on as an unbounded exponent range does. -/
def FmtRow.mag (f : FmtRow) (y : Nat) : Rat :=
  if y / 2 ^ f.m = 0 then (y : Rat) * pow2 (1 - (f.bias : Int) - f.m)
  else ((2 ^ f.m + y % 2 ^ f.m : Nat) : Rat) * pow2 ((y / 2 ^ f.m : Nat) - (f.bias : Int) - f.m)

/-- An encoding under a sign. -/
def FmtRow.under (f : FmtRow) (neg : Bool) (y : Nat) : Nat := if neg then 2 ^ (f.w - 1) + y else y

/-- What an encoding stands for: with an infinity the encodings above it are NaN, without one the canonical NaN alone is, under either
sign. -/
def FmtRow.value (f : FmtRow) (x : Nat) : FpExt :=
  let neg := x.testBit (f.w - 1)
  let y := x % 2 ^ (f.w - 1)
  match f.inf, f.nan with
  | some i, _ => if y = i then .inf neg else if i < y then .nan else .fin neg (f.mag y)
  | none, some n => if y = n then .nan else .fin neg (f.mag y)
  | none, none => .fin neg (f.mag y)

/-- Where a finite overflow goes (R63, R179). -/
def FmtRow.overflow (f : FmtRow) (rm : RMode) (sat neg : Bool) : Nat :=
  match f.inf, f.nan with
  | some i, _ => if sat || rm == .rz || (rm == .rd && !neg) || (rm == .ru && neg) then f.under neg f.top else f.under neg i
  | none, some n => if sat then f.under neg f.top else n
  | none, none => f.under neg f.top

/-- The encoding a value rounds to (R63). -/
def FmtRow.rounds (f : FmtRow) (rm : RMode) (sat : Bool) (rnd : Nat) (v : FpExt) (r : Nat) : Prop :=
  match v with
  | .nan => r = f.nan.getD 0
  | .inf neg => r = match f.inf, f.nan with
    | some i, _ => f.under neg (if sat then f.top else i)
    | none, some n => if sat then f.under neg f.top else n
    | none, none => f.under neg f.top
  | .fin neg q => ∃ c, roundsTo f.mag (fun t => orderOf t q) rm neg rnd c ∧ r = if c ≤ f.top then f.under neg c else f.overflow rm sat neg

/-- The integer and fixed-point layouts of R61 and R62: number, width, fraction bits, the least and the greatest integer. -/
def fixedRows : List (Nat × Nat × Nat × Int × Int) :=
  [(0x30, 8, 0, -128, 127), (0x31, 8, 0, 0, 255), (0x32, 4, 0, -8, 7), (0x33, 2, 0, -2, 1), (0x25, 8, 6, -127, 127)]

/-- The encoding a value rounds to in `w` bits: an integer number of steps of 2^−frac, clamped (R63). -/
def fixedRounds (w frac : Nat) (lo hi : Int) (rm : RMode) (rnd : Nat) (v : FpExt) (r : Nat) : Prop :=
  match v with
  | .nan => r = 0
  | .inf neg => r = (BitVec.ofInt w (if neg then lo else hi)).toNat
  | .fin neg q => ∃ c : Nat, roundsTo (fun n => (n : Rat) * pow2 (-(frac : Int))) (fun t => orderOf t q) rm neg rnd c ∧
      r = (BitVec.ofInt w (max lo (min hi (if neg then -(c : Int) else c)))).toNat

/-- The vendor images decode and round as their tables say (R60 to R63), in every mode; `rnd` is the draw of SR. -/
def vendorFormatsHold : Prop :=
  (∀ f ∈ fmtRows, ∃ img, vendorImage f.num = some img ∧ img.width = f.w ∧
    (∀ x < 2 ^ f.w, ((Binding.image img).decode x).ext = f.value x) ∧
    (∀ (code : Nat) (sat : Bool) (rnd : Nat) (v : XVal), code ≤ 4 → rnd < 65536 → (∀ neg n d e, v = .fin neg n d e → 0 < d) →
      f.rounds (RMode.ofCode code) sat rnd v.ext ((Binding.image img).round code sat rnd v).1)) ∧
  (∀ f ∈ fixedRows, ∃ img, vendorImage f.1 = some img ∧ img.width = f.2.1 ∧
    (∀ x < 2 ^ f.2.1, ((Binding.image img).decode x).ext =
      FpExt.of (((if f.2.2.2.1 < 0 then (BitVec.ofNat f.2.1 x).toInt else x : Int) : Rat) * pow2 (-(f.2.2.1 : Int))) false) ∧
    (∀ (code : Nat) (sat : Bool) (rnd : Nat) (v : XVal), code ≤ 4 → rnd < 65536 → (∀ neg n d e, v = .fin neg n d e → 0 < d) →
      fixedRounds f.2.1 f.2.2.1 f.2.2.2.1 f.2.2.2.2 (RMode.ofCode code) rnd v.ext ((Binding.image img).round code sat rnd v).1))

end Sys2Proof.Machine
end

