-- ==== Sys2Proof/Safety/Frame.lean ====
section
/-! DEFINITION. What the words between registers leave as it was: the rows of chapters 10 and 11 in two lists, and the frame of a word
that writes registers (R121, R147, R162, R165, R186, R187). -/

namespace Sys2Proof.Machine

/-- A row of R194 among the words between registers. -/
def IntRow.toReg (r : IntRow) : RegRow := { word := r.word, form := r.form, post := fun _ _ => True }

/-- The words between registers whose results are written before the rod's next turn (R162), without MOVS writing. -/
def shortRows : List RegRow :=
  (arithRows ++ saturatingRows ++ logicRows ++ fieldRows ++ bitRows).map IntRow.toReg ++
  [extRow true, extRow false, carryRow true, carryRow false, dotRow 4 8, dotRow 2 16, cmpRow true, cmpRow false, plopRow, psetRow,
    pgetRow, movRow, selRow, leaRow, movsReadRow] ++
  fpArithRows ++ fpExactRows ++
  [fldexpRow, fcmpRow, fclassRow, cvtRow false, cvtRow true, packRow, unpackRow, scalebRow] ++
  [shflRow 0, shflRow 1, shflRow 2, shflRow 3, bcstRow, voteRow, electRow, pscanRow, lredRow]

/-- CAPQ and FMTQ with their answers (R213, R214). -/
def capqRow (s : State) : RegRow := queryRow .capq formCapq (fun x v => s.capWord x.fr.bay v)

/-- FMTQ. -/
def fmtqRow : RegRow := queryRow .fmtq formFmtq (fun x v => x.fr.slotReport (x.f.m 6 2) v)

/-- The long-latency words between registers (R163, R165). -/
def longRows (s : State) : List RegRow := divRows ++ fpLongRows ++ fpElemRows ++ [capqRow s, fmtqRow]

/-- Register values and poison marks outside the destinations of a word, and in lanes and logical rods in which it does not act, are
those of `v`; the unit differs from `v` in nothing but registers. -/
def keepsOthers (fm : Form) (f : SFields) (x : Issue) (v u : RodUnit) : Prop :=
  let ds := destsOf (fm.regs f)
  (∀ r l, l < 64 → (OpClass.vec, r) ∉ ds ∨ l ∉ x.lanes → u.vec r l = v.vec r l ∧ u.vecPoisoned r l = v.vecPoisoned r l) ∧
  (∀ p l, l < 64 → (OpClass.prd, p) ∉ ds ∨ l ∉ x.lanes →
    (u.pred p).getLsbD l = (v.pred p).getLsbD l ∧ u.predPoisoned p l = v.predPoisoned p l) ∧
  (∀ i n, (OpClass.scl, n) ∉ ds ∨ i ∉ x.rods →
    (u.rod i).scl n = (v.rod i).scl n ∧ (u.rod i).sclPoisoned n = (v.rod i).sclPoisoned n) ∧
  (∀ i, (u.rod i).sEmpty = (v.rod i).sEmpty) ∧
  { u with vregs := v.vregs, vPoison := v.vPoison, preds := v.preds, pPoison := v.pPoison, rods := v.rods } = v ∧
  u.rods.length = v.rods.length

/-- The special and trap registers of the logical rods after a word: EXM, TSC and the trap registers stay; FPX only gains flags, and its
enables stay; SATCNT does not fall; SRSEED rises by one in the rods of `seeds`. -/
def keepsSpecials (x : Issue) (seeds : List Nat) (v u : RodUnit) : Prop :=
  ∀ i,
    let a := u.rod i
    let b := v.rod i
    a.exm = b.exm ∧ a.tsc = b.tsc ∧ a.tcause = b.tcause ∧ a.taddr = b.taddr ∧ a.tscr0 = b.tscr0 ∧ a.tscr1 = b.tscr1 ∧
    a.jobFault = b.jobFault ∧ a.fetches = b.fetches ∧
    (∀ k, b.fpx.getLsbD k = true → a.fpx.getLsbD k = true) ∧ (∀ k, 7 ≤ k → a.fpx.getLsbD k = b.fpx.getLsbD k) ∧
    (b.satcnt.toNat < 2 ^ 32 → b.satcnt.toNat ≤ a.satcnt.toNat ∧ a.satcnt.toNat < 2 ^ 32) ∧
    a.srseed = b.srseed + (if i ∈ seeds then 1 else 0) ∧
    (i ∉ x.rods → (∀ l ∈ x.lanes, rodOfLane x.width l ≠ i) → a.fpx = b.fpx ∧ (b.satcnt.toNat < 2 ^ 32 → a.satcnt = b.satcnt))

/-- The rest of the machine after a word of a unit: the frame keeps all but its units, the bays all but their counters. -/
def State.keepsRest (s t : State) (c : IssueCtx) : Prop :=
  s.sameBut t c ∧ t.agenda = s.agenda ∧ t.free = s.free ∧ t.now = s.now ∧ t.round = s.round ∧
  (∃ fr, t.frame? c.fid = some fr ∧ { fr with units := c.fr.units } = c.fr) ∧
  (∀ b, { t.bay b with counters := [], heldEvents := [] } = { s.bay b with counters := [], heldEvents := [] })

end Sys2Proof.Machine
end

