-- ==== Sys2Proof/Safety/Memory.lean ====
section
/-! DEFINITION. The words of row 0x8 that access memory, in the terms of chapters 12 to 15: what each puts into the memory queue
(R272 to R283). -/

namespace Sys2Proof.Machine

/-- A word that accesses memory: its form, its kind, the check its accesses pass, whether B is an index or an element number, its
bytes, the width of a packed element, the operation it names, and what it carries for each lane. -/
structure MemRow where
  word : SFields → Instr
  form : Form
  kind : OpKind
  acc : AccKind
  elem : Bool
  index : Bool
  bytes : SFields → Nat
  width : SFields → Nat
  op : SFields → Nat
  data : SFields → Issue → LaneData

/-- The seven words (R278, R279, R282). -/
def memRows : List MemRow := [
  ⟨.ld, formLd, .load, .read, false, true, fun f => f.bytes, fun _ => 0, fun f => f.size, fun _ => noData⟩,
  ⟨.st, formSt, .store, .write, false, true, fun f => f.bytes, fun _ => 0, fun f => f.size, fun f => storeData f.bytes⟩,
  ⟨.lde, formLde, .elemLoad, .read, true, true, fun _ => 4, elemWidth, fun _ => 0, fun _ => noData⟩,
  ⟨.ste, formSte, .elemStore, .write, true, true, fun _ => 4, elemWidth, fun _ => 0, fun _ => storeData 4⟩,
  ⟨.atom, formAtom, .atomic, .atomic, false, false, atomBytes, fun _ => 0, fun f => f.m 3 4, fun _ => atomData false⟩,
  ⟨.atomc, formAtomc, .compareSwap, .atomic, false, false, atomBytes, fun _ => 0, fun f => f.m 3 4, fun _ => atomData true⟩,
  ⟨.red, formRed, .reduce, .atomic, false, false, atomBytes, fun _ => 0, fun f => f.m 3 4, fun _ => atomData false⟩]

/-- Words that return a value. -/
def OpKind.returns (k : OpKind) : Bool := k == .load || k == .elemLoad || k == .atomic || k == .compareSwap

/-- The lanes for which the word acts. -/
def MemRow.lanes (row : MemRow) (c : IssueCtx) (f : SFields) : List Nat := memLanes row.form f (c.issue row.form f)

/-- The state from which the word enters the queue: its translations walked, complete fences passed. -/
def MemRow.ready (row : MemRow) (s : State) (c : IssueCtx) (f : SFields) : State :=
  (s.passFences c).walkedAll c.fr.bay c.core
    (wordPages (c.issue row.form f) row.elem row.index (row.bytes f) (row.width f) (row.lanes c f))

/-- The addresses the word accesses, lane by lane, every check of R246 passed. -/
def MemRow.accesses (row : MemRow) (s : State) (c : IssueCtx) (f : SFields) : Except TrapInfo (List LaneAccess) :=
  s.wordAccesses c (c.issue row.form f) row.acc row.elem row.index (row.bytes f) (row.width f)
    (row.data f (c.issue row.form f)) (row.lanes c f)

/-- The word may enter the queue: nothing holds it back, the tables it walks are at hand, and the walk leaves its unit as it was. -/
def MemRow.mayEnter (row : MemRow) (s : State) (c : IssueCtx) (f : SFields) : Prop :=
  s.wordIssues c row.form f ∧ s.memWaits c = false ∧
  s.openLines c.fr.bay (s.walkLines c.fr.bay
    (wordPages (c.issue row.form f) row.elem row.index (row.bytes f) (row.width f) (row.lanes c f))) = none ∧
  (row.ready s c f).unit? c.fid c.ui = some c.u ∧ (row.ready s c f).nextId = s.nextId

/-- Where an access goes and what it carries: everything but whether it has been performed and what it read. -/
def LaneAccess.place (a : LaneAccess) : LaneAccess := { a with done := false, got := 0, gotPoison := false }

/-- A bit of a line that an access covers. -/
def LaneAccess.covers (a : LaneAccess) (b : Nat) : Prop := a.bitPos ≤ b ∧ b < a.bitPos + a.bits

/-- The unperformed accesses of an operation to a line. -/
def State.mineOf (s : State) (o : MemOp) (line : Nat) : List LaneAccess :=
  o.acc.filter (fun a => !a.pane && s.accLine a == line && !a.done)

/-- An operation's piece of a line of this package can be carried out at its home slice now (R252, R276, R293, R366). -/
def State.atHome (s : State) (write : Bool) (id piece line : Nat) (o : MemOp) (l : L2Line) : Prop :=
  SMap.find s.ops id = some o ∧ (s.pieces o)[piece]? = some (line + 1) ∧ o.writes = write ∧ line < 2 ^ 43 ∧
  s.mineOf o line ≠ [] ∧ s.mayPerform id o = true ∧ s.openLine line write = none ∧ s.l2? line = some l ∧ l.guest = none ∧
  l.way ≠ transientWay

/-- What an atomic leaves of the old value `m` of `w` bits with operand `b` (R282). -/
def atomLeaves (op w m b r : Nat) : Prop :=
  let M := BitVec.ofNat w m
  let B := BitVec.ofNat w b
  match op with
  | 0 => r = (M + B).toNat
  | 1 => r = if B.toInt < M.toInt then b else m
  | 2 => r = if M.toInt < B.toInt then b else m
  | 3 => r = min m b
  | 4 => r = max m b
  | 5 => r = m &&& b
  | 6 => r = m ||| b
  | 7 => r = m ^^^ b
  | 8 => r = b
  | 9 => fpRounds .rne false 0 ((fpExt m).add .rne (fpExt b)) r
  | 10 => minMaxRel false m b r
  | _ => minMaxRel true m b r

/-- What one lane's access leaves of the old bits (R278, R279, R282): a store its data, ATOMC its data where the compare value stood, a
load the bits as they were. -/
def MemOp.leaves (o : MemOp) (a : LaneAccess) (m r : Nat) : Prop :=
  let d := a.data.toNat % 2 ^ a.bits
  match o.kind with
  | .store => r = d
  | .elemStore => r = d
  | .compareSwap => r = if m = a.cmp.toNat % 2 ^ a.bits then d else m
  | .atomic => atomLeaves o.op a.bits m d r
  | .reduce => atomLeaves o.op a.bits m d r
  | _ => r = m

/-- Accesses of one place carried out one after the other, from the old bits to the new ones; `ws n` stands before access n (R283). -/
def MemOp.serial (o : MemOp) (as : List LaneAccess) (ws : Nat → Nat) (m r : Nat) : Prop :=
  ws 0 = m ∧ ws as.length = r ∧ ∀ n a, as[n]? = some a → o.leaves a (ws n) (ws (n + 1))

/-- Two accesses name the same bits of a line. -/
def LaneAccess.sameBits (a b : LaneAccess) : Bool := a.bitPos == b.bitPos && a.bits == b.bits

/-- Accesses of a line name the same bits or share none, each stands in the line, and the FP32 atomics name words. -/
abbrev MemOp.linePlaces (o : MemOp) (as : List LaneAccess) : Prop :=
  (∀ a ∈ as, a.bits ≤ 128 ∧ a.bitPos + a.bits ≤ 1024 ∧ (9 ≤ o.op → o.kind = .atomic ∨ o.kind = .reduce → a.bits = 32)) ∧
  ∀ a ∈ as, ∀ b ∈ as, a.sameBits b = true ∨ a.bitPos + a.bits ≤ b.bitPos ∨ b.bitPos + b.bits ≤ a.bitPos

/-- The first bit of the pane that an access names, and whether two name the same bits. -/
def LaneAccess.paneBit (a : LaneAccess) : Nat := 8 * a.addr + a.bitOff
def LaneAccess.samePane (a b : LaneAccess) : Bool := a.addr == b.addr && a.size == b.size && a.bitOff == b.bitOff && a.bits == b.bits

/-- The bits an access names in a frame's pane, and one bit of a pane. -/
def Frame.bitsAt (fr : Frame) (a : LaneAccess) : Nat := fr.paneRead a.addr a.size / 2 ^ a.bitOff % 2 ^ a.bits
def Frame.paneBit (fr : Frame) (k : Nat) : Bool := (SMap.get 0 fr.paneMem (k / 8)).getLsbD (k % 8)

/-- Accesses of the pane name the same bits or share none, each within its bytes. -/
abbrev panePlaces (as : List LaneAccess) : Prop :=
  (∀ a ∈ as, a.bits ≤ 128 ∧ a.bitOff + a.bits ≤ 8 * a.size) ∧
  ∀ a ∈ as, ∀ b ∈ as, a.samePane b = true ∨ a.paneBit + a.bits ≤ b.paneBit ∨ b.paneBit + b.bits ≤ a.paneBit

/-- What a lane of a load or an atomic has read, its parts put together (R278, R279). -/
def MemOp.laneRead (o : MemOp) (l : Nat) : Nat := ((o.acc.filter (fun a => a.lane == l)).map (fun a => a.got.toNat * 2 ^ a.part)).sum

/-- What its destination receives: a byte or half word extended by its sign where its size says so, anything else by zeros (R278). -/
def MemOp.laneGets (o : MemOp) (l : Nat) : Nat :=
  match o.kind, o.op with
  | .load, 1 => ((BitVec.ofNat 8 (o.laneRead l)).signExtend 128).toNat
  | .load, 3 => ((BitVec.ofNat 16 (o.laneRead l)).signExtend 128).toNat
  | _, _ => o.laneRead l

/-- One logical rod's latch word may act: its reference names a readable, unpoisoned latch, every earlier memory word of the unit is
performed, nothing holds back its unit's accesses, and the unit waits on no latch (R345, R351). -/
abbrev latchAtHand (s : State) (c : IssueCtx) (fm : Form) (f : SFields) (i key : Nat) : Prop :=
  s.wordIssues c fm f ∧ (c.issue fm f).rods = [i] ∧ s.allDone c 0 = true ∧ s.memBlocked c.fid c.ui c.e.lanes = false ∧
  latchRef c (c.issue fm f) i = .ok key ∧ c.fr.panePoisoned key 16 = false ∧ c.u.waits = []

/-- A word that updates latches: its form, what it asks of one, and whether it tells its lanes the outcome (R346 to R348). -/
structure LatchRow where
  word : SFields → Instr
  form : Form
  act : RodAct
  pred : Bool

/-- LINIT, LARR, LEXP, LREG and LREG.D. -/
def latchRows : List LatchRow := [⟨.linit, formLinit, linitAct, false⟩, ⟨.larr, formLarr, larrAct, true⟩, ⟨.lexp, formLarr, lexpAct, true⟩,
  ⟨.lreg, formLreg, fun _ _ _ => .ok .register, false⟩, ⟨.lregD, formLreg, fun _ _ _ => .ok .withdraw, false⟩]

end Sys2Proof.Machine
end

