-- ==== Sys2Proof/Safety/Matrix.lean ====
section
/-! DEFINITION. The words of row 0xA, in the terms of chapter 16: what each puts into its core's matrix queue (R310 to R319). -/

namespace Sys2Proof.Machine

/-! ## What the checks at issue ask of a word's operands (R241, R306, R307, R312, R315, R316, R318, R319) -/

/-- Bytes from a pane address on lie in an allocation of the frame (R241). -/
abbrev IssueCtx.paneFits (c : IssueCtx) (addr n : Nat) : Prop :=
  addr < 2 ^ 20 ∧ (addr.testBit 19 = true → 2 ≤ c.fr.sides) ∧ addr % 2 ^ 19 + n ≤ c.fr.pane * 1024

/-- A latch reference names no latch, or an aligned one in the pane (R312). -/
abbrev IssueCtx.latchNamed (c : IssueCtx) (v : Nat) : Prop :=
  v < 2 ^ 32 ∧ field v 20 11 = 0 ∧ v % 16 = 0 ∧ (field v 31 1 = 1 → c.paneFits (v % 2 ^ 20) 16)

/-- An operand reference fits its slot's image, and the area or the fetch entry it names is there (R307, R316). -/
abbrev IssueCtx.blockNamed (c : IssueCtx) (i : Nat) (b : Binding) (v : Nat) : Prop :=
  field v 52 11 = 0 ∧ field v 20 10 = 0 ∧ (field v 30 1 = 0 → field v 32 20 = 0) ∧ field v 32 20 % 16 = 0 ∧
  (field v 30 1 = 1 ↔ b.block = 32) ∧ (field v 30 1 = 1 → c.paneFits (field v 32 20) 512) ∧
  (field v 63 1 = 0 → field v 0 20 % 64 = 0 ∧ c.paneFits (field v 0 20) 2048) ∧
  (field v 63 1 = 1 → field v 0 20 < 4 ∧
    ∃ e ∈ SMap.find (c.u.rod i).fetches (field v 0 20), e.failed = none ∧ e.count ≠ 0)

/-- An access of the unit to a global address passes the checks of R246, and its line has not been refused. -/
abbrev State.reaches (s : State) (c : IssueCtx) (kind : AccKind) (va : Nat) : Prop :=
  va < 2 ^ 57 ∧ ∃ pa ∈ (s.translate (s.free * 64) (s.dataRequester c) kind (BitVec.ofNat 64 va)).toOption,
    s.deniedTo (s.lineKey pa.pkg (pa.loc / 128)) c.fr.bay pa.key kind.writes = none

/-- 32 rows of `n` bytes pass their checks: in the pane by R241, else by R246 for each kind of access. -/
abbrev State.rowsReach (s : State) (c : IssueCtx) (pane : Bool) (kinds : List AccKind) (base stride n : Nat) : Prop :=
  ∀ r < 32, (pane = true → c.paneFits (base + r * stride) n) ∧
    (pane = false → ∀ kd ∈ kinds, ∀ q ∈ lineRuns ((base + r * stride) % 2 ^ 64) n, s.reaches c kd q.1)

/-- The block an operand reference names (R307, R316): an area of the pane or the rows of a fetch entry, with its scales and its half. -/
def IssueCtx.block (c : IssueCtx) (i v : Nat) : BlockRef :=
  { pane := if field v 63 1 = 0 then some (paneAt c.u.side (field v 0 20)) else none
    hold := if field v 63 1 = 0 then none else (SMap.find (c.u.rod i).fetches (field v 0 20)).map (·.hold)
    scl := if field v 30 1 = 1 then some (paneAt c.u.side (field v 32 20)) else none
    koff := field v 31 1 == 1 }

/-- The latch a reference names (R312). -/
def IssueCtx.latch (c : IssueCtx) (v : Nat) : LatchRef := if field v 31 1 = 1 then some (paneAt c.u.side (v % 2 ^ 20)) else none

/-- Where the bytes of one row stand: in the pane (R241), or in the lines its addresses reach for each kind of access (R246). -/
abbrev State.rowAt (s : State) (c : IssueCtx) (pane : Bool) (kinds : List AccKind) (a n : Nat) (runs : List RowRun) : Prop :=
  (pane = true → runs = [{ va := BitVec.ofNat 64 a, line := 0, key := 0, off := paneAt c.u.side a, n := n }]) ∧
  (pane = false → runs.map (fun q => (q.va.toNat, q.n)) = lineRuns (a % 2 ^ 64) n ∧
    ∀ q ∈ runs, ∀ kd ∈ kinds, ∃ pa, s.translate (s.free * 64) (s.dataRequester c) kd q.va = .ok pa ∧
      q.line = s.lineKey pa.pkg (pa.loc / 128) ∧ q.key = pa.key ∧ q.off = pa.loc % 128)

/-- The 32 rows at base and stride, row 0 first. -/
abbrev State.rowsAt (s : State) (c : IssueCtx) (pane : Bool) (kinds : List AccKind) (base stride n : Nat) (rows : List (List RowRun)) : Prop :=
  rows.length = 32 ∧ ∀ r < 32, ∃ runs, rows[r]? = some runs ∧ s.rowAt c pane kinds (base + r * stride) n runs

/-- The walks of some pages end no work (R23): whatever the rest of the state holds, and should a fetch entry be freed first, every unit
is left as it was. -/
def State.walksKeep (s : State) (b core : Nat) (ps : List Nat) : Prop :=
  ∀ s1 : State, s1.chip = s.chip → s1.mem = s.mem → (s1.cache = s.cache ∨ ∃ h, s1.cache = (s.freeHold h).cache) →
    s1.bays = s.bays → ∀ fid ui, (s1.walkedAll b core ps).unit? fid ui = s1.unit? fid ui

/-- A word of the matrix engine: its form, whether it takes a place in the shutter, the pages it walks, its part for one logical rod,
the tile and the latch it names, what its checks ask of the operands, and what the queued operation is. -/
structure MatRow where
  word : SFields → Instr
  form : Form
  job : Bool
  pages : Issue → Nat → List Nat
  part : IssueCtx → Issue → RodIssue
  tile : Issue → Nat
  latch : IssueCtx → Issue → Nat → LatchRef
  sound : State → IssueCtx → Issue → Nat → Prop
  kind : State → IssueCtx → Issue → Nat → State → MatKind → Prop

/-- The element of tile position `e` that AMOV.TOB reads: register dst + e / RODW, lane e mod RODW (R318). -/
def tobElem (c : IssueCtx) (x : Issue) (i e : Nat) : BitVec 32 × Bool :=
  let l := unitLane c.fr.width i (e % c.fr.width)
  (c.u.vec (x.f.a.toNat + e / c.fr.width) l, c.u.vecPoisoned (x.f.a.toNat + e / c.fr.width) l)

/-- The operands an MMA needs (R314). -/
abbrev mmaSound (_ : State) (c : IssueCtx) (x : Issue) (i : Nat) : Prop :=
  let a := x.srcA 64 (x.laneOfRod i)
  let b := x.srcB 64 0 (x.laneOfRod i)
  let l := x.srcD 64 (x.laneOfRod i)
  a.2 = false ∧ b.2 = false ∧ l.2 = false ∧ c.latchNamed l.1 ∧
  (∃ fa ∈ c.fr.slot (x.f.m 8 4), c.blockNamed i fa a.1) ∧ ∃ fb ∈ c.fr.slot (x.f.m 4 4), c.blockNamed i fb b.1

/-- The operands a SUMS needs (R317). -/
abbrev sumsSound (_ : State) (c : IssueCtx) (x : Issue) (i : Nat) : Prop :=
  let a := x.srcA 64 (x.laneOfRod i)
  let l := x.srcD 64 (x.laneOfRod i)
  a.2 = false ∧ l.2 = false ∧ c.latchNamed l.1 ∧ ∃ fa ∈ c.fr.slot (x.f.m 8 4), c.blockNamed i fa a.1

/-- The operands an ALD needs (R318). -/
abbrev aldSound (s : State) (c : IssueCtx) (x : Issue) (i : Nat) : Prop :=
  let base := x.srcA 64 (x.laneOfRod i)
  let stride := x.srcB 64 0 (x.laneOfRod i)
  let l := x.srcD 64 (x.laneOfRod i)
  base.2 = false ∧ stride.2 = false ∧ l.2 = false ∧ c.latchNamed l.1 ∧ base.1 % 16 = 0 ∧ stride.1 % 16 = 0 ∧
  s.rowsReach c (x.f.m 11 1 == 1) [.read] base.1 stride.1 128

/-- The operands a DRAIN needs (R319). -/
abbrev drainSound (s : State) (c : IssueCtx) (x : Issue) (i : Nat) : Prop :=
  let base := x.srcA 64 (x.laneOfRod i)
  let stride := x.srcB 64 0 (x.laneOfRod i)
  let ctl := x.srcD 64 (x.laneOfRod i)
  base.2 = false ∧ stride.2 = false ∧ ctl.2 = false ∧ c.latchNamed (ctl.1 % 2 ^ 32) ∧ base.1 % 4 = 0 ∧ stride.1 % 4 = 0 ∧
  ∃ fd ∈ c.fr.slot (x.f.m 4 4), fd.block ≠ 32 ∧ fd.hasMode (x.f.m 0 3) = true ∧
    s.rowsReach c (x.f.m 11 1 == 1) (if x.f.m 8 1 = 1 then [.read, .write] else [.write]) base.1 stride.1 (4 * fd.width)

/-- The registers of an AMOV lie below 32 × VGRAN (R318). -/
abbrev amovSound (reg : Issue → Nat) (_ : State) (c : IssueCtx) (x : Issue) (_ : Nat) : Prop :=
  reg x + 1024 / c.fr.width - 1 < 32 * c.fr.vgran

/-- The values an operation takes from operands A, B and D of its logical rod (R313). -/
abbrev matA (x : Issue) (i : Nat) : Nat := (x.srcA 64 (x.laneOfRod i)).1
abbrev matB (x : Issue) (i : Nat) : Nat := (x.srcB 64 0 (x.laneOfRod i)).1
abbrev matD (x : Issue) (i : Nat) : Nat := (x.srcD 64 (x.laneOfRod i)).1

/-- A SUMS: which sums, the block of A with its slot, and the number that is added (R317). -/
abbrev sumsKind (_ : State) (c : IssueCtx) (x : Issue) (i : Nat) (_ : State) (k : MatKind) : Prop :=
  ∃ fa, c.fr.slot (x.f.m 8 4) = some fa ∧ k = .sums (x.f.m 4 1 == 1) (c.block i (matA x i)) fa
    (BitVec.ofNat 32 (x.srcB 32 0 (x.laneOfRod i)).1) (x.srcB 32 0 (x.laneOfRod i)).2

/-- An AMOV.TOV: its registers are empty until the producer it leaves is filled (R318). -/
abbrev tovKind (_ : State) (c : IssueCtx) (x : Issue) (i : Nat) (t : State) (k : MatKind) : Prop :=
  ∃ p q u, k = .amovTov p x.f.dst.toNat (x.act &&& rodLanes x.width i) ∧ SMap.find t.producers p = some q ∧ q.ready = false ∧
    q.dests = (List.range (1024 / c.fr.width)).map (fun r => (.vec, x.f.dst.toNat + r)) ∧ t.unit? c.fid c.ui = some u ∧
    ∀ r < 1024 / c.fr.width, memb (x.f.dst.toNat + r) u.vEmpty = true

/-- A DRAIN: its rows, slot, rounding, scale, and the scalar register that takes its largest magnitude under .AMAX (R319). -/
abbrev drainKind (s : State) (c : IssueCtx) (x : Issue) (i : Nat) (t : State) (k : MatKind) : Prop :=
  ∃ d : DrainCtl, k = .drain d ∧ c.fr.slot (x.f.m 4 4) = some d.fd ∧ d.rm = x.f.m 0 3 ∧ d.sat = (x.f.m 3 1 == 1) ∧ d.int = (x.f.m 9 1 == 1) ∧
    d.pane = (x.f.m 11 1 == 1) ∧ d.add = (x.f.m 8 1 == 1) ∧ d.scale = BitVec.ofNat 32 (matD x i / 2 ^ 32) ∧
    s.rowsAt c d.pane (if d.add = true then [.read, .write] else [.write]) (matA x i) (matB x i) (4 * d.fd.width) d.rows ∧
    (x.f.i 21 1 = 0 → d.capture = none) ∧
    (x.f.i 21 1 = 1 → ∃ p q, d.capture = some (p, x.f.i 13 8) ∧ SMap.find t.producers p = some q ∧ q.ready = false ∧
      q.dests = [(.scl, x.f.i 13 8)])

/-- The words that queue an operation on a tile (R314, R317 to R319). -/
def matRows : List MatRow := [
  { word := .mma, form := formMma, job := true, pages := noPages, part := mmaRod, tile := fun x => x.f.i 0 6,
    latch := fun c x i => c.latch (matD x i), sound := mmaSound,
    kind := fun _ c x i _ k => ∃ fa fb, c.fr.slot (x.f.m 8 4) = some fa ∧ c.fr.slot (x.f.m 4 4) = some fb ∧
      k = .mma (c.block i (matA x i)) (c.block i (matB x i)) fa fb (x.f.i 6 1 == 1) },
  { word := .sumsR, form := formSums, job := true, pages := noPages, part := sumsRod, tile := fun x => x.f.i 0 6,
    latch := fun c x i => c.latch (matD x i), sound := sumsSound, kind := sumsKind },
  { word := .sumsC, form := formSums, job := true, pages := noPages, part := sumsRod, tile := fun x => x.f.i 0 6,
    latch := fun c x i => c.latch (matD x i), sound := sumsSound, kind := sumsKind },
  { word := .aclr, form := formAclr, job := false, pages := noPages, part := aclrRod, tile := fun x => x.f.m 0 6,
    latch := fun _ _ _ => none, sound := fun _ _ _ _ => True,
    kind := fun _ _ x i _ k =>
      let v := x.srcB 32 (if x.f.m 6 1 = 1 then fpImmOf x.f else x.f.simm) (x.laneOfRod i)
      k = .aclr (BitVec.ofNat 32 v.1) v.2 },
  { word := .ald, form := formAld, job := true, pages := fun x i => if x.f.m 11 1 = 1 then [] else stridePages (fun _ => 128) x i,
    part := aldRod, tile := fun x => x.f.i 0 6, latch := fun c x i => c.latch (matD x i), sound := aldSound,
    kind := fun s c x i _ k => ∃ rows, k = .ald (x.f.m 11 1 == 1) rows ∧
      s.rowsAt c (x.f.m 11 1 == 1) [.read] (matA x i) (matB x i) 128 rows },
  { word := .amovTov, form := formAmov false, job := false, pages := noPages, part := tovRod, tile := fun x => x.f.i 0 6,
    latch := fun _ _ _ => none, sound := amovSound (fun x => x.f.dst.toNat), kind := tovKind },
  { word := .amovTob, form := formAmov true, job := false, pages := noPages, part := tobRod, tile := fun x => x.f.i 0 6,
    latch := fun _ _ _ => none, sound := amovSound (fun x => x.f.a.toNat),
    kind := fun _ c x i _ k => k = .amovTob ((List.range 1024).map (tobElem c x i)) },
  { word := .drain, form := formDrain, job := true,
    pages := fun x i => if x.f.m 11 1 = 1 then []
      else stridePages (fun x => 4 * ((x.fr.slot (cvtFd x.f)).map Binding.width).getD 0) x i,
    part := drainRod, tile := fun x => x.f.i 0 6, latch := fun c x i => c.latch (matD x i % 2 ^ 32), sound := drainSound, kind := drainKind }]

/-- A matrix word may enter its queue: its logical rods have converged, its engine runs, the tables its rows are walked through are at
hand, its parts pass their checks, and there is room. -/
def MatRow.mayQueue (row : MatRow) (s : State) (c : IssueCtx) (f : SFields) (s' : State) : Prop :=
  let x := c.issue row.form f
  s.wordIssues c row.form f ∧ collectiveOk c x = true ∧ s.engineStopped c.core = false ∧
  s.openLines c.fr.bay (s.walkLines c.fr.bay (x.rods.flatMap (row.pages x))) = none ∧
  issueRods (row.part c x) s x.rods = .ok s' ∧ s.queueRoom c.core x.rods.length = true ∧
  (row.job = true → s.shutterRoom c.core x.rods.length = true)

/-- A TFETCH has set the fetch entry its word names, and a queued operation will fetch its rows (R315, R316). -/
def fetchSet (c : IssueCtx) (f : SFields) (i : Nat) (t : State) : Prop :=
  let x := c.issue formTfetch f
  ∃ u e h id o, t.unit? c.fid c.ui = some u ∧ u.frontier = (c.u.advance c.e).frontier ∧ u.transom = none ∧
    u.sameRegs { c.u with rods := u.rods } ∧ (∀ j n, (u.rod j).scl n = (c.u.rod j).scl n) ∧
    SMap.find (u.rod i).fetches (f.i 0 2) = some e ∧ e.count = f.i 8 4 + 1 ∧ e.failed = none ∧
    e.base.toNat = (x.srcA 64 (x.laneOfRod i)).1 % 2 ^ 64 ∧ e.stride = (x.srcB 64 0 (x.laneOfRod i)).1 ∧
    SMap.find t.holds e.hold = some h ∧ h.core = c.core ∧ h.frame = c.fid ∧ h.rows.length = 32 ∧ h.performed = false ∧ h.users = 0 ∧
    SMap.find t.matq id = some o ∧ o.kind = .tfetch e.hold ∧ o.core = c.core

/-- A matrix word has entered its core's queue for logical rod `i`: at the end, with its tile, its latch, its operands and what its rod's
registers give it, a job with it where R312 makes it one; its lanes stand at the next word, and no register has changed. -/
def MatRow.queued (row : MatRow) (s : State) (c : IssueCtx) (x : Issue) (i : Nat) (t : State) : Prop :=
  ∃ u id o, t.unit? c.fid c.ui = some u ∧ u.frontier = (c.u.advance c.e).frontier ∧ u.transom = none ∧
    (∀ r l, u.vec r l = c.u.vec r l) ∧ (∀ p, u.pred p = c.u.pred p) ∧
    t.matq = s.matq.drop id ++ [(id, o)] ∧ s.nextId ≤ id ∧
    o.frame = c.fid ∧ o.unit = c.ui ∧ o.rod = i ∧ o.core = c.core ∧ o.side = c.u.side ∧ o.pc = c.e.pc ∧
    o.started = false ∧ o.tile = row.tile x ∧ row.tile x < c.fr.board ∧ o.latch = row.latch c x i ∧ o.tsc = (c.u.rod i).tsc ∧
    o.seed = (c.u.rod i).srseed ∧ row.kind s c x i t o.kind ∧
    (row.job = true → ∃ jid j, o.job = some jid ∧ SMap.find t.jobs jid = some j ∧ j.kind = .matrix ∧ j.frame = c.fid ∧ j.finished = false) ∧
    (row.job = false → o.job = none)

/-! ## Products (R183, R184, R308, R309) -/

/-- The number that a row's element decodes to (R54, R58). -/
abbrev rowElem (f : Binding) (r : List PByte × List PByte) (k n : Nat) : XVal := f.decode ((elemsOf f.width r.1 k)[n]?.getD (0, false)).1

/-- A scale byte: a power of two, or NaN (R62). -/
def scaleExt (x : Nat) : FpExt := if x = 255 then .nan else .fin false (pow2 ((x : Int) - 127))

/-- A row's element with its block scale and its per-tensor scale, exact (R64, R65, R308). -/
def rowExt (f : Binding) (r : List PByte × List PByte) (koff : Bool) (tsc k n : Nat) : FpExt :=
  ((rowElem f r k n).ext.mul (match r.2[((if koff = true then 16 else 0) + n) / 32]? with
    | some b => scaleExt b.1.toNat
    | none => .fin false 1)).mul (scaleExt tsc)

/-- A poisoned byte reaches one of a row's first `k` elements or a scale they use (R257). -/
def rowMarked (f : Binding) (r : List PByte × List PByte) (koff : Bool) (k : Nat) : Bool :=
  (elemsOf f.width r.1 k).any (·.2) || (r.2.take (((if koff = true then 16 else 0) + k + 31) / 32)).any (·.2)

/-- Every finite value a slot decodes to is a fraction with a denominator: what an image may hold (R54). -/
def Binding.proper (f : Binding) : Prop := ∀ x neg n d e, f.decode x = .fin neg n d e → 0 < d

/-- RowSum (R184): `r` is the FP32 accumulator after the products `ps` have been added to `acc`. -/
def rowSumHolds (acc : BitVec 32) (ps : List FpExt) (r : BitVec 32) : Prop :=
  let a := fpExt acc.toNat
  if a.isNan = true ∨ (∃ p ∈ ps, p.isNan = true) then r = 0x7FC00000
  else if (a = .inf false ∨ .inf false ∈ ps) ∧ (a = .inf true ∨ .inf true ∈ ps) then r = 0x7FC00000
  else if a = .inf false ∨ .inf false ∈ ps then r = 0x7F800000
  else if a = .inf true ∨ .inf true ∈ ps then r = 0xFF800000
  else ∃ (t : Int) (ws : List Int),
    ((∀ p ∈ ps, p.val = 0) → t = 0) ∧
    ((∃ p ∈ ps, p.val ≠ 0) → (∃ p ∈ ps, pow2 t ≤ p.val.abs) ∧ ∀ p ∈ ps, p.val.abs < pow2 (t + 1)) ∧
    ws.length = ps.length ∧ (∀ q ∈ ps.zip ws, (q.2.natAbs : Rat) * pow2 (t - 86) ≤ q.1.val.abs ∧
      q.1.val.abs < ((q.2.natAbs : Rat) + 1) * pow2 (t - 86) ∧ 0 ≤ (q.2 : Rat) * q.1.val) ∧
    let x := a.val + (ws.sum : Rat) * pow2 (t - 86)
    if x = 0 then r = if a = .fin true 0 ∧ ∀ p ∈ ps, p = .fin true 0 then 0x80000000 else 0
    else fpRounds .rne false 0 (FpExt.of x false) r.toNat

/-- The bytes of the rows an operation reads from memory are at hand (R315). -/
abbrev State.rowsRead (s : State) (o : MatOp) : Prop := runsLeft (s.matRows o).flatten o.data.length = []

/-- A performed operation has left the queue; the job it is has gone on to its arrival, or left its place (R312). -/
def State.matLeft (s : State) (id : Nat) (o : MatOp) (t : State) : Prop :=
  SMap.find t.matq id = none ∧ t.mem = s.mem ∧ ∀ jid j, o.job = some jid → SMap.find s.jobs jid = some j →
    SMap.find t.jobs jid = if j.latch.isSome = true then some { j with finished := true } else none

/-! ## Jobs on the pane (R328, R334, R335) -/

/-- Byte `n` of a pane window, as a job's side names it. -/
def Frame.windowByte (fr : Frame) (side : Nat) (w : Window) (n : Nat) : Byte := SMap.get 0 fr.paneMem (paneAt side (w.byteAt n))

/-- Element `n` of `width` bits of a pane window. -/
def Frame.windowElem (fr : Frame) (side : Nat) (w : Window) (width n : Nat) : Nat :=
  let first := n * width / 8
  field (ofBytes ((List.range (((n + 1) * width + 7) / 8 - first)).map (fun i => fr.windowByte side w (first + i)))) (n * width % 8) width

/-- A pane window that is read and holds no poison. -/
abbrev Frame.readsClean (fr : Frame) (side : Nat) (w : Window) : Prop :=
  w.pane = true ∧ w.len ≠ 0 ∧ ∀ n < w.bytes, memb (paneAt side (w.byteAt n) / 4) fr.panePoison = false

/-- A pane window that is written: its bytes stand apart from each other, and from those of the windows that are read (R332). -/
abbrev Window.writesApart (w : Window) (side : Nat) (rs : List Window) : Prop :=
  w.pane = true ∧ w.len ≠ 0 ∧
  (∀ m < w.bytes, ∀ n < w.bytes, paneAt side (w.byteAt m) = paneAt side (w.byteAt n) → m = n) ∧
  ∀ r ∈ rs, ∀ m < w.bytes, ∀ n < r.bytes, paneAt side (w.byteAt m) ≠ paneAt side (r.byteAt n)

/-- A job stands at the beginning of its effect. -/
abbrev Job.begins (j : Job) : Prop := j.started = true ∧ j.finished = false ∧ j.prog = {}

/-- A job has had its effect on the pane of its frame alone: it goes on to its arrival, or leaves its place (R326). -/
def State.jobLeft (s : State) (id : Nat) (j : Job) (t : State) (fr' : Frame) : Prop :=
  t.frame? j.frame = some fr' ∧ t.mem = s.mem ∧ SMap.find t.jobs id = if j.latch.isSome = true then some { j with finished := true } else none

end Sys2Proof.Machine
end

