-- ==== Sys2Proof/Safety/Node.lean ====
section
/-! DEFINITION. Records and copies in the terms of chapters 2 and 4: a record whose checks are made, and a run of bytes that a copy moves
(R36, R80, R86, R90). -/

namespace Sys2Proof.Machine

/-- A bay's pipeline holds a record whose checks came to a verdict. -/
abbrev State.judged (s : State) (b : Nat) (r : TakenRecord) (v : Verdict) : State :=
  s.modBay b (fun y => { y with taken := some { r with verdict := some v, read := [] } })

/-- The record that a bay's pipeline looks at next, its checks still to be made: the one it has read, or else the next of the bay's
rotation. -/
def State.looksAt (s : State) (b : Nat) (r : TakenRecord) : Prop :=
  r.verdict = none ∧ ((s.bay b).taken = some r ∨
    ((s.bay b).taken = none ∧ (s.bay b).nextPlace b = some r.place ∧ s.recordAt b r.place = (r.words, r.launcher) ∧ r.read = []))

/-- Two translations of a copy's next run are made, and both lines are at hand: the windows, the bytes copied so far, the places of the run
to read and of the run to write, and their lines. -/
def State.runAtHand (s : State) (rd : Reader) (r w : Window) (n : Nat) (p q : Place) (l m : L2Line) : Prop :=
  let k := copyRun r w n
  let b := rd.who.bay
  let pages := w.at n :: rangePages (r.at n) k
  n < r.bytes ∧ s.openLines b (s.walkLines b [w.at n]) = none ∧ s.openLines b (s.walkLines b (rangePages (r.at n) k)) = none ∧
  (∀ line ∈ s.walkLines b pages, ∃ x, s.l2? line = some x ∧ x.way ≠ transientWay) ∧
  s.places rd .read (lineRuns (r.at n) k) = .ok [p] ∧ s.places rd .write (lineRuns (w.at n) k) = .ok [q] ∧
  s.linesOpen b rd.k false [(p.line, p.key)] = none ∧ s.linesOpen b rd.k true [(q.line, q.key)] = none ∧
  s.l2? p.line = some l ∧ l.way ≠ transientWay ∧ l.poison = false ∧ p.off + k ≤ 128 ∧
  s.l2? q.line = some m ∧ m.way ≠ transientWay ∧ q.off + k ≤ 128

/-- `k` bytes of a line have been copied to a place of another, and nothing else has changed in any line or in memory. -/
def State.runCopied (s t : State) (k : Nat) (p q : Place) (l m : L2Line) : Prop :=
  t.mem.cells = s.mem.cells ∧ t.frames = s.frames ∧ (∀ j, j ≠ q.line → (t.l2? j).map (·.data) = (s.l2? j).map (·.data)) ∧
  ∃ m', t.l2? q.line = some m' ∧
    (∀ i < k, ∀ j < 8, m'.data.getLsbD (8 * (q.off + i) + j) = l.data.getLsbD (8 * (p.off + i) + j)) ∧
    (∀ b < 1024, b < 8 * q.off ∨ 8 * (q.off + k) ≤ b → m'.data.getLsbD b = m.data.getLsbD b)

end Sys2Proof.Machine
end

