-- ==== Sys2Proof/Safety/Pair.lean ====
section
/-! DEFINITION. The halves of pair words as R127 tables them, each by the single word it stands for (R126 to R129). -/

namespace Sys2Proof.Machine

/-- What a half makes of its operands: a and b its sources, d the old destination, r the result. -/
def halfRel (op : HalfOp) (rm : RMode) (rnd : Nat) (a b d r : BitVec 32) : Prop :=
  let fa := fpExt a.toNat
  let fb := fpExt b.toNat
  let fd := fpExt d.toNat
  match op with
  | .fadd => fpRounds rm false rnd (fa.add rm fb) r.toNat
  | .fsub => fpRounds rm false rnd (fa.add rm fb.neg) r.toNat
  | .fmul => fpRounds rm false rnd (fa.mul fb) r.toNat
  | .fma => fpRounds rm false rnd ((fa.mul fb).add rm fd) r.toNat
  | .fmin => minMaxRel false a.toNat b.toNat r.toNat
  | .fmax => minMaxRel true a.toNat b.toNat r.toNat
  | .fabs => signRel (fun _ _ => false) a.toNat 0 r.toNat
  | .fneg => signRel (fun a _ => !a.testBit 31) a.toNat 0 r.toNat
  | .iadd => r = a + b
  | .isub => r = a - b
  | .imul => r = a * b
  | .imad => r = d + a * b
  | .imin => r = if b.toInt < a.toInt then b else a
  | .imax => r = if a.toInt < b.toInt then b else a
  | .umin => r = if b < a then b else a
  | .umax => r = if a < b then b else a
  | .and => r = a &&& b
  | .or => r = a ||| b
  | .xor => r = a ^^^ b
  | .shl => r = if count8 b < 32 then a <<< count8 b else 0
  | .shr => r = if count8 b < 32 then a >>> count8 b else 0
  | .sar => ∀ j < 32, r.getLsbD j = if j + count8 b < 32 then a.getLsbD (j + count8 b) else a.msb
  | .mov => r = a
  | .fexp2 => exp2Rel rm false rnd a.toNat r.toNat
  | .flog2 => log2Rel rm false rnd a.toNat r.toNat
  | .frcp => fpRounds rm false rnd ((FpExt.fin false 1).div fa) r.toNat
  | .frsq => rsqRel rm false rnd a.toNat r.toNat
  | .fsin => sinRel rm false rnd a.toNat r.toNat
  | .fcos => cosRel rm false rnd a.toNat r.toNat
  | .fsqrt => sqrtRel rm false rnd a.toNat r.toNat

/-- A half's result in a lane, from the registers before the word. -/
def halfHolds (c : IssueCtx) (h : Half) (ebase l : Nat) (r : BitVec 32) : Prop :=
  halfRel h.op (RMode.ofCode (halfRm h)) ((c.half h ebase).rnd l 0) (c.u.vec h.a.toNat l) (c.u.vec h.b.toNat l)
    (c.u.vec h.dst.toNat l) r

/-- A pair word issues: no check fails, no register of either half is empty, and no guard is poisoned. -/
def State.pairIssues (s : State) (c : IssueCtx) (h0 h1 : Half) : Prop :=
  s.issuing = some c ∧ checkPair (s.checkCtx c) c.u.transom h0 h1 = none ∧
  readiness c [h0.guard.toNat, h1.guard.toNat] (halfUses h0 ++ halfUses h1) = .issues ∧
  guardPoison c.fr.width c.u c.e false h0.guard.toNat = none ∧ guardPoison c.fr.width c.u c.e false h1.guard.toNat = none

end Sys2Proof.Machine
end

