-- ==== Sys2Proof/Safety/Room.lean ====
section
/-! DEFINITION. Room: on a core for the rods, granules, scalar sets, pane and tiles of a frame (R109, R110), and in a home slice for a
line (R267). -/

namespace Sys2Proof.Machine

/-- The free slots of a core, by quarter. -/
def State.freeSlots (s : State) (core quarters : Nat) : List (Nat × Nat) :=
  (List.range quarters).flatMap (fun q => ((List.range 16).map (q, ·)).filter (fun p => !(s.takenSlots core).any (· == p)))

/-- The free pairs of slots of a core that a unit of width 64 can take, each by its even slot. -/
def State.freePairs (s : State) (core quarters : Nat) : List (Nat × Nat) :=
  (s.freeSlots core quarters).filter (fun p => p.2 % 2 == 0 && (s.freeSlots core quarters).any (· == (p.1, p.2 + 1)))

/-- A core has room beside the frames resident there for some logical rods of a width, each hardware rod with `vgran` granules, with a
pane of `pane` KiB and `board` tiles (R109), and slots for their issuing units (R110). -/
abbrev State.hasRoom (s : State) (b core width rods vgran pane board : Nat) : Prop :=
  ((s.onCore core).map (fun q => q.1.hardOn q.2 * q.1.vgran)).sum + hardRods width rods * vgran ≤ (coreSize b).2.1 ∧
  ((s.onCore core).map (fun q => q.1.logicalOn q.2)).sum + rods ≤ (coreSize b).2.2.1 ∧
  ((s.onCore core).map (fun q => q.1.pane)).sum + pane ≤ (coreSize b).2.2.2.1 ∧
  ((s.onCore core).map (fun q => q.1.board)).sum + board ≤ (coreSize b).2.2.2.2 ∧
  unitCount width rods ≤ (if width = 64 then (s.freePairs core (coreSize b).1).length else (s.freeSlots core (coreSize b).1).length)

/-- Every core of a try has room for its share of a frame's logical rods. -/
abbrev State.allRoom (s : State) (b width vgran pane board : Nat) (counts : List Nat) (t : List Nat) : Prop :=
  ∀ q ∈ (t.map (s.coreOf b)).zip counts, s.hasRoom b q.1 width q.2 vgran pane board

/-- A line of a bay can enter its slice: the bay has no way there, so that it is held for its request alone, or one of its ways holds no
pinned line (R267). -/
abbrev State.lineRoom (s : State) (b line : Nat) : Prop :=
  s.candidates b = [] ∨ ∃ w ∈ s.candidates b, ∀ p ∈ s.setOf (s.sliceOf line) (setOfLine line), p.2.way = w → p.2.pins = []

end Sys2Proof.Machine
end

