-- ==== Sys2Proof/Safety/System.lean ====
section
/-! DEFINITION. The system words in the terms of chapter 22: what each waits for, the block it reads, the status or value it returns
and what it leaves of the machine (R393 to R403). -/

namespace Sys2Proof.Machine

/-- A bay without what the counters of R421 hold. -/
def Bay.uncounted (y : Bay) : Bay := { y with counters := [], heldEvents := [] }

/-- Of `t` everything but the units, the producers and the counters is as in `s`. -/
def State.onlyReplied (s t : State) : Prop :=
  t.chip = s.chip ∧ t.mem = s.mem ∧ t.cache = s.cache ∧ t.host = s.host ∧ t.groups = s.groups ∧ t.nodes = s.nodes ∧ t.ops = s.ops ∧
  t.fences = s.fences ∧ t.jobs = s.jobs ∧ t.matq = s.matq ∧ t.holds = s.holds ∧ t.loads = s.loads ∧
  ∀ b, (t.bay b).uncounted = (s.bay b).uncounted

/-- A word that returns a value or a status. -/
structure SysRow where
  word : SFields → Instr
  form : Form
  /-- The bay the word acts on; whether it resets it (R394, R416). -/
  bay : IssueCtx → Issue → Nat → Option Nat := fun _ _ _ => none
  resets : Bool := false
  /-- What the word waits for is done. -/
  free : IssueCtx → Issue → Nat → State → Prop := fun _ _ _ _ => True
  /-- The block read: virtual address and length. -/
  block : Issue → Nat → State → Option (Nat × Nat) := fun _ _ _ => none
  /-- What sD receives, and the state the word leaves. -/
  reply : IssueCtx → Issue → Nat → List Byte → State → Nat × State

/-- A status that leaves everything as it was. -/
abbrev returns (k : Nat) (s : State) : Nat × State := (k, s)

/-- The bay a "sel" word names (R393, R395). -/
def namedBay (c : IssueCtx) (x : Issue) : Option Nat :=
  if c.level = 2 then (if x.f.imm.getLsbD 20 then some (x.f.i 16 4) else none) else some c.fr.bay

/-- Translations are kept only where a test holds. -/
def State.keepTlb (s : State) (p : TlbEntry → Bool) : State := { s with cache := { s.cache with tlb := s.cache.tlb.filter p } }

/-- The bay named in sA. -/
def bayInA (_ : IssueCtx) (x : Issue) (i : Nat) : Option Nat := some (x.opA i)

/-- The bay of a "sel" word. -/
def bayNamed (c : IssueCtx) (x : Issue) (_ : Nat) : Option Nat := namedBay c x

/-- Every earlier word on a bay is done (R394): no image is being loaded for it, and no PREEMPT waits for its save, which a bay reset does
not wait for. -/
def State.bayWordsDone (s : State) (resets : Bool) (b : Nat) : Prop :=
  (∀ p ∈ s.loads, p.2.bay ≠ b) ∧ (resets = false → (s.bay b).preempts = [])

/-- The words of translation, images and logs, of both levels (R398, R399). -/
def levelOneRows : List SysRow := [
  { word := .tlbi, form := formTlbi, bay := bayNamed, free := fun c x _ s => s.bayAccesses ((namedBay c x).getD 12) = false,
    reply := fun c x i _ s => if c.level = 2 ∧ 12 ≤ (namedBay c x).getD 0 then returns 0x3C9 s
      else (0, s.keepTlb (fun t => !(t.bay == (namedBay c x).getD 12 && t.covers ((namedBay c x).getD 12) (BitVec.ofNat 64 (x.opA i))))) },
  { word := .tlbiAll, form := formTlbiAll, bay := bayNamed, free := fun c x _ s => s.bayAccesses ((namedBay c x).getD 12) = false,
    reply := fun c x _ _ s => if c.level = 2 ∧ 12 ≤ (namedBay c x).getD 0 then returns 0x3C9 s
      else (0, s.keepTlb (fun t => t.bay != (namedBay c x).getD 12)) },
  { word := .ptroot, form := formSelA, bay := bayNamed, free := fun c x _ s => s.bayAccesses ((namedBay c x).getD 12) = false,
    reply := fun c x i _ s => if (c.level = 2 ∧ 12 ≤ (namedBay c x).getD 0) ∨ x.opA i % 2 ^ 12 ≠ 0 ∨ x.opA i / 2 ^ 52 ≠ 0 then returns 0x3C9 s
      else (0, (s.modBay ((namedBay c x).getD 12) (fun y => { y with root := BitVec.ofNat 64 (x.opA i) })).keepTlb
        (fun t => t.bay != (namedBay c x).getD 12)) },
  { word := .imgwd, form := formSelA, bay := bayNamed,
    reply := fun c x i _ s => match namedBay c x with
      | none => returns 0x3C9 s
      | some b =>
        let hit (j : StoredImage) : Bool := !j.withdrawn && j.image.digest.toNat % 2 ^ 64 == x.opA i % 2 ^ 64
        if 12 ≤ b then returns 0x3C9 s
        else if (s.bay b).store.all (fun j => !hit j) then returns 0x364 s
        else (0, s.modBay b (fun y => { y with
          store := (y.store.map (fun j => if hit j then { j with withdrawn := true } else j)).filter
            (fun j => !j.withdrawn || s.retained b j.image) })) },
  { word := .attrd, form := formSelAB, bay := bayNamed,
    reply := fun c x i _ s => if c.level = 2 ∧ 12 ≤ (namedBay c x).getD 0 then returns 0x3C9 s
      else
        let log := match namedBay c x with
          | none => s.chip.attest
          | some b => s.chip.attest.filter (fun a => a.bay == b)
        match log[x.opA i]? with
          | none => returns 0 s
          | some a =>
            let w := x.opB i
            returns (if w = 0 then 2 ^ 63 + a.bay % 16 * 2 ^ 48 + a.seq.toNat else if w ≤ 8 then a.image.toNat / 2 ^ (64 * (w - 1)) % 2 ^ 64
              else if w ≤ 16 then a.key.toNat / 2 ^ (64 * (w - 9)) % 2 ^ 64 else 0) s },
  { word := .logrd, form := formLogrd, bay := bayNamed,
    reply := fun c x i _ s => match namedBay c x with
      | none => returns 0x3C9 s
      | some b => if 12 ≤ b ∨ 0x40 < x.opA i then returns 0x3C9 s else returns ((s.bay b).logWord (x.opA i)) s }]

/-- A bay number in sA above 11 is out of range (R396). -/
def forBay (x : Issue) (i : Nat) (s : State) (g : Nat → Nat × State) : Nat × State := if x.opA i ≤ 11 then g (x.opA i) else returns 0x3C9 s

/-- The words on bays (R94 to R103, R400, R401). -/
def bayRows : List SysRow := [
  { word := .bayrst, form := formStewA, bay := bayInA, resets := true,
    reply := fun _ x i _ s => forBay x i s fun b => if (s.bay b).state = .free then returns 0x3CE s else (0, s.endBay b false) },
  { word := .baycfg, form := formStewAB, bay := bayInA,
    block := fun x i s => if x.opA i ≤ 11 ∧ x.opB i % 64 = 0 ∧ (s.bay (x.opA i)).state ≠ .reserved then some (x.opB i, 64) else none,
    reply := fun _ x i bs s => forBay x i s fun b =>
      if x.opB i % 64 ≠ 0 then returns 0x3C9 s else if (s.bay b).state = .reserved then returns 0x3C6 s
      else if s.blockRefused b (blockWords bs 8) = true then returns 0x3C5 s else (0, s.configure b (blockWords bs 8)) },
  { word := .baystRsv, form := formStewOp, bay := bayInA,
    free := fun _ x i s => x.opA i ≤ 11 → (s.bay (x.opA i)).ctl.importBit = false,
    reply := fun _ x i _ s => forBay x i s fun b =>
      if (s.bay b).state ≠ .configured then returns 0x3CE s
      else if (s.bay b).group ≠ 0 ∧ s.tableValid (s.bay b).group = false then returns 0x3C8 s else (0, s.reserve b) },
  { word := .baystUnr, form := formStewOp, bay := bayInA,
    reply := fun _ x i _ s => forBay x i s fun b =>
      if s.hasWork b = true then returns 0x3C7 s else if (s.bay b).state ≠ .reserved then returns 0x3CE s
      else (0, ((s.modBay b (fun y => { y with state := .configured, running := false })).deadLines b).stopTurns (s.bay b).group) },
  { word := .baystRel, form := formStewOp, bay := bayInA,
    reply := fun _ x i _ s => forBay x i s fun b =>
      if s.hasWork b = true then returns 0x3C7 s else if (s.bay b).state ≠ .configured then returns 0x3CE s else (0, s.release b) },
  { word := .turnw, form := formStewAB,
    block := fun x i s => if 1 ≤ x.opA i ∧ x.opA i ≤ 7 ∧ x.opB i % 32 = 0 ∧ (∀ b ∈ s.members (x.opA i), (s.bay b).state ≠ .reserved)
      then some (x.opB i, 32) else none,
    reply := fun _ x i bs s =>
      let g := x.opA i
      let es := (List.range 8).map (fun n => BitVec.ofNat 32 (ofBytes ((bs.drop (4 * n)).take 4)))
      if g = 0 ∨ 7 < g ∨ x.opB i % 32 ≠ 0 then returns 0x3C9 s
      else if (∃ b ∈ s.members g, (s.bay b).state = .reserved) ∨ (∃ e ∈ es, s.entryRefused g e = true) then returns 0x3C8 s
      else (0, { s with groups := s.groups.set (g - 1) { entries := es.map (· &&& 0xF80FFFFF), turn := 0, running := false } }) },
  { word := .preemptGo, form := formStewFlag, bay := bayInA,
    reply := fun _ x i _ s => forBay x i s fun b =>
      if (s.bay b).state ≠ .reserved then returns 0x3CE s else (0, s.modBay b (fun y => { y with stopped := false })) }]

/-- The words on keys, ownership, the retirement record and the logs (R14, R18, R248, R363, R376, R377, R392, R402, R403). -/
def packageRows : List SysRow := [
  { word := .keyset, form := formStewA,
    reply := fun _ x i _ s =>
      let k := x.opA i % 64
      if k = 0 ∨ (∃ b ∈ List.range 12, (s.bay b).state ≠ .free ∧ (s.bay b).keySet.getLsbD k = true) then returns 0x3CA s
      else (0, (s.dropLines (fun _ key => key == k)).modChip (fun ch => { ch with
        keyGen := SMap.set 0 ch.keyGen k (SMap.get 0 ch.keyGen k + 1) })) },
  { word := .ownset, form := formOwnset,
    free := fun _ x i s => x.opA i % 2 ^ 16 = 0 → x.opB i ≠ 0 → entryRefusal (x.f.imm.setWidth 16) = false → inTable (x.opA i) (x.opB i) = true →
      s.rangeBusy (x.opA i) (x.opB i) = false,
    reply := fun _ x i _ s =>
      let e : BitVec 16 := x.f.imm.setWidth 16
      if x.opA i % 2 ^ 16 ≠ 0 ∨ x.opB i = 0 then returns 0x3C9 s
      else if entryRefusal e = true ∨ inTable (x.opA i) (x.opB i) = false then returns 0x3CB s
      else (0, s.putOwners (x.opA i) (x.opB i) e) },
  { word := .keyenr, form := formKeyenr, bay := bayInA,
    block := fun x i s => if x.opA i ≤ 11 ∧ (s.bay (x.opA i)).keys.length < 4 then some (x.opB i, 1952) else none,
    reply := fun _ x i bs s => forBay x i s fun b =>
      if 4 ≤ (s.bay b).keys.length then returns 0x3CC s
      else (0, s.modBay b (fun y => { y with keys := y.keys ++ [(shake256 bs, BitVec.ofNat 15616 (ofBytes bs))] })) },
  { word := .keyenrWd, form := formKeyenr, bay := bayInA,
    reply := fun _ x i _ s => forBay x i s fun b =>
      let hit (k : BitVec 512 × BitVec 15616) : Bool := k.1.toNat % 2 ^ 64 == x.opB i % 2 ^ 64
      if (s.bay b).keys.all (fun k => !hit k) then returns 0x3CC s else (0, s.modBay b (fun y => { y with keys := y.keys.eraseP hit })) },
  { word := .ratio, form := formStewAB,
    reply := fun _ x i _ s =>
      if 15 < x.opA i ∨ x.opB i = 0 ∨ 7 < x.opB i then returns 0x3C9 s
      else if ∃ b ∈ List.range 12, (s.bay b).state ≠ .free ∧ (s.bay b).chslot ≠ 0 then returns 0x3C4 s
      else (0, s.modChip (fun ch => { ch with ratios := SMap.set 4 ch.ratios (x.opA i) (x.opB i) })) },
  { word := .sillrd, form := formStewFlag, free := fun _ x i s => s.lineTaken (x.opA i / 128) = false,
    reply := fun _ x i _ s => returns (s.sillReport (x.opA i)) s },
  { word := .sillrdOwn, form := formStewFlag,
    reply := fun _ x i _ s => returns (if x.opA i < hbmBytes ∨ inTier (x.opA i) then 2 ^ 63 + (s.ownerEntry (x.opA i)).toNat else 0) s },
  { word := .sillclr, form := formStewA,
    reply := fun _ x i _ s => if s.tierSets ≤ x.opA i then returns 0x3C9 s
      else (0, if s.chip.dom.mode = true then s.clearSet (x.opA i) else s) },
  { word := .mcrd, form := formStewFlag,
    reply := fun _ x i _ s =>
      let n := x.opA i
      let w1 := x.f.mod.getLsbD 6
      returns (if n = 0x100 then s.chip.mcCount.toNat * 2 ^ 32 + s.chip.mcCount.toNat % 256 else if 0x100 < n then 0
        else match SMap.find s.chip.mclog n, w1 with
          | none, true => 0
          | none, false => 0xF * 2 ^ 52
          | some e, true => e.unit.toNat
          | some e, false => 2 ^ 63 + e.bay % 16 * 2 ^ 52 + e.cause % 1024 * 2 ^ 32 + e.seq.toNat) s }]

/-- RETIRE's rows: the words and what they name (R18, R403). -/
def retireRows : List SysRow :=
  [((fun f => Instr.retirePair f), 128, RetUnit.pair), ((fun f => Instr.retireSlice f), 128, RetUnit.slice),
   ((fun f => Instr.retirePch f), 1024, RetUnit.pch)].map (fun q =>
    { word := q.1, form := formStewOp,
      reply := fun _ x i _ s =>
        let u := q.2.2 (x.opA i)
        if q.2.1 ≤ x.opA i then returns 0x3C9 s
        else if u ∈ s.chip.retired ∨ u ∈ s.chip.retireRecord ∨ 32 ≤ s.chip.retireRecord.length then returns 0x3CD s
        else (0, s.modChip (fun ch => { ch with retireRecord := ch.retireRecord ++ [u] })) })

/-- A word acts in its one logical rod: it issues, what it waits for is done, its operands are clean and its block is read. -/
def SysRow.acts (row : SysRow) (s : State) (c : IssueCtx) (f : SFields) (i : Nat) (bs : List Byte) (s1 : State) : Prop :=
  let x := c.issue row.form f
  s.wordIssues c row.form f ∧ x.rods = [i] ∧ s.allDone c 2 = true ∧ poisonedRod row.form x = none ∧
  (∀ b, row.bay c x i = some b → s.bayWordsDone row.resets b) ∧ row.free c x i s ∧
  (match row.block x i s with
    | none => bs = [] ∧ s1 = s
    | some (va, n) => s.bulkRead (s.unitReader c true) va n = .value bs false s1)

/-- What a word that acted leaves: the reply's state after the word's acquire, sD empty under a producer that holds the reply, and the unit at the next word. -/
def SysRow.replies (row : SysRow) (s1 : State) (c : IssueCtx) (f : SFields) (i : Nat) (bs : List Byte) (t : State) : Prop :=
  let r := row.reply c (c.issue row.form f) i bs s1
  (r.2.syncCore c.core).onlyReplied t ∧ ∃ u p, t.unit? c.fid c.ui = some u ∧ u.frontier = (c.u.advance c.e).frontier ∧ u.transom = none ∧
    (∀ n l, u.vec n l = c.u.vec n l) ∧ (∀ n, u.pred n = c.u.pred n) ∧ (∀ j n, (u.rod j).scl n = (c.u.rod j).scl n) ∧
    SMap.find t.producers r.2.nextId = some p ∧ p.frame = c.fid ∧ p.unit = c.ui ∧ p.rods = [i] ∧ p.ready = true ∧ p.faulted = false ∧
    p.dests = [(.scl, f.dst.toNat)] ∧
    (f.dst ≠ 0 → i < c.u.rods.length → memb f.dst.toNat (u.rod i).sEmpty = true ∧
      ((c.u.apply p.effect).rod i).scl f.dst.toNat = BitVec.ofNat 64 r.1)

end Sys2Proof.Machine
end

