-- ==== Sys2Proof/Certificates/Slice0/Obligations.lean ====
section
/-! DEFINITION. The statements for the provers. -/

open Sys2Proof Sys2Proof.Machine


/-! ## Control words (R141, R142, R150 to R155) -/

/-- BRA and CALL (R150): the active lanes go, with the target's priority, to the target, which the immediate or an LBR gives, the other lanes
to the next word, and CALL leaves the link in v1, full, in the active lanes; nothing else of the machine changes. With an active lane, a
target outside the code traps with 0x081 and one behind a transom word with 0x007. -/
def Obligations.branches_move_active_lanes : Prop :=
  ∀ (link : Bool) (s : State) (c : IssueCtx) (f : SFields),
    let fm := if link then formCall else formBra
    let word : Instr := if link then .call f else .bra f
    let x := c.issue fm f
    let target : Int := match x.lbr with
      | some p => ((p.extractLsb' 0 24).toNat : Int)
      | none => (c.e.pc : Int) + f.imm.toInt
    let pri : BitVec 8 := match x.lbr with
      | some p => p.extractLsb' 24 8
      | none => f.mod.extractLsb' 0 8
    s.wordIssues c fm f → oneEntryPerWord c.u.frontier →
    ((x.act ≠ 0 → 0 ≤ target ∧ target < c.codeWords ∧ s.clearBefore c target.toNat) →
      ∃ t u, exec word s = .next t ∧ t.unit? c.fid c.ui = some u ∧ s.sameBut t c ∧
        lanesGo c x u (fun _ => target.toNat) ∧ prioritiesGo c x u (fun _ => target.toNat) (fun _ => pri) ∧
        (∀ r l, l < 64 → u.vec r l = if link = true ∧ r = 1 ∧ l ∈ x.lanes then c.e.pri ++ BitVec.ofNat 24 (c.e.pc + 1) else c.u.vec r l) ∧
        (link = true → u.isEmpty [] .vec 1 = false) ∧ (∀ p, u.pred p = c.u.pred p) ∧ (∀ i, u.rod i = c.u.rod i)) ∧
    (x.act ≠ 0 → target < 0 ∨ c.codeWords ≤ target →
      ∃ tr : TrapInfo, tr.cause = 0x081 ∧ exec word s = .next (s.takeTrap c.fid c.ui c.e tr)) ∧
    (x.act ≠ 0 → 0 ≤ target → target < c.codeWords → s.transomBefore c target.toNat →
      ∃ tr : TrapInfo, tr.cause = 0x007 ∧ exec word s = .next (s.takeTrap c.fid c.ui c.e tr))

/-- CALLT (R151): each active lane goes to the target of the function-table entry its index names, once that entry is valid and
carries the signature in B; the link stands in v1.
The model's own readings and choices it rests on: log entries 18, 19 and 41. -/
def Obligations.callt_goes_through_the_table : Prop :=
  ∀ (s : State) (c : IssueCtx) (f : SFields) (target : Nat → Nat) (pri : Nat → BitVec 8),
    let x := c.issue formCallt f
    s.wordIssues c formCallt f → oneEntryPerWord c.u.frontier → s.allDone c 2 = true →
    (s.calltTouch c x).unit? c.fid c.ui = some c.u →
    (∀ l ∈ x.lanes, ∃ bs s', (tableIndex x l).2 = false ∧ c.fr.ftab ≠ 0 ∧ (tableIndex x l).1 < c.fr.ftlen ∧
      s.bulkRead (s.unitReader c false) ((c.fr.ftab.toNat + 16 * (tableIndex x l).1) % 2 ^ 64) 16 = .value bs false s' ∧
      (word64 bs 0).getLsbD 63 = true ∧ (word64 bs 0).extractLsb' 32 31 = 0 ∧
      ((word64 bs 1).extractLsb' 32 32).toNat = (x.srcB 32 f.zimm l).1 ∧
      target l = ((word64 bs 1).extractLsb' 8 24).toNat ∧ pri l = (word64 bs 1).extractLsb' 0 8 ∧
      target l < c.codeWords ∧ s.before c (target l) = .clear) →
    ∃ t u, exec (.callt f) s = .next t ∧ t.unit? c.fid c.ui = some u ∧ lanesGo c x u target ∧ prioritiesGo c x u target pri ∧
      (∀ r l, l < 64 → u.vec r l = if r = 1 ∧ l ∈ x.lanes then c.e.pri ++ BitVec.ofNat 24 (c.e.pc + 1) else c.u.vec r l) ∧
      (∀ p, u.pred p = c.u.pred p) ∧ (∀ i, u.rod i = c.u.rod i)

/-- RET (R152) and EXIT (R153): each active lane goes to the word its link names, with the link's priority, or stands nowhere any more; no
register changes. The first active lane of RET whose link lies outside the code traps with 0x086, behind a transom word with 0x007; an
empty register of links traps with 0x110 under empty behaviour 1 and holds the word back under 0, in which case it stays selected. -/
def Obligations.ret_and_exit_move_active_lanes : Prop :=
  (∀ (s : State) (c : IssueCtx) (f : SFields),
    let x := c.issue formRet f
    let link (l : Nat) : Nat := (x.srcA 32 l).1 % 2 ^ 24
    let good (l : Nat) : Prop := (x.srcA 32 l).2 = false ∧ link l < c.codeWords ∧ s.clearBefore c (link l)
    (s.wordIssues c formRet f → oneEntryPerWord c.u.frontier → (∀ l ∈ x.lanes, good l) →
      ∃ t u, exec (.ret f) s = .next t ∧ t.unit? c.fid c.ui = some u ∧ s.sameBut t c ∧ lanesGo c x u link ∧
        prioritiesGo c x u link (fun l => BitVec.ofNat 8 ((x.srcA 32 l).1 / 2 ^ 24)) ∧ u.sameRegs c.u) ∧
    (s.wordIssues c formRet f → ∀ l ∈ x.lanes, (∀ j ∈ x.lanes, j < l → good j) → (x.srcA 32 l).2 = false →
      (c.codeWords ≤ link l → ∃ tr : TrapInfo, tr.cause = 0x086 ∧ tr.lane = some l ∧ exec (.ret f) s = .next (s.takeTrap c.fid c.ui c.e tr)) ∧
      (link l < c.codeWords → s.transomBefore c (link l) →
        ∃ tr : TrapInfo, tr.cause = 0x007 ∧ tr.lane = some l ∧ exec (.ret f) s = .next (s.takeTrap c.fid c.ui c.e tr))) ∧
    (s.issuing = some c → checkWord (s.checkCtx c) formRet c.u.transom f = none → c.u.isEmpty [] .vec f.a.toNat = true →
      (f.ae = true → ∃ tr : TrapInfo, tr.cause = 0x110 ∧ exec (.ret f) s = .next (s.takeTrap c.fid c.ui c.e tr)) ∧
      (f.ae = false → exec (.ret f) s =
        .next ((s.modUnit c.fid c.ui (fun u => { u with blocked := some c.e.pc })).count c.fr.bay 2 1)))) ∧
  (∀ (s : State) (c : IssueCtx) (f : SFields),
    let x := c.issue formBare f
    s.wordIssues c formBare f → oneEntryPerWord c.u.frontier →
    ∃ t u, exec (.exit f) s = .next t ∧ t.unit? c.fid c.ui = some u ∧ s.sameBut t c ∧ u.sameRegs c.u ∧
      ∀ l p, standsAt u.frontier l p ↔
        (c.e.lanes.getLsbD l = true ∧ l ∉ x.lanes ∧ p = c.e.pc + 1) ∨ (p ≠ c.e.pc ∧ standsAt c.u.frontier l p))

/-- NOP (R135) and PAUSE (R353, R167): every lane of the entry goes to the next word; PAUSE leaves the unit out of the rotation for
the largest count of its logical rods, at most 65,535, unless that is zero or a save has asked the frame to halt.
The model's own readings and choices it rests on: log entry 13. -/
def Obligations.nop_and_pause_pass : Prop :=
  (∀ (s : State) (c : IssueCtx) (f : SFields), s.wordIssues c formBare f →
    ∃ t, exec (.nop f) s = .next t ∧ t.unit? c.fid c.ui = some (c.passed c.u) ∧ s.sameBut t c) ∧
  (∀ (s : State) (c : IssueCtx) (f : SFields),
    let x := c.issue formPause f
    let count (i : Nat) : Nat × Bool := x.srcB 64 f.zimm (x.laneOfRod i)
    s.wordIssues c formPause f → (∀ i ∈ x.rods, (count i).2 = false) →
    ∃ t u, exec (.pause f) s = .next t ∧ t.unit? c.fid c.ui = some (c.passed u) ∧ s.sameBut t c ∧ u.sameRegs c.u ∧
      u.frontier = c.u.frontier ∧
      u.pause = (let n := (x.rods.map (fun i => min (count i).1 65535)).foldl max 0
        if n = 0 ∨ c.fr.haltReq = true then c.u.pause else some n))

/-- TRAP (R155): with an active lane the word traps at its own index with the cause its immediate names, marked as raised by TRAP, or with
0x087 where that cause may not be raised; with none it only passes. -/
def Obligations.trap_raises_its_cause : Prop :=
  ∀ (s : State) (c : IssueCtx) (f : SFields),
    let x := c.issue formTrap f
    let k := (f.imm.extractLsb' 0 10).toNat
    s.wordIssues c formTrap f →
    (x.act = 0 → ∃ t, exec (.trap f) s = .next t ∧ t.unit? c.fid c.ui = some (c.passed c.u) ∧ s.sameBut t c) ∧
    (x.act ≠ 0 → ∃ tr : TrapInfo, exec (.trap f) s = .next (s.takeTrap c.fid c.ui c.e tr) ∧ tr.widx.getD c.e.pc = c.e.pc ∧
      (k ≠ 0 → k < 0x3F0 → tr.cause = k ∧ tr.byTrap = true) ∧ (k = 0 ∨ 0x3F0 ≤ k → tr.cause = 0x087))

/-- LAUNCH (R154): with every earlier memory word performed and the records of the active lanes read, the records go to the bay's
device queue in lane order while it holds fewer than 256; the predicate is empty, and the producer that fills it will tell each lane
whether its record was taken.
The model's own readings and choices it rests on: log entries 18 and 19. -/
def Obligations.launch_appends_records : Prop :=
  ∀ (s : State) (c : IssueCtx) (f : SFields) (addrs : List (Nat × Nat)) (rs : List (Nat × List (BitVec 64))) (s1 : State),
    let x := c.issue formLaunch f
    s.wordIssues c formLaunch f → x.act ≠ 0 → s.allDone c 2 = true →
    launchAddrs x x.lanes = .ok addrs → s.launchRecords c addrs = .got rs s1 → c.fr.bay < s1.bays.length →
    s1.unit? c.fid c.ui = some c.u →
    let taken := rs.take (256 - (s1.bay c.fr.bay).device.length)
    ∃ t u p, exec (.launch f) s = .next t ∧ t.unit? c.fid c.ui = some u ∧ u.frontier = (c.u.advance c.e).frontier ∧ t.mem = s1.mem ∧
      (t.bay c.fr.bay).device =
        (s1.bay c.fr.bay).device ++ taken.map (fun r => { words := r.2, launcher := c.fr.node }) ∧
      (f.dst ≠ 0 → memb f.dst.toNat u.pEmpty = true) ∧ SMap.find t.producers s1.nextId = some p ∧ p.frame = c.fid ∧ p.unit = c.ui ∧
      p.ready = true ∧ p.dests = destsOf (formLaunch.regs f) ∧
      (f.dst ≠ 0 → ∀ r ∈ rs, r.1 < 64 → ((c.u.apply p.effect).pred f.dst.toNat).getLsbD r.1 = taken.any (fun q => q.1 == r.1)) ∧ (∀ q, u.pred q = c.u.pred q) ∧
      (∀ r l, u.vec r l = c.u.vec r l) ∧ (∀ i n, (u.rod i).scl n = (c.u.rod i).scl n)

/-- LIT, LBR and OVR (R130, R131): a transom word with a legal payload issues where none is pending: its payload waits for the next
word, to which every lane of the entry moves. -/
def Obligations.transoms_wait_for_their_word : Prop :=
  ∀ (k : TransomKind) (s : State) (c : IssueCtx) (p : BitVec 64),
    let i : Instr := match k with
      | .lit => .lit 0 p
      | .lbr => .lbr 0 p
      | .ovr => .ovr 0 p
    let legal : Prop := match k with
      | .lit => True
      | .lbr => p.extractLsb' 32 32 = 0
      | .ovr => p.extractLsb' 48 16 = 0 ∧ p.extractLsb' 0 32 = 0 ∧
          (p.getLsbD 47 = true ∨ p.getLsbD 43 = true ∨ p.getLsbD 41 = true ∨ p.getLsbD 36 = true) ∧
          (p.getLsbD 47 = true → (p.extractLsb' 44 3).toNat ≤ 4)
    s.issuing = some c → c.u.transom = none → legal →
    ∃ t u, exec i s = .next t ∧ t.unit? c.fid c.ui = some u ∧ s.sameBut t c ∧
      u.transom = some { pc := c.e.pc, kind := k, payload := p } ∧ u.frontier = (c.u.advance c.e).frontier ∧ u.sameRegs c.u

/-! ## Pair words (R126 to R129) -/

/-- A pair word (R126 to R129): both halves act on the registers as they stood before the word, each in its own active lanes; a
transcendental half is a long-latency producer. No register but the two destinations changes.
The model's own readings and choices it rests on: log entry 44. -/
def Obligations.pair_words_do_both_halves : Prop :=
  ∀ (s : State) (c : IssueCtx) (h0 h1 : Half), s.pairIssues c h0 h1 →
    ∃ t u, exec (.pairWord h0 h1) s = .next t ∧ t.unit? c.fid c.ui = some (c.passed u) ∧ t.mem = s.mem ∧ t.cache = s.cache ∧
      (∀ h ebase, (h, ebase) = (h0, 0) ∨ (h, ebase) = (h1, 2048) →
        (HalfOp.isT h.op = false → ∀ l ∈ (c.half h ebase).lanes, halfHolds c h ebase l (u.vec h.dst.toNat l)) ∧
        (HalfOp.isT h.op = true → (c.half h ebase).act ≠ 0 → memb h.dst.toNat u.vEmpty = true ∧
          ∃ p, SMap.find t.producers s.nextId = some p ∧ p.frame = c.fid ∧ p.unit = c.ui ∧ p.ready = true ∧ p.faulted = false ∧
            p.dests = [(.vec, h.dst.toNat)] ∧
            ∀ l ∈ (c.half h ebase).lanes, halfHolds c h ebase l ((c.u.apply p.effect).vec h.dst.toNat l))) ∧
      (∀ r l, l < 64 → r ≠ h0.dst.toNat → r ≠ h1.dst.toNat → u.vec r l = c.u.vec r l) ∧
      (∀ p, u.pred p = c.u.pred p) ∧ (∀ i n, (u.rod i).scl n = (c.u.rod i).scl n)

/-! ## Memory words (chapters 12 to 15) -/

/-- The words of row 0x8 that access memory (R246, R277 to R283), outside the pane: with no lane to act for, the word only passes;
otherwise, every check of its addresses passed, it enters the memory queue with the accesses those addresses give, in lane order, and
a word that returns a value leaves its destination empty for it. No register changes as it issues, and memory and the slices change by
its walks alone: where they read no line of a table, not at all.
The model's own readings and choices it rests on: log entries 17, 78, 110, 117 and 119. -/
def Obligations.memory_words_enter_the_queue : Prop :=
  ∀ row ∈ memRows, ∀ (s : State) (c : IssueCtx) (f : SFields), row.mayEnter s c f →
    (row.lanes c f = [] →
      ∃ t, exec (row.word f) s = .next t ∧ t.unit? c.fid c.ui = some (c.passed c.u) ∧ s.sameBut t c) ∧
    (∀ as, row.lanes c f ≠ [] → row.accesses s c f = .ok as → (∀ a ∈ as, a.pane = false) →
      ∃ t u o, exec (row.word f) s = .next t ∧ t.unit? c.fid c.ui = some u ∧
        SMap.find t.ops s.nextId = some o ∧ o.kind = row.kind ∧ o.frame = c.fid ∧ o.unit = c.ui ∧ o.pc = c.e.pc ∧
        o.scope = f.scope ∧ o.order = f.order ∧ o.op = row.op f ∧ o.acc.map LaneAccess.place = as.map LaneAccess.place ∧
        (row.kind.returns = true → ∃ p, SMap.find t.producers s.nextId = some p ∧ p.frame = c.fid ∧ p.unit = c.ui ∧ p.ready = true ∧
          p.dests = destsOf (row.form.regs f) ∧ ∀ d ∈ p.dests, d.1 = .vec → memb d.2 u.vEmpty = true) ∧
        u.frontier = (c.u.advance c.e).frontier ∧ (∀ r l, u.vec r l = c.u.vec r l) ∧ (∀ p, u.pred p = c.u.pred p) ∧
        (∀ i n, (u.rod i).scl n = (c.u.rod i).scl n) ∧
        t.mem = (row.ready s c f).mem ∧ t.cache.lines = (row.ready s c f).cache.lines ∧
        (s.walkLines c.fr.bay (wordPages (c.issue row.form f) row.elem row.index (row.bytes f) (row.width f) (row.lanes c f)) = [] →
          t.mem = s.mem ∧ t.cache.lines = s.cache.lines))

/-- The words of row 0x8 on the pane (R242, R257, R278, R279, R282, R283): with no other access of the frame outstanding and an order that
releases nothing, each access is carried out at once, accesses of the same bits one after the other in lane order: a store leaves its
data, an atomic what its operation gives, a load the bits as they were; a word that returns a value keeps for each access the bits it
found. Every other bit of the pane, the registers and memory stay.
The model's own readings and choices it rests on: log entry 17. -/
def Obligations.pane_stores_write_their_bytes : Prop :=
  ∀ row ∈ memRows, ∀ (s : State) (c : IssueCtx) (f : SFields) (as : List LaneAccess),
    row.mayEnter s c f → row.lanes c f ≠ [] → row.accesses s c f = .ok as → f.space = 1 → f.order ≤ 1 →
    (∀ p ∈ s.ops, p.2.frame ≠ c.fid) → c.u.observed = [] → panePlaces as →
    (9 ≤ row.op f → row.kind = .atomic ∨ row.kind = .reduce → ∀ a ∈ as, a.bits = 32) →
    ∃ t fr u, exec (row.word f) s = .next t ∧ t.frame? c.fid = some fr ∧ t.unit? c.fid c.ui = some u ∧
      (∀ a ∈ as, ∃ (o : MemOp) (ws : Nat → Nat), o.kind = row.kind ∧ o.op = row.op f ∧
        o.serial (as.filter a.samePane) ws (c.fr.bitsAt a) (fr.bitsAt a) ∧
        (row.kind.returns = true → SMap.find t.ops s.nextId = some o ∧ o.acc.map LaneAccess.place = as.map LaneAccess.place ∧
          (∀ b ∈ o.acc, b.done = true) ∧ ∀ n b, (o.acc.filter a.samePane)[n]? = some b → b.got.toNat = ws n)) ∧
      (row.kind.returns = false → SMap.find t.ops s.nextId = none) ∧
      (∀ k, (∀ a ∈ as, k < a.paneBit ∨ a.paneBit + a.bits ≤ k) → fr.paneBit k = c.fr.paneBit k) ∧
      (∀ r l, u.vec r l = c.u.vec r l) ∧ (∀ p, u.pred p = c.u.pred p) ∧ (∀ i n, (u.rod i).scl n = (c.u.rod i).scl n) ∧
      u.frontier = (c.u.advance c.e).frontier ∧ t.mem = s.mem ∧ t.cache.lines = s.cache.lines

/-- PF (R280): with no lane to act for or k 0 it only passes; otherwise its accesses enter the queue, those of poisoned or failing lanes
left out. CCTL.IINV and CCTL.L1INV (R281), once every address of another package has passed its home's checks (R360): the lines of the
active lanes' addresses leave the instruction caches of the scope's cores, or
the L1 of the issuing core. None of them writes a register or memory. -/
def Obligations.hints_change_no_value : Prop :=
  (∀ (s : State) (c : IssueCtx) (f : SFields),
    let x := c.issue formPf f
    let ls := memLanes formPf f x
    let pages := wordPages x false true 1 0 (ls.filter (fun l => !addrPoisoned x true l))
    let s0 := s.walkedAll c.fr.bay c.core pages
    s.wordIssues c formPf f → s.memWaits c = false → s.openLines c.fr.bay (s.walkLines c.fr.bay pages) = none →
    s0.unit? c.fid c.ui = some c.u →
    ∃ t, exec (.pf f) s = .next t ∧ t.unit? c.fid c.ui = some (c.passed c.u) ∧
      ((ls = [] ∨ f.dist = 0) → s.sameBut t c) ∧
      (ls ≠ [] → f.dist ≠ 0 → t.mem = s0.mem ∧ t.cache.lines = s0.cache.lines ∧
        (s.prefetchAccesses c x ls ≠ [] → ∃ o, SMap.find t.ops s0.nextId = some o ∧ o.kind = .fetch ∧ o.acc = s.prefetchAccesses c x ls))) ∧
  (∀ (l1 : Bool) (s : State) (c : IssueCtx) (f : SFields) (as : List LaneAccess),
    let x := c.issue formCctl f
    let ls := memLanes formCctl f x
    let pages := wordPages x false true 1 0 ls
    let s0 := s.walkedAll c.fr.bay c.core pages
    let cores : List Nat := match f.scope with
      | 0 => [c.core]
      | 1 => [c.core, c.core ^^^ 1]
      | _ => if c.fr.bay = 12 then [c.core] else (s0.bay c.fr.bay).pairs.flatMap (fun k => [2 * k, 2 * k + 1])
    s.wordIssues c formCctl f → s.memWaits c = false → s.openLines c.fr.bay (s.walkLines c.fr.bay pages) = none →
    s.wordAccesses c x (if l1 then .read else .inval) false true 1 0 (noData x) ls = .ok as →
    s0.unit? c.fid c.ui = some c.u → ls ≠ [] → (∀ a ∈ as, a.ok = true) →
    ∃ t, exec (if l1 then .cctlL1inv f else .cctlIinv f) s = .next t ∧ t.unit? c.fid c.ui = some (c.passed c.u) ∧
      t.mem = s0.mem ∧ t.cache.lines = s0.cache.lines ∧
      (∀ a ∈ as, if l1 then t.l1? c.core (s.accLine a) = none
        else ∀ core ∈ cores, SMap.find t.cache.icache (icKey core (s.accLine a)) = none))

/-- FENCE (R285, R287): once its logical rods' pending faults are delivered there stands among the unit's fences one
for each of those rods, over its lanes, with the word's order and scope, and the unit moves on; with no logical rod to act for it only passes.
The model's own readings and choices it rests on: log entries 17 and 102. -/
def Obligations.fence_orders_later_words : Prop :=
  ∀ (s : State) (c : IssueCtx) (f : SFields),
    let rods := (uniformRods c.fr.width c.u f c.e.lanes).filter
      (fun i => (takingSet c.fr.width c.u c.e.lanes &&& rodLanes c.fr.width i) != 0)
    s.wordIssues c formFence f →
    (rods = [] → ∃ t, exec (.fence f) s = .next t ∧ t.unit? c.fid c.ui = some (c.passed c.u) ∧ s.sameBut t c) ∧
    (rods ≠ [] → s.memBlocked c.fid c.ui c.e.lanes = false → s.delivery c rods = .clear →
      ∃ t, exec (.fence f) s = .next t ∧ t.unit? c.fid c.ui = some (c.passed c.u) ∧ t.mem = s.mem ∧ t.cache.lines = s.cache.lines ∧
        t.ops = s.ops ∧ ∀ k i, rods[k]? = some i → ∃ r, SMap.find t.fences (s.nextId + k) = some r ∧ r.frame = c.fid ∧ r.unit = c.ui ∧
          r.order = f.order ∧ r.scope = f.scope ∧ r.lanes = rodLanes c.fr.width i ∧ r.word = s.nextId)

/-- HOME_WRITE and HOME_READ (R252, R277, R278, R283): an operation's piece that may be carried out at its home slice, on a line that no other
package shares, changes exactly the bits its accesses cover; a store's bits are its data where only one access covers them, and the line
is dirty under a stamp past every lease granted on it. Accesses of the same bits are carried out one after the other in lane order, a
store leaving its data, an atomic what its operation gives, and one that returns keeps the bits it found. A load takes the line's bits
and leaves its data. Every other line and all of memory stay. A word with places in another package's memory waits until every line it
writes is ready, and is carried out on all of them together.
The model's own readings and choices it rests on: log entries 17, 80 and 110. -/
def Obligations.home_accesses_touch_their_bits : Prop :=
  (∀ (s : State) (id piece line : Nat) (o : MemOp) (l : L2Line),
    s.atHome true id piece line o l → s.homeWriteWaits l = false → sillSt (s.sill line) ≠ 1 → s.together o = false →
    ∃ t l', exec (.homeWrite id piece) s = .next t ∧ t.l2? line = some l' ∧ l'.dirty = true ∧ l.rts < l'.wts ∧
      (∀ b < 1024, (∀ a ∈ s.mineOf o line, ¬ a.covers b) → l'.data.getLsbD b = l.data.getLsbD b) ∧
      (o.kind = .store ∨ o.kind = .elemStore → ∀ a ∈ s.mineOf o line, ∀ j < a.bits, a.bitPos + j < 1024 →
        (∀ a' ∈ s.mineOf o line, a'.covers (a.bitPos + j) → a' = a) → l'.data.getLsbD (a.bitPos + j) = a.data.toNat.testBit j) ∧
      (o.linePlaces (s.mineOf o line) → o.kind ≠ .latch → ∀ a ∈ s.mineOf o line, ∃ ws : Nat → Nat,
        o.serial ((s.mineOf o line).filter a.sameBits) ws (a.fromLine l.data) (a.fromLine l'.data) ∧
        (o.producer.isSome = true → ∃ o', SMap.find t.ops id = some o' ∧ o'.acc.map LaneAccess.place = o.acc.map LaneAccess.place ∧
          ∀ n q, ((o'.acc.zip o.acc).filter (fun q => (s.mineOf o line).contains q.2 && a.sameBits q.2))[n]? = some q →
            q.1.done = true ∧ q.1.got.toNat = ws n)) ∧
      (∀ k, k ≠ line → t.l2? k = s.l2? k) ∧ t.mem = s.mem ∧ t.frames = s.frames) ∧
  (∀ (s : State) (id piece line : Nat) (o : MemOp) (l : L2Line), s.atHome true id piece line o l → s.together o = true →
    (∃ key ∈ s.pieces o, s.writeReady o (key - 1) = false) → exec (.homeWrite id piece) s = .next s) ∧
  (∀ (s : State) (id piece line : Nat) (o : MemOp) (l : L2Line),
    s.atHome false id piece line o l → o.kind = .load ∨ o.kind = .elemLoad → o.producer.isSome = true →
    ∃ t l' o', exec (.homeRead id piece) s = .next t ∧ t.l2? line = some l' ∧ l'.data = l.data ∧ l.rts ≤ l'.rts ∧
      SMap.find t.ops id = some o' ∧
      o'.acc = o.acc.map (fun a => if !a.pane && s.accLine a == line && !a.done then
        { a with done := true, got := BitVec.ofNat 128 (a.fromLine l.data), gotPoison := l.poison } else a) ∧
      (∀ k, k ≠ line → t.l2? k = s.l2? k) ∧ t.mem = s.mem ∧ t.frames = s.frames)

/-- LONG_LATENCY_COMPLETE (R165, R257, R278, R279, R282): a ready producer whose accesses are all performed writes what it holds and fills
its destinations; a load or an atomic puts into the registers of each of its lanes, or into the scalar register of its rod, the value
read there, a byte or a half word extended as its size says; zero, marked poisoned, where what it read was poisoned.
The model's own readings and choices it rests on: log entry 17. -/
def Obligations.producers_fill_their_destinations : Prop :=
  ∀ (s : State) (n : Nat) (p : Producer) (fr : Frame) (u : RodUnit),
    SMap.find s.producers n = some p → p.ready = true → p.faulted = false → s.frame? p.frame = some fr → fr.unit? p.unit = some u →
    (∀ k q, SMap.find s.producers k = some q → k ≠ n → q.unit = p.unit → q.frame ≠ p.frame) →
    (∀ o, SMap.find s.ops n = some o → o.unperformed = false) →
    let eff := match SMap.find s.ops n with
      | some o => if o.kind = .latch then o.latchEffect p fr.width else o.effect fr.width
      | none => p.effect
    ∃ t v, exec (.longLatencyComplete n) s = .next t ∧ t.unit? p.frame p.unit = some v ∧ SMap.find t.producers n = none ∧
      SMap.find t.ops n = none ∧ t.mem = s.mem ∧ t.cache = s.cache ∧
      (∀ r l, v.vec r l = (u.apply eff).vec r l) ∧ (∀ q, v.pred q = (u.apply eff).pred q) ∧
      (∀ i k, (v.rod i).scl k = ((u.apply eff).rod i).scl k) ∧ v.frontier = u.frontier ∧
      (∀ d ∈ p.dests, d.1 = .vec → memb d.2 v.vEmpty = false) ∧
      (∀ o reg a, SMap.find s.ops n = some o → o.kind ≠ .latch → o.dst = some (.vec, reg) → a ∈ o.acc → a.lane < 64 →
        (o.kind = .load → o.op = 1 ∨ o.op = 3 → o.size < 8) →
        let bad := o.acc.any (fun b => b.lane == a.lane && b.gotPoison)
        ∀ j < max 1 (o.size / 4), v.vecPoisoned (reg + j) a.lane = bad ∧
          v.vec (reg + j) a.lane = if bad then 0 else BitVec.ofNat 32 (o.laneGets a.lane / 2 ^ (32 * j))) ∧
      (∀ o reg a, SMap.find s.ops n = some o → o.kind ≠ .latch → o.dst = some (.scl, reg) → a ∈ o.acc → reg ≠ 0 →
        let i := rodOfLane fr.width a.lane
        i < u.rods.length → (∀ b ∈ o.acc, rodOfLane fr.width b.lane = i → b.lane = a.lane) →
        let bad := o.acc.any (fun b => b.lane == a.lane && b.gotPoison)
        (v.rod i).sclPoisoned reg = bad ∧ (v.rod i).scl reg = if bad then 0 else BitVec.ofNat 64 (o.laneGets a.lane))

/-! ## Latch words (R341 to R355) -/

/-- LINIT, LREG and LREG.D (R346, R348) on one logical rod's latch: the latch holds the values the rule gives, every other byte of the
pane stays, and nothing else of the unit changes but that its lanes go on.
The model's own readings and choices it rests on: log entries 18 and 36. -/
def Obligations.latch_setup_and_registration : Prop :=
  (∀ (s : State) (c : IssueCtx) (f : SFields) (i key : Nat),
    let x := c.issue formLinit f
    let v := (x.srcB 64 0 (x.laneOfRod i)).1
    s.wordIssues c formLinit f → x.rods = [i] → s.allDone c 0 = true → s.memBlocked c.fid c.ui c.e.lanes = false →
    latchRef c x i = .ok key → c.u.waits = [] →
    (x.srcB 64 0 (x.laneOfRod i)).2 = false → v % 2 ^ 20 ≠ 0 → v / 2 ^ 56 % 2 ^ 8 = 0 →
    ∃ t fr, exec (.linit f) s = .next t ∧ t.frame? c.fid = some fr ∧ t.unit? c.fid c.ui = some (c.passed c.u) ∧
      fr.latchAt key = { sec := v / 2 ^ 20 % 2 ^ 32, arr := v % 2 ^ 20, rld := v % 2 ^ 20, reg := 0, obs := 0, rsv := 0,
                         ph := v / 2 ^ 52 % 2 ^ 4 } ∧
      (∀ k, k < key ∨ key + 16 ≤ k → SMap.get 0 fr.paneMem k = SMap.get 0 c.fr.paneMem k) ∧ t.mem = s.mem ∧ t.cache = s.cache) ∧
  (∀ (withdraw : Bool) (s : State) (c : IssueCtx) (f : SFields) (i key : Nat),
    let l := c.fr.latchAt key
    latchAtHand s c formLreg f i key → l.rsv = 0 →
    (if withdraw then l.reg ≠ 0 ∧ l.obs ≠ 0 else l.reg ≠ 4095) →
    ∃ t fr, exec (if withdraw then .lregD f else .lreg f) s = .next t ∧ t.frame? c.fid = some fr ∧
      t.unit? c.fid c.ui = some (c.passed c.u) ∧
      fr.latchAt key = (if withdraw then { l with reg := l.reg - 1, obs := l.obs - 1 }
        else { l with reg := l.reg + 1, obs := (l.obs + 1) % 4096 }) ∧
      (∀ k, k < key ∨ key + 16 ≤ k → SMap.get 0 fr.paneMem k = SMap.get 0 c.fr.paneMem k) ∧ t.mem = s.mem ∧ t.cache = s.cache)

/-- LARR and LEXP (R343, R347) on one logical rod's latch: refused while an observer of the phase is missing or fewer arrivals are left
than are made, and then nothing changes; otherwise the counts fall, and when both reach zero the phase moves on with the arrivals
reloaded and no observer. The destination predicate is empty and will tell each lane of the rod whether the update was accepted. While an
earlier memory word of the unit is unperformed, each of the five latch words issues all the same, and its update alone waits.
The model's own readings and choices it rests on: log entry 18. -/
def Obligations.latch_updates_follow_latchupdate : Prop :=
  (∀ (expect : Bool) (s : State) (c : IssueCtx) (f : SFields) (i key : Nat),
    let x := c.issue formLarr f
    let l := c.fr.latchAt key
    let b := x.srcB 64 (if expect then f.simm else f.zimm) (x.laneOfRod i)
    let n := if expect then 0 else b.1
    let sec := if expect then (l.sec + b.1) % 2 ^ 32 else l.sec
    latchAtHand s c formLarr f i key → l.rsv = 0 → b.2 = false → (expect = false → b.1 ≠ 0 ∧ b.1 < 2 ^ 20) →
    ∃ t fr u p, exec (if expect then .lexp f else .larr f) s = .next t ∧ t.frame? c.fid = some fr ∧ t.mem = s.mem ∧ t.cache = s.cache ∧
      t.unit? c.fid c.ui = some u ∧ u.frontier = (c.u.advance c.e).frontier ∧ (f.dst ≠ 0 → memb f.dst.toNat u.pEmpty = true) ∧
      SMap.find t.producers s.nextId = some p ∧ p.frame = c.fid ∧ p.unit = c.ui ∧ p.ready = true ∧
      (∀ k, k < key ∨ key + 16 ≤ k → SMap.get 0 fr.paneMem k = SMap.get 0 c.fr.paneMem k) ∧
      (if l.obs < l.reg ∨ l.arr < n then fr.latchAt key = l
        else if l.arr = n ∧ sec = 0 then fr.latchAt key = { l with sec := 0, arr := l.rld, obs := 0, ph := (l.ph + 1) % 16 }
        else fr.latchAt key = { l with sec := sec, arr := l.arr - n }) ∧
      (f.dst ≠ 0 → ∀ j ∈ lanesOf (c.e.lanes &&& rodLanes c.fr.width i),
        ((c.u.apply p.effect).pred f.dst.toNat).getLsbD j = !(decide (l.obs < l.reg) || decide (l.arr < n)))) ∧
  (∀ row ∈ latchRows, ∀ (s : State) (c : IssueCtx) (f : SFields) (i key : Nat) (a : LatchAct),
    let x := c.issue row.form f
    s.wordIssues c row.form f → x.rods = [i] → s.memBlocked c.fid c.ui c.e.lanes = false → s.allDone c 0 = false →
    latchTodo row.act c x i = .ok (key, a) →
    ∃ t fr u o, exec (row.word f) s = .next t ∧ t.frame? c.fid = some fr ∧ fr.paneMem = c.fr.paneMem ∧ t.mem = s.mem ∧
      t.unit? c.fid c.ui = some u ∧ u.frontier = (c.u.advance c.e).frontier ∧
      (row.pred = true → f.dst ≠ 0 → memb f.dst.toNat u.pEmpty = true) ∧
      SMap.find t.ops s.nextId = some o ∧ o.kind = .latch ∧ o.frame = c.fid ∧ o.unit = c.ui ∧ o.latch = [a] ∧
      o.acc.map (fun q => (q.addr, q.size, q.pane, q.done)) = [(key, 16, true, false)])

/-- LWAIT (R349) on one logical rod's latch: where the phase named has been left and nothing is to be delivered, it returns at once: the
destination holds the phase, an observation is counted under .R, and the lanes go on. While the latch stands in the phase named, the unit
waits: its destination is empty and no lane moves; LWAIT_WAKE, once the phase has been left, ends the wait in the same way. Where the latch
has come back to the phase since a read found it left, the wait ends with that read, and no observation is counted.
The model's own readings and choices it rests on: log entries 18 and 50. -/
def Obligations.lwait_waits_for_the_phase : Prop :=
  (∀ (s : State) (c : IssueCtx) (f : SFields) (i key : Nat),
    let x := c.issue formLwait f
    let q := x.srcB 64 f.zimm (x.laneOfRod i)
    s.wordIssues c formLwait f → x.rods = [i] → latchRef c x i = .ok key → c.fr.panePoisoned key 16 = false → q.2 = false → q.1 ≤ 15 →
    (c.fr.latchAt key).rsv = 0 → (c.fr.latchAt key).ph = q.1 → i < c.u.rods.length →
    ∃ t u sn, exec (.lwait f) s = .next t ∧ t.unit? c.fid c.ui = some u ∧ t.mem = s.mem ∧ u.frontier = c.u.frontier ∧
      (f.dst ≠ 0 → memb f.dst.toNat (u.rod i).sEmpty = true) ∧
      u.waits = [{ pc := c.e.pc, rod := i, latch := key, q := some q.1, r := f.m 6 1 == 1, dst := f.dst.toNat, bar := false, seen := sn }] ∧
      (sn = .unread ∨ sn = .same) ∧
      (∀ r l, u.vec r l = c.u.vec r l) ∧ (∀ j n, (u.rod j).scl n = (c.u.rod j).scl n)) ∧
  (∀ (s : State) (c : IssueCtx) (f : SFields) (i key : Nat),
    let x := c.issue formLwait f
    let q := x.srcB 64 f.zimm (x.laneOfRod i)
    let l := c.fr.latchAt key
    s.wordIssues c formLwait f → x.rods = [i] → latchRef c x i = .ok key → c.fr.panePoisoned key 16 = false → q.2 = false → q.1 ≤ 15 →
    l.rsv = 0 → l.ph ≠ q.1 → c.fr.term = none → s.memBlocked c.fid c.ui c.e.lanes = false → c.u.halted = false → s.latchBusy c key = false →
    s.delivery c [i] = .clear → i < c.u.rods.length →
    ∃ t fr u, exec (.lwait f) s = .next t ∧ t.frame? c.fid = some fr ∧ t.unit? c.fid c.ui = some u ∧ t.mem = s.mem ∧ u.waits = [] ∧
      u.frontier = (c.u.advance c.e).frontier ∧ (f.dst ≠ 0 → ((u.rod i).scl f.dst.toNat).toNat = l.ph) ∧
      fr.latchAt key = (if f.m 6 1 = 1 ∧ l.obs < l.reg then { l with obs := l.obs + 1 } else l)) ∧
  (∀ (s : State) (c : IssueCtx) (w : LatchWait) (q : Nat),
    let m := c.fr.latchAt w.latch
    let away : Bool := !c.fr.panePoisoned w.latch 16 && m.rsv == 0 && m.ph != q
    let l := match w.seen with
      | .left v _ => if away = true then m else latchOf v
      | _ => m
    let bad := match w.seen with
      | .left _ b => b
      | _ => c.fr.panePoisoned w.latch 16
    s.waiting c.fid c.ui = some c → c.u.waits = [w] → w.bar = false → w.q = some q → w.rod < c.u.rods.length → c.fr.term = none →
    s.memBlocked c.fid c.ui c.e.lanes = false → c.u.halted = false → s.latchBusy c w.latch = false → bad = false → l.rsv = 0 → l.ph ≠ q →
    s.delivery c [w.rod] = .clear →
    ∃ t fr u, exec (.lwaitWake c.fid c.ui) s = .next t ∧ t.frame? c.fid = some fr ∧ t.unit? c.fid c.ui = some u ∧ t.mem = s.mem ∧
      u.waits = [] ∧ u.frontier = (c.u.advance c.e).frontier ∧
      (w.dst ≠ 0 → ((u.rod w.rod).scl w.dst).toNat = l.ph) ∧
      fr.latchAt w.latch = (if away = true ∧ w.r = true ∧ m.obs < m.reg then { m with obs := m.obs + 1 } else m))

/-- BAR (R350) on one logical rod's latch: with nothing to be delivered, its arrival is made by LatchUpdate with one arrival; where that
ends the phase the word returns with the new phase in its destination, else the unit waits for it, with the phase it arrived in. A refused arrival changes neither the latch nor any other byte of the pane, and the unit waits with its destination
empty; BAR_RETRY makes it once the latch accepts it, and changes nothing while it does not.
The model's own readings and choices it rests on: log entries 18 and 50. -/
def Obligations.bar_arrives_and_waits : Prop :=
  (∀ (s : State) (c : IssueCtx) (f : SFields) (i key : Nat) (l' : LatchVal),
    let x := c.issue formBar f
    let l := c.fr.latchAt key
    latchAtHand s c formBar f i key → s.delivery c x.rods = .clear → l.update 1 0 = .accepted l' → l'.ph = l.ph →
    ∃ t fr u sn, exec (.bar f) s = .next t ∧ t.frame? c.fid = some fr ∧ t.unit? c.fid c.ui = some u ∧ t.mem = s.mem ∧
      fr.latchAt key = l' ∧ u.frontier = c.u.frontier ∧ (sn = .unread ∨ sn = .same) ∧
      u.waits = [{ pc := c.e.pc, rod := i, latch := key, q := some l.ph, r := f.m 6 1 == 1, dst := f.dst.toNat, bar := true, seen := sn }]) ∧
  (∀ (s : State) (c : IssueCtx) (f : SFields) (i key : Nat) (l' : LatchVal),
    let x := c.issue formBar f
    let l := c.fr.latchAt key
    latchAtHand s c formBar f i key → s.delivery c x.rods = .clear → l.update 1 0 = .accepted l' → l'.ph ≠ l.ph → c.fr.term = none →
    s.memBlocked c.fid c.ui c.e.lanes = false → c.u.halted = false → s.latchBusy c key = false → i < c.u.rods.length →
    ∃ t fr u, exec (.bar f) s = .next t ∧ t.frame? c.fid = some fr ∧ t.unit? c.fid c.ui = some u ∧ t.mem = s.mem ∧ u.waits = [] ∧
      u.frontier = (c.u.advance c.e).frontier ∧ (f.dst ≠ 0 → ((u.rod i).scl f.dst.toNat).toNat = l'.ph) ∧
      fr.latchAt key = (if f.m 6 1 = 1 ∧ l'.obs < l'.reg then { l' with obs := l'.obs + 1 } else l')) ∧
  (∀ (s : State) (c : IssueCtx) (f : SFields) (i key : Nat),
    let x := c.issue formBar f
    latchAtHand s c formBar f i key → s.delivery c x.rods = .clear → (c.fr.latchAt key).update 1 0 = .refused → i < c.u.rods.length →
    ∃ t fr u, exec (.bar f) s = .next t ∧ t.frame? c.fid = some fr ∧ t.unit? c.fid c.ui = some u ∧ t.mem = s.mem ∧ t.cache = s.cache ∧
      fr.latchAt key = c.fr.latchAt key ∧ fr.paneMem = c.fr.paneMem ∧ fr.panePoison = c.fr.panePoison ∧ u.frontier = c.u.frontier ∧
      (f.dst ≠ 0 → memb f.dst.toNat (u.rod i).sEmpty = true) ∧
      u.waits = [{ pc := c.e.pc, rod := i, latch := key, q := none, r := f.m 6 1 == 1, dst := f.dst.toNat, bar := true }]) ∧
  (∀ (s : State) (c : IssueCtx) (w : LatchWait), s.waiting c.fid c.ui = some c → c.u.waits = [w] → w.bar = true → w.q = none →
    c.fr.term = none → c.u.halted = false → s.latchBusy c w.latch = false → c.fr.panePoisoned w.latch 16 = false →
    (c.fr.latchAt w.latch).update 1 0 = .refused →
    ∃ t fr u, exec (.barRetry c.fid c.ui) s = .next t ∧ t.frame? c.fid = some fr ∧ t.unit? c.fid c.ui = some u ∧ t.mem = s.mem ∧
      fr.paneMem = c.fr.paneMem ∧ u.waits = [w] ∧ u.frontier = c.u.frontier) ∧
  (∀ (s : State) (c : IssueCtx) (w : LatchWait) (l' : LatchVal),
    let l := c.fr.latchAt w.latch
    s.waiting c.fid c.ui = some c → c.u.waits = [w] → w.bar = true → w.q = none → c.fr.term = none → c.u.halted = false → s.latchBusy c w.latch = false →
    c.fr.panePoisoned w.latch 16 = false → l.update 1 0 = .accepted l' →
    ∃ t fr u, exec (.barRetry c.fid c.ui) s = .next t ∧ t.frame? c.fid = some fr ∧ t.unit? c.fid c.ui = some u ∧ t.mem = s.mem ∧
      fr.latchAt w.latch = l' ∧ u.waits = [fr.judged true { w with q := some l.ph }] ∧ u.frontier = c.u.frontier)

/-! ## Matrix words and jobs (chapters 16 and 17) -/

/-- The words of row 0xA but TFETCH (R306, R307, R310, R312, R314, R317 to R319): once its logical rods have converged, its operands pass the
checks its rule lists and there is room, the word takes its place at the end of its core's queue with the tile, the operands and the
rows it names, a job with it where R312 makes it one; AMOV.TOV leaves its registers empty. No byte of memory changes where it walks no
table, and every lane goes to the next word.
The model's own readings and choices it rests on: log entries 18, 51, 52 and 116. -/
def Obligations.matrix_words_enter_the_queue : Prop :=
  (∀ row ∈ matRows, ∀ (s : State) (c : IssueCtx) (f : SFields) (s' : State) (i : Nat),
    let x := c.issue row.form f
    let s0 := s'.walkedAll c.fr.bay c.core (x.rods.flatMap (row.pages x))
    row.mayQueue s c f s' → x.rods = [i] → s0.unit? c.fid c.ui = s'.unit? c.fid c.ui →
    ∃ t, exec (row.word f) s = .next t ∧ row.queued s c x i t ∧ t.mem = s0.mem ∧ t.cache = s0.cache) ∧
  (∀ row ∈ matRows, ∀ (s : State) (c : IssueCtx) (f : SFields) (i : Nat),
    let x := c.issue row.form f
    s.wordIssues c row.form f → x.rods = [i] → collectiveOk c x = true → s.engineStopped c.core = false →
    s.openLines c.fr.bay (s.walkLines c.fr.bay (row.pages x i)) = none → s.walksKeep c.fr.bay c.core (row.pages x i) →
    row.tile x < c.fr.board → row.sound s c x i → s.queueRoom c.core 1 = true → (row.job = true → s.shutterRoom c.core 1 = true) →
    ∃ t, exec (row.word f) s = .next t ∧ row.queued s c x i t ∧ (row.pages x i = [] → t.mem = s.mem ∧ t.cache = s.cache))

/-- TFETCH (R315): with a fetch entry of the core free, the entry of its logical rod that the word names is set to the rows at base and
stride with its count of uses, and the fetch takes its place in the core's queue.
The model's own readings and choices it rests on: log entries 51 and 53. -/
def Obligations.tfetch_sets_a_fetch_entry : Prop :=
  (∀ (s : State) (c : IssueCtx) (f : SFields) (s' : State) (i : Nat),
    let x := c.issue formTfetch f
    let ps := x.rods.flatMap (stridePages (fun _ => 64) x)
    let s0 := s'.walkedAll c.fr.bay c.core ps
    s.wordIssues c formTfetch f → collectiveOk c x = true → s.engineStopped c.core = false → s.openLines c.fr.bay (s.walkLines c.fr.bay ps) = none →
    issueRods (tfetchRod c x) s x.rods = .ok s' → s.queueRoom c.core x.rods.length = true → x.rods = [i] → s'.holdsOf c.core ≤ 16 →
    s0.unit? c.fid c.ui = s'.unit? c.fid c.ui →
    ∃ t, exec (.tfetch f) s = .next t ∧ fetchSet c f i t ∧ t.mem = s0.mem) ∧
  (∀ (s : State) (c : IssueCtx) (f : SFields) (i : Nat),
    let x := c.issue formTfetch f
    let base := x.srcA 64 (x.laneOfRod i)
    let stride := x.srcB 64 0 (x.laneOfRod i)
    s.wordIssues c formTfetch f → x.rods = [i] → collectiveOk c x = true → s.engineStopped c.core = false →
    s.openLines c.fr.bay (s.walkLines c.fr.bay (stridePages (fun _ => 64) x i)) = none → s.walksKeep c.fr.bay c.core (stridePages (fun _ => 64) x i) →
    base.2 = false → stride.2 = false → base.1 % 64 = 0 → stride.1 % 64 = 0 → stride.1 < 2 ^ 32 →
    s.rowsReach c false [.read] base.1 stride.1 64 → s.queueRoom c.core 1 = true → s.holdsOf c.core < 16 →
    ∃ t, exec (.tfetch f) s = .next t ∧ fetchSet c f i t)

/-- MATRIX_OP_START and MATRIX_OP_COMPLETE (R305, R311, R318): the head of a core's queue starts once the shutter lets it go and the lines it reads
are present; performed, ACLR puts its value into every element of its tile, AMOV.TOB the values read at issue, AMOV.TOV fills its
registers with the tile's elements in the active lanes; no other tile element changes, and the operation leaves the queue. ALD puts the
words of its rows into the tile, once they are read in the pane or, run by run, from their lines; a line that is refused ends it with a
trap that comes late (R360, R382). DRAIN leaves the queue as a job that holds the tile's elements, and TFETCH leaves its entry waiting for
the lines of its rows (R315, R319).
The model's own readings and choices it rests on: log entry 16. -/
def Obligations.matrix_operations_are_performed_in_order : Prop :=
  (∀ (s : State) (core id : Nat) (o : MatOp), s.matHead core = some (id, o) →
    (∀ jid j, o.job = some jid → SMap.find s.jobs jid = some j → s.jobFree jid j = true) →
    (∀ h ∈ o.holds, ∀ x, SMap.find s.holds h = some x → x.performed = true ∧ x.waiting = []) →
    exec (.matrixOpStart core) s = .next { s with matq := s.matq.put id { o with started := true } }) ∧
  (∀ (s : State) (core id : Nat) (o : MatOp) (fr : Frame) (vals : Nat → BitVec 32 × Bool), s.matHead core = some (id, o) → o.started = true →
    s.frame? o.frame = some fr → o.job = none → o.holds = [] →
    ((∃ v p, o.kind = .aclr v p ∧ ∀ e < 1024, vals e = (v, p)) ∨
      (∃ vs, o.kind = .amovTob vs ∧ vs.length = 1024 ∧ ∀ e < 1024, vs[e]? = some (vals e))) →
    ∃ t fr', exec (.matrixOpComplete core) s = .next t ∧ t.frame? o.frame = some fr' ∧ t.mem = s.mem ∧ t.cache = s.cache ∧
      SMap.find t.matq id = none ∧
      (∀ e < 1024, fr'.tileElem o.side o.tile e = vals e) ∧
      (∀ side tile e, e < 1024 → tile < 64 → o.tile < 64 → (side, tile) ≠ (o.side, o.tile) →
        fr'.tileElem side tile e = fr.tileElem side tile e)) ∧
  (∀ (s : State) (core id n reg : Nat) (lanes : BitVec 64) (o : MatOp) (fr : Frame) (u : RodUnit) (p : Producer), s.matHead core = some (id, o) →
    o.started = true → o.kind = .amovTov n reg lanes → o.job = none → o.holds = [] → s.frame? o.frame = some fr → fr.unit? o.unit = some u →
    SMap.find s.producers n = some p → p.frame = o.frame → p.unit = o.unit → p.faulted = false → fr.width ≠ 0 → fr.width ≤ 64 → o.rod < 64 / fr.width →
    ∃ t v, exec (.matrixOpComplete core) s = .next t ∧ t.unit? o.frame o.unit = some v ∧ t.mem = s.mem ∧ SMap.find t.producers n = none ∧
      ∀ e < 1024, let l := unitLane fr.width o.rod (e % fr.width)
        lanes.getLsbD l = true →
          v.vec (reg + e / fr.width) l = (fr.tileElem o.side o.tile e).1 ∧
          v.vecPoisoned (reg + e / fr.width) l = (fr.tileElem o.side o.tile e).2) ∧
  (∀ (s : State) (core id : Nat) (o : MatOp) (fr : Frame) (rows : List (List RowRun)) (off : Nat → Nat), s.matHead core = some (id, o) →
    o.started = true → o.kind = .ald true rows → s.frame? o.frame = some fr → rows.length = 32 →
    (∀ r < 32, off r % 16 = 0 ∧ ∃ q, rows[r]? = some [q] ∧ q.n = 128 ∧ q.off = off r) →
    ∃ t fr', exec (.matrixOpComplete core) s = .next t ∧ t.frame? o.frame = some fr' ∧ s.matLeft id o t ∧
      ∀ e < 1024, let a := off (e / 32) + 4 * (e % 32)
        fr'.tileElem o.side o.tile e = if memb (a / 4) fr.panePoison = true then (0, true) else (BitVec.ofNat 32 (fr.paneRead a 4), false)) ∧
  (∀ (s : State) (core id : Nat) (o : MatOp) (fr : Frame) (rows : List (List RowRun)) (data : List PByte), s.matHead core = some (id, o) →
    o.started = true → o.kind = .ald false rows → s.frame? o.frame = some fr → data.length = 4096 →
    (s.rowsRead o ∧ data = o.data ∨
      ∃ q, runsLeft rows.flatten o.data.length = [q] ∧ s.rowsDenied fr.bay false [[q]] = none ∧
        s.linesOpen fr.bay o.k false [(q.line, q.key)] = none ∧
        let l := s.lineNow q.key q.line
        data = o.data ++ (toBytes q.n (lineBytes l.1 q.off q.n)).map (fun b => clean b l.2)) →
    ∃ t fr', exec (.matrixOpComplete core) s = .next t ∧ t.frame? o.frame = some fr' ∧ SMap.find t.matq id = none ∧
      ∀ e < 1024, let bs := (data.drop (4 * e)).take 4
        fr'.tileElem o.side o.tile e =
          if bs.any (·.2) = true then (0, true) else (BitVec.ofNat 32 (ofBytes (bs.map (·.1))), false)) ∧
  (∀ (s : State) (core id k : Nat) (va : BitVec 64) (o : MatOp) (fr : Frame) (u : RodUnit) (rows : List (List RowRun)) (q : RowRun)
      (qs : List RowRun), s.matHead core = some (id, o) → o.started = true → o.kind = .ald false rows → s.frame? o.frame = some fr →
    fr.unit? o.unit = some u → runsLeft rows.flatten o.data.length = q :: qs → s.rowsDenied fr.bay false [[q]] = some (k, va) →
    ∃ t fr' v, exec (.matrixOpComplete core) s = .next t ∧ t.frame? o.frame = some fr' ∧ fr'.unit? o.unit = some v ∧ s.matLeft id o t ∧
      fr'.tiles = fr.tiles ∧ ∃ tr, v.late = u.late ++ [tr] ∧ tr.cause = k ∧ tr.taddr = va ∧ tr.lane = some o.lane ∧ tr.widx = some o.pc) ∧
  (∀ (s : State) (core id jid : Nat) (o : MatOp) (fr : Frame) (d : DrainCtl) (j : Job), s.matHead core = some (id, o) → o.started = true →
    o.kind = .drain d → s.frame? o.frame = some fr → o.job = some jid → SMap.find s.jobs jid = some j →
    ∃ t, exec (.matrixOpComplete core) s = .next t ∧ SMap.find t.matq id = none ∧ t.frames = s.frames ∧ t.mem = s.mem ∧ t.cache = s.cache ∧
      SMap.find t.jobs jid =
        some { j with kind := .drain d ((List.range 1024).map (fr.tileElem o.side o.tile)), started := true }) ∧
  (∀ (s : State) (core id h : Nat) (o : MatOp) (fr : Frame) (x : FetchHold), s.matHead core = some (id, o) → o.started = true →
    o.kind = .tfetch h → s.frame? o.frame = some fr → o.job = none → SMap.find s.holds h = some x →
    ∃ t, exec (.matrixOpComplete core) s = .next t ∧ SMap.find t.matq id = none ∧ t.frames = s.frames ∧ t.mem = s.mem ∧ t.cache = s.cache ∧
      SMap.find t.holds h = some { x with performed := true, waiting := rowLines x.rows })

/-- MMA and SUMS performed (R184, R309, R314, R317). MMA on the integer path, with both operands in the pane and of integer formats: every
element of the tile gains the sum of products of a row of A and a row of B, wrapping at 32 bits, or is that sum under .Z. MMA on the float
path: every element becomes RowSum of R184 over the exact products, with the block scales and the scales of TSC (R308); it is marked as
poisoned by its old self, its row of A and its row of B (R257). SUMS.R has z for every element of B, and SUMS.C for every element of A.
The model's own readings and choices it rests on: log entries 16 and 97. -/
def Obligations.integer_mma_adds_exact_products : Prop :=
  (∀ (s : State) (core id : Nat) (o : MatOp) (fr : Frame) (a b : BlockRef) (fa fb : Binding) (zero : Bool),
    s.matHead core = some (id, o) → o.started = true → o.kind = .mma a b fa fb zero → a.hold = none → b.hold = none →
    a.scl = none → b.scl = none → o.holds = [] → s.frame? o.frame = some fr → intPath fa fb = true → o.tile < 64 →
    let k := min (kDepth fa.width) (kDepth fb.width)
    let val (f : Binding) (r : List PByte × List PByte) (j : Nat) : XVal := f.decode ((elemsOf f.width r.1 k)[j]?.getD (0, false)).1
    let ra := s.blockRows o.frame a []
    let rb := s.blockRows o.frame b []
    ∃ t fr', exec (.matrixOpComplete core) s = .next t ∧ t.frame? o.frame = some fr' ∧ SMap.find t.matq id = none ∧ t.mem = s.mem ∧
      ∀ i < 32, ∀ j < 32,
        ((fr'.tileElem o.side o.tile (32 * i + j)).1.toNat : Int) =
          ((if zero then 0 else ((fr.tileElem o.side o.tile (32 * i + j)).1.toNat : Int)) +
            ((List.range k).map (fun n => intOf ((val fa (ra[i]?.getD ([], [])) n).mul (val fb (rb[j]?.getD ([], [])) n)).1)).sum) % 2 ^ 32) ∧
  (∀ (s : State) (core id : Nat) (o : MatOp) (fr : Frame) (a b : BlockRef) (fa fb : Binding) (zero : Bool),
    s.matHead core = some (id, o) → o.started = true → o.kind = .mma a b fa fb zero → s.rowsRead o → s.frame? o.frame = some fr →
    intPath fa fb = false → fa.proper → fb.proper → o.tile < 64 →
    let k := min (kDepth fa.width) (kDepth fb.width)
    let ra := s.blockRows o.frame a (o.fetched a)
    let rb := s.blockRows o.frame b (o.fetched b)
    ∃ t fr', exec (.matrixOpComplete core) s = .next t ∧ t.frame? o.frame = some fr' ∧ s.matLeft id o t ∧
      ∀ i < 32, ∀ j < 32,
        let old := if zero then (0, false) else fr.tileElem o.side o.tile (32 * i + j)
        let new := fr'.tileElem o.side o.tile (32 * i + j)
        let x := ra[i]?.getD ([], [])
        let y := rb[j]?.getD ([], [])
        new.2 = (old.2 || rowMarked fa x a.koff k || rowMarked fb y b.koff k) ∧
        rowSumHolds old.1 ((List.range k).map (fun n =>
          (rowExt fa x a.koff (field o.tsc.toNat 0 8) k n).mul (rowExt fb y b.koff (field o.tsc.toNat 8 8) k n))) new.1) ∧
  ∀ (s : State) (core id : Nat) (o : MatOp) (fr : Frame) (col : Bool) (a : BlockRef) (fa : Binding) (z : BitVec 32) (zp : Bool),
    s.matHead core = some (id, o) → o.started = true → o.kind = .sums col a fa z zp → s.rowsRead o → s.frame? o.frame = some fr →
    o.tile < 64 → (intPath fa fa = true → a.scl = none) → (intPath fa fa = false → fa.proper) →
    let k := kDepth fa.width
    let ra := s.blockRows o.frame a (o.fetched a)
    ∃ t fr', exec (.matrixOpComplete core) s = .next t ∧ t.frame? o.frame = some fr' ∧ s.matLeft id o t ∧
      ∀ i < 32, ∀ j < 32,
        let old := fr.tileElem o.side o.tile (32 * i + j)
        let new := fr'.tileElem o.side o.tile (32 * i + j)
        let x := ra[if col then j else i]?.getD ([], [])
        new.2 = (old.2 || rowMarked fa x a.koff k || zp) ∧
        (intPath fa fa = true → (new.1.toNat : Int) =
          ((old.1.toNat : Int) + ((List.range k).map (fun n => intOf ((rowElem fa x k n).mul (Binding.int32.decode z.toNat)).1)).sum) % 2 ^ 32) ∧
        (intPath fa fa = false → rowSumHolds old.1 ((List.range k).map (fun n =>
          (rowExt fa x a.koff (field o.tsc.toNat (if col then 8 else 0) 8) k n).mul (fpExt z.toNat))) new.1)

/-- COPY, GATHER and SCATTER (R326, R330 to R333): the checks passed and a place free in the shutter, a job stands there with the kind, the
windows and the latch its descriptor gives, and the unit moves on; with no logical rod to act for the word only passes.
The model's own readings and choices it rests on: log entry 54. -/
def Obligations.job_words_take_a_place : Prop :=
  ∀ (w : JobWord) (s : State) (c : IssueCtx) (f : SFields) (ps : List (Nat × JobPlan)),
    let x := c.issue formJob f
    let rods := jobRods c x
    let i : Instr := match w with
      | .copy => .copy f
      | .gather => .gather f
      | .scatter => .scatter f
    s.wordIssues c formJob f →
    (rods = [] → ∃ t, exec i s = .next t ∧ t.unit? c.fid c.ui = some (c.passed c.u) ∧ s.sameBut t c) ∧
    (rods ≠ [] → (∀ j ∈ rods, ∀ key, paneKey c.fr c.u.side (x.srcA 64 (x.laneOfRod j)).1 128 1 = .ok key → s.paneBusy c key 128 = false) →
      s.jobPlans w c x rods = .ok ps → s.shutterRoom c.core ps.length = true →
      ∃ t u, exec i s = .next t ∧ t.unit? c.fid c.ui = some u ∧ u.frontier = (c.u.advance c.e).frontier ∧ u.transom = none ∧
        (∀ r l, u.vec r l = c.u.vec r l) ∧ (∀ p, u.pred p = c.u.pred p) ∧ (∀ j n, (u.rod j).scl n = (c.u.rod j).scl n) ∧
        t.mem = s.mem ∧ t.cache = s.cache ∧ ps.map (·.1) = rods ∧
        ∀ n < ps.length, ∃ j, SMap.find t.jobs (s.nextId + n) = some j ∧ j.frame = c.fid ∧ j.unit = c.ui ∧ j.core = c.core ∧
          j.pc = c.e.pc ∧ j.started = false ∧ j.finished = false ∧
          (ps[n]?).map (fun p => (p.1, p.2.kind, p.2.reads, p.2.writes, p.2.latch)) = some (j.rod, j.kind, j.reads, j.writes, j.latch))

/-- JOB_START (R329) and JOB_COMPLETE of a plain COPY between windows of the pane (R334): a job starts once no earlier job of its frame that it
meets is unfinished and every write its threads had observed is performed; complete, each byte of its write window is the byte in the
same place of the order of its read window, every other byte of the pane and all of memory stay, and the job leaves its place or goes
on to its arrival. A converting COPY writes the elements that R182 and R179 give. GATHER puts the table's element each index names in the
place of the index; SCATTER puts each element in the place its index names, the last such element standing; the first index beyond the
table ends either with a fault record of cause 0x386, the elements before it moved (R335, R338). LATCH_ARRIVAL (R337, R343): the arrival, accepted by its latch, updates it by one arrival and the job's sectors; a
refused one changes nothing.
The model's own readings and choices it rests on: log entry 16. -/
def Obligations.jobs_copy_and_arrive : Prop :=
  ((∀ (s : State) (id : Nat) (j : Job), SMap.find s.jobs id = some j → j.kind ≠ .matrix → s.jobFree id j = true →
    exec (.jobStart id) s = .next { s with jobs := s.jobs.put id { j with started := true } }) ∧
  (∀ (s : State) (id : Nat) (j : Job) (fr : Frame) (r w : Window),
    SMap.find s.jobs id = some j → j.started = true → j.finished = false → j.kind = .copyPlain → j.reads = [r] → j.writes = [w] →
    j.prog = {} → s.frame? j.frame = some fr → r.pane = true → w.pane = true → r.len ≠ 0 → w.len ≠ 0 → r.bytes = w.bytes →
    (∀ n < r.bytes, memb (paneAt j.side (r.byteAt n) / 4) fr.panePoison = false) →
    (∀ m < w.bytes, ∀ n < w.bytes, paneAt j.side (w.byteAt m) = paneAt j.side (w.byteAt n) → m = n) →
    (∀ m < w.bytes, ∀ n < r.bytes, paneAt j.side (w.byteAt m) ≠ paneAt j.side (r.byteAt n)) →
    ∃ t fr', exec (.jobComplete id) s = .next t ∧ t.frame? j.frame = some fr' ∧ t.mem = s.mem ∧ t.cache = s.cache ∧
      (∀ n < w.bytes, SMap.get 0 fr'.paneMem (paneAt j.side (w.byteAt n)) = SMap.get 0 fr.paneMem (paneAt j.side (r.byteAt n))) ∧
      (∀ k, (∀ n < w.bytes, paneAt j.side (w.byteAt n) ≠ k) → SMap.get 0 fr'.paneMem k = SMap.get 0 fr.paneMem k) ∧
      SMap.find t.jobs id = if j.latch.isSome = true then some { j with finished := true } else none) ∧
  (∀ (s : State) (id rm : Nat) (j : Job) (fr : Frame) (r w : Window) (fa fd : Binding) (sat : Bool) (scale : BitVec 32),
    SMap.find s.jobs id = some j → j.begins → j.kind = .copyConvert fa fd rm sat scale → j.reads = [r] → j.writes = [w] →
    s.frame? j.frame = some fr → fr.readsClean j.side r → w.writesApart j.side [r] → 0 < fa.width → 0 < fd.width →
    r.bytes * 8 % fa.width = 0 → w.bytes * 8 = r.bytes * 8 / fa.width * fd.width →
    ∃ t fr', exec (.jobComplete id) s = .next t ∧ s.jobLeft id j t fr' ∧
      (∀ n < r.bytes * 8 / fa.width,
        let x := (scaledExact (fa.decode (fr.windowElem j.side r fa.width n))
          (if scale = 0 then .fin false 1 1 0 else fp32.decode scale.toNat)).1
        fr'.windowElem j.side w fd.width n = (fd.round rm sat (srBits j.seed 0 (n % 2 ^ 32)) x).1 % 2 ^ fd.width) ∧
      (∀ k, (∀ n < w.bytes, paneAt j.side (w.byteAt n) ≠ k) → SMap.get 0 fr'.paneMem k = SMap.get 0 fr.paneMem k)) ∧
  (∀ (s : State) (id e m : Nat) (j : Job) (fr : Frame) (idx table w : Window),
    SMap.find s.jobs id = some j → j.begins → j.kind = .gather e → j.reads = [idx, table] → j.writes = [w] →
    s.frame? j.frame = some fr → fr.readsClean j.side idx → fr.readsClean j.side table → w.writesApart j.side [idx, table] →
    idx.bytes % 4 = 0 → w.bytes = idx.bytes / 4 * 2 ^ e → table.bytes % 2 ^ e = 0 →
    let i (n : Nat) : Nat := fr.windowElem j.side idx 32 n
    m ≤ idx.bytes / 4 → (∀ n < m, i n < table.bytes / 2 ^ e) → (m < idx.bytes / 4 → table.bytes / 2 ^ e ≤ i m) →
    ∃ t fr', exec (.jobComplete id) s = .next t ∧ s.jobLeft id j t fr' ∧
      (∀ n < m, ∀ b < 2 ^ e, fr'.windowByte j.side w (n * 2 ^ e + b) = fr.windowByte j.side table (i n * 2 ^ e + b)) ∧
      (∀ k, (∀ n < m * 2 ^ e, paneAt j.side (w.byteAt n) ≠ k) → SMap.get 0 fr'.paneMem k = SMap.get 0 fr.paneMem k) ∧
      ∀ u, fr.unit? j.unit = some u → (u.rod j.rod).jobFault = none → m < idx.bytes / 4 → j.rod < u.rods.length → ∃ v, fr'.unit? j.unit = some v ∧
        (v.rod j.rod).jobFault = some { inner := 0x386, widx := j.pc, value := BitVec.ofNat 64 m, more := false }) ∧
  (∀ (s : State) (id e m : Nat) (j : Job) (fr : Frame) (src idx table : Window),
    SMap.find s.jobs id = some j → j.begins → j.kind = .scatter e → j.reads = [src, idx] → j.writes = [table] →
    s.frame? j.frame = some fr → fr.readsClean j.side idx → fr.readsClean j.side src → table.writesApart j.side [src, idx] →
    idx.bytes % 4 = 0 → src.bytes = idx.bytes / 4 * 2 ^ e → table.bytes % 2 ^ e = 0 →
    let i (n : Nat) : Nat := fr.windowElem j.side idx 32 n
    m ≤ idx.bytes / 4 → (∀ n < m, i n < table.bytes / 2 ^ e) → (m < idx.bytes / 4 → table.bytes / 2 ^ e ≤ i m) →
    ∃ t fr', exec (.jobComplete id) s = .next t ∧ s.jobLeft id j t fr' ∧
      (∀ n < m, (∀ n' < m, n < n' → i n' ≠ i n) → ∀ b < 2 ^ e,
        fr'.windowByte j.side table (i n * 2 ^ e + b) = fr.windowByte j.side src (n * 2 ^ e + b)) ∧
      (∀ k, (∀ n < m, ∀ b < 2 ^ e, paneAt j.side (table.byteAt (i n * 2 ^ e + b)) ≠ k) →
        SMap.get 0 fr'.paneMem k = SMap.get 0 fr.paneMem k) ∧
      ∀ u, fr.unit? j.unit = some u → (u.rod j.rod).jobFault = none → m < idx.bytes / 4 → j.rod < u.rods.length → ∃ v, fr'.unit? j.unit = some v ∧
        (v.rod j.rod).jobFault = some { inner := 0x386, widx := j.pc, value := BitVec.ofNat 64 m, more := false })) ∧
  (∀ (s : State) (id key : Nat) (j : Job) (fr : Frame), SMap.find s.jobs id = some j → j.finished = true → j.latch = some key →
    s.frame? j.frame = some fr → fr.panePoisoned key 16 = false →
    ((fr.latchAt key).update 1 j.sectors = .refused → exec (.latchArrival id) s = .next s) ∧
    (∀ l', (fr.latchAt key).update 1 j.sectors = .accepted l' →
      ∃ t fr', exec (.latchArrival id) s = .next t ∧ t.frame? j.frame = some fr' ∧ fr'.latchAt key = l' ∧ SMap.find t.jobs id = none ∧
        t.mem = s.mem ∧ t.cache = s.cache ∧
        (∀ k, k < key ∨ key + 16 ≤ k → SMap.get 0 fr'.paneMem k = SMap.get 0 fr.paneMem k)))

/-! ## System words (chapter 22) -/

/-- Every system word that returns a status or a value (R393, R394): while an earlier memory word of its unit is unperformed, or an earlier
word on the bay it names is not done, it stays selected and nothing else changes; with no logical rod to act for it only passes.
The model's own readings and choices it rests on: log entry 18. -/
def Obligations.system_words_wait_and_pass : Prop :=
  (∀ row ∈ levelOneRows ++ bayRows ++ packageRows ++ retireRows, ∀ (s : State) (c : IssueCtx) (f : SFields),
    s.wordIssues c row.form f →
    ((c.issue row.form f).rods = [] → ∃ t, exec (row.word f) s = .next t ∧ t.unit? c.fid c.ui = some (c.passed c.u) ∧ s.sameBut t c) ∧
    ((c.issue row.form f).rods ≠ [] → s.allDone c 2 = false → exec (row.word f) s = .next (s.waitWord c)) ∧
    (poisonedRod row.form (c.issue row.form f) = none →
      (∃ i ∈ (c.issue row.form f).rods, ∃ b, row.bay c (c.issue row.form f) i = some b ∧ ¬ s.bayWordsDone row.resets b) →
      exec (row.word f) s = .next (s.waitWord c))) ∧
  (∀ q ∈ [(Instr.imgsub, formSelAB), (Instr.preempt, formStewFlag), (Instr.movpRead, formMovpRead)], ∀ (s : State) (c : IssueCtx) (f : SFields),
    let x := c.issue q.2 f
    s.wordIssues c q.2 f →
    (x.rods = [] → ∃ t, exec (q.1 f) s = .next t ∧ t.unit? c.fid c.ui = some (c.passed c.u) ∧ s.sameBut t c) ∧
    (x.rods ≠ [] → s.allDone c 2 = false → exec (q.1 f) s = .next (s.waitWord c))) ∧
  (∀ (s : State) (c : IssueCtx) (f : SFields), s.wordIssues c formSelAB f → poisonedRod formSelAB (c.issue formSelAB f) = none →
    (c.issue formSelAB f).rods ≠ [] → (∃ b, namedBay c (c.issue formSelAB f) = some b ∧ ¬ s.bayWordsDone false b) →
    exec (.imgsub f) s = .next (s.waitWord c)) ∧
  (∀ (s : State) (c : IssueCtx) (f : SFields), s.wordIssues c formStewFlag f → poisonedRod formStewFlag (c.issue formStewFlag f) = none →
    (∃ i ∈ (c.issue formStewFlag f).rods, ¬ s.bayWordsDone false ((c.issue formStewFlag f).opA i)) →
    exec (.preempt f) s = .next (s.waitWord c))

/-- The system words that return a status or a value (R393, R396, R398 to R403, with the rules of what they act on): each does what the rules give
for its operands, its level and the state, and returns that status or value into sD, or refuses with the status R396 gives and changes
nothing else.
The model's own readings and choices it rests on: log entries 18, 39, 59, 60, 65, 76 and 101. -/
def Obligations.system_words_reply : Prop :=
  ∀ row ∈ levelOneRows ++ bayRows ++ packageRows ++ retireRows, ∀ (s : State) (c : IssueCtx) (f : SFields) (i : Nat) (bs : List Byte) (s1 : State),
    row.acts s c f i bs s1 → (row.reply c (c.issue row.form f) i bs s1).2.unit? c.fid c.ui = some c.u →
    ∃ t, exec (row.word f) s = .next t ∧ row.replies s1 c f i bs t

/-- What the accepted bay words leave of the bay (R94, R400): BAYCFG makes it CONFIGURED under its new block, BAYST.RSV RESERVED with
its cursors and CRED at zero, BAYST.UNR CONFIGURED, BAYST.REL FREE with nothing of its block, images, keys, root and refusals left. OWNSET's entries (R248, R249, R402): every address of its range has
the new entry and every other the old one; where no line of another key had to be written back, memory is as it was.
The model's own readings and choices it rests on: log entries 18, 67, 100 and 101. -/
def Obligations.bay_states_and_owners_follow_their_words : Prop :=
  (∀ (s : State) (b : Nat) (ws : List (BitVec 64)), b < 12 → s.bays.length = 13 →
    (((s.configure b ws).bay b).state = .configured ∧ ((s.configure b ws).bay b).block = ws) ∧
    (let y := (s.reserve b).bay b;
      y.state = .reserved ∧ y.cursor = 0 ∧ y.pairCursor = 0 ∧ y.cred = 0 ∧ y.block = (s.bay b).block ∧ y.stopped = false) ∧
    (let y := ((((s.modBay b (fun y => { y with state := .configured, running := false })).deadLines b).stopTurns (s.bay b).group).bay b);
      y.state = .configured ∧ y.block = (s.bay b).block ∧ y.running = false) ∧
    (let y := (s.release b).bay b;
      y.state = .free ∧ y.block = List.replicate 8 0 ∧ y.store = [] ∧ y.keys = [] ∧ y.root = 0 ∧ y.refusals = [] ∧ y.thbase = 0 ∧
      y.thctl = 0 ∧ y.tcls = 0 ∧ y.ways = [] ∧ (s.release b).chip.attest = s.chip.attest) ∧
    (∀ o, o ≠ b → (s.configure b ws).bay o = s.bay o ∧ (s.release b).bay o = s.bay o)) ∧
  (∀ (s : State) (a n : Nat) (e : BitVec 16), a % 65536 = 0 →
    (∀ x, (s.putOwners a n e).ownerEntry x = if a ≤ x ∧ x < a + 65536 * n then e else s.ownerEntry x) ∧
    ((∀ p ∈ s.cache.lines, p.2.guest.isNone = true → a ≤ p.1 * 128 → p.1 * 128 < a + 65536 * n → p.2.key = entryKey e) →
      (s.putOwners a n e).mem = s.mem))

/-- TRET (R386): in a handler, every earlier memory word performed, the trapping lanes go to TPC's word, past it by NXT under .SK; the
lanes held aside go back to where they stood, EXM comes back, and the trap record reads zero; outside a handler the word traps with
0x3C3.
The model's own readings and choices it rests on: log entry 18. -/
def Obligations.tret_leaves_the_handler : Prop :=
  ∀ (s : State) (c : IssueCtx) (f : SFields), s.wordIssues c formTret f → (c.issue formTret f).rods ≠ [] → s.allDone c 2 = true →
    (c.u.handler = none → exec (.tret f) s = .next (s.takeTrap c.fid c.ui c.e { cause := 0x3C3 })) ∧
    (∀ (h : Handler),
      let pc := (h.tpc.extractLsb' 0 24).toNat + (if f.mod.getLsbD 6 = true then (h.tpc.extractLsb' 32 2).toNat else 0)
      c.u.handler = some h → oneEntryPerWord h.held → h.heldExm.length = c.u.rods.length → pc < c.fr.codeWords →
      s.before { c with u := { c.u with handler := none } } pc = .clear →
      ∃ t u, exec (.tret f) s = .next t ∧ t.unit? c.fid c.ui = some u ∧ (s.syncCore c.core).sameBut t c ∧ u.handler = none ∧ u.transom = none ∧
        (∀ l p, standsAt u.frontier l p ↔ (h.tlanes.getLsbD l = true ∧ (∃ q, standsAt h.held l q) ∧ p = pc) ∨
          (h.tlanes.getLsbD l = false ∧ standsAt h.held l p)) ∧
        (∀ i < c.u.rods.length, (u.rod i).exm = h.heldExm[i]?.getD 0 ∧ (u.rod i).tcause = 0 ∧ (u.rod i).taddr = 0 ∧
          ∀ n, (u.rod i).scl n = (c.u.rod i).scl n) ∧
        (∀ r l, u.vec r l = c.u.vec r l) ∧ (∀ p, u.pred p = c.u.pred p))

/-- MOVP (R384, R397): reading puts the privileged register into sD, the trap record reading zero outside a handler; writing changes the
fields the register lets be written, in the issuing rods or the bay, and leaves TCAUSE and TADDR as they are.
The model's own readings and choices it rests on: log entries 18 and 66. -/
def Obligations.movp_reads_and_writes_privileged_registers : Prop :=
  (∀ (s : State) (c : IssueCtx) (f : SFields) (i : Nat), s.wordIssues c formMovpRead f → (c.issue formMovpRead f).rods = [i] →
    s.allDone c 2 = true → i < c.u.rods.length →
    (f.i 0 8 ∈ [0x08, 0x09, 0x0A] → ∀ b, namedBay c (c.issue formMovpRead f) = some b → s.bayWordsDone false b) →
    ∃ t u, exec (.movpRead f) s = .next t ∧ t.unit? c.fid c.ui = some u ∧ (s.syncCore c.core).sameBut t c ∧ u.frontier = (c.u.advance c.e).frontier ∧
      (∀ r l, u.vec r l = c.u.vec r l) ∧ (∀ p, u.pred p = c.u.pred p) ∧
      (∀ j n, (j ≠ i ∨ n ≠ f.dst.toNat) → (u.rod j).scl n = (c.u.rod j).scl n) ∧
      (f.dst ≠ 0 →
        let v := (u.rod i).scl f.dst.toNat
        let trap (w : BitVec 64) : BitVec 64 := if c.u.handler.isSome = true then w else 0
        (f.i 0 8 = 0x00 → v = trap (c.u.rod i).tcause) ∧ (f.i 0 8 = 0x01 → v = trap (c.u.rod i).taddr) ∧
        (f.i 0 8 = 0x02 → v = trap ((c.u.handler.map Handler.tpc).getD 0)) ∧
        (f.i 0 8 = 0x03 → v = trap ((c.u.handler.map Handler.tlanes).getD 0)) ∧
        (f.i 0 8 = 0x04 → v = (c.u.rod i).tscr0) ∧ (f.i 0 8 = 0x05 → v = (c.u.rod i).tscr1) ∧ (f.i 0 8 = 0x10 → v = s.chip.stkey) ∧
        (∀ b, namedBay c (c.issue formMovpRead f) = some b → (f.i 0 8 = 0x08 → v = (s.bay b).thbase) ∧ (f.i 0 8 = 0x09 → v = (s.bay b).thctl) ∧
          (f.i 0 8 = 0x0A → v = (s.bay b).tcls)))) ∧
  (∀ (s : State) (c : IssueCtx) (f : SFields) (i : Nat),
    let x := c.issue s.movpForm f
    let v : BitVec 64 := BitVec.ofNat 64 (x.opB i)
    s.wordIssues c s.movpForm f → x.rods = [i] → s.allDone c 2 = true → poisonedRod formMovpWrite x = none → i < c.u.rods.length →
    (f.i 0 8 ∈ [0x08, 0x09, 0x0A] → ∀ b, namedBay c x = some b → s.bayWordsDone false b) →
    ∃ t u, exec (.movpWrite f) s = .next t ∧ t.unit? c.fid c.ui = some u ∧ t.mem = s.mem ∧ u.frontier = (c.u.advance c.e).frontier ∧
      (∀ r l, u.vec r l = c.u.vec r l) ∧ (∀ p, u.pred p = c.u.pred p) ∧ (∀ j n, (u.rod j).scl n = (c.u.rod j).scl n) ∧
      (∀ j, (u.rod j).tcause = (c.u.rod j).tcause ∧ (u.rod j).taddr = (c.u.rod j).taddr) ∧
      (f.i 0 8 = 0x02 → ∀ h, c.u.handler = some h → u.handler = some { h with tpc := h.tpc.extractLsb' 32 32 ++ v.extractLsb' 0 32 }) ∧
        (f.i 0 8 = 0x04 → (u.rod i).tscr0 = v) ∧ (f.i 0 8 = 0x05 → (u.rod i).tscr1 = v) ∧
        (f.i 0 8 = 0x10 → t.chip.stkey = v &&& 0x800F00000000003F) ∧
        (∀ b, namedBay c x = some b → b < s.bays.length →
          (f.i 0 8 = 0x08 → (t.bay b).thbase = v &&& 0x01FFFFFFFFFF0000) ∧ (f.i 0 8 = 0x09 → (t.bay b).thctl = v &&& 0xFFFFFFFF00FFFFFF) ∧
          (f.i 0 8 = 0x0A → (t.bay b).tcls = v &&& 0x7FE)))

/-- IMGSUB and IMAGE_LOAD_COMPLETE (R66, R67, R396, R399): IMGSUB reads the image as it issues and leaves sD empty for the loader, which
answers 0x360 for a bad shape or poison, 0x361 when no enrolled key verifies it, 0x362 for a clash of digests, 0x363 for a full store and
0x365 for a full log, and otherwise appends the attestation entry and holds the image in the store.
The model's own readings and choices it rests on: log entries 18, 21, 30 and 65. -/
def Obligations.images_are_loaded_and_judged : Prop :=
  (∀ (s : State) (c : IssueCtx) (f : SFields) (i : Nat) (bs : List Byte) (poison : Bool) (s1 : State),
    let x := c.issue formSelAB f
    s.wordIssues c formSelAB f → x.rods = [i] → s.allDone c 2 = true → poisonedRod formSelAB x = none →
    (∃ b, namedBay c x = some b ∧ b < 12 ∧ s.bayWordsDone false b) → 64 + 1 + 3309 ≤ x.opB i → x.opB i ≤ 64 + 1048576 + 3309 →
    s.bulkRead (s.unitReader c true) (x.opA i) (x.opB i) = .value bs poison s1 → s1.unit? c.fid c.ui = some c.u →
    ∃ t u p, exec (.imgsub f) s = .next t ∧ t.unit? c.fid c.ui = some u ∧ u.frontier = (c.u.advance c.e).frontier ∧ t.mem = s1.mem ∧
      SMap.find t.producers s1.nextId = some p ∧ p.ready = false ∧ p.frame = c.fid ∧ p.unit = c.ui ∧ p.dests = [(.scl, f.dst.toNat)] ∧
      (∃ id l, SMap.find t.loads id = some l ∧ some l.bay = namedBay c x ∧ l.bytes = bs ∧ l.poison = poison ∧ l.producer = s1.nextId)) ∧
  (∀ (s : State) (id : Nat) (l : ImageLoad), SMap.find s.loads id = some l → l.bay < s.bays.length →
    let y := s.bay l.bay
    let message := l.bytes.take (l.bytes.length - 3309)
    let img := imageOf l.bytes (shake256 message)
    let key := y.keys.find? (fun k => Config.signatureVerifies k.2 message (l.bytes.drop (l.bytes.length - 3309)))
    ∃ t, exec (.imageLoadComplete id) s = .next t ∧ SMap.find t.loads id = none ∧ t.mem = s.mem ∧ t.frames = s.frames ∧
      (let answered (st : Nat) : Prop := ∀ p, SMap.find s.producers l.producer = some p → ∀ rod reg v, p.effect.writes = [.scl rod reg v false] →
          ∃ q, SMap.find t.producers l.producer = some q ∧ q.ready = true ∧ q.effect.writes = [.scl rod reg (BitVec.ofNat 64 st) false]
        let refused (st : Nat) : Prop := answered st ∧ t.chip = s.chip ∧ t.bays = s.bays
        if l.poison = true ∨ imageShapeOk l.bytes = false then refused 0x360
        else if key = none then refused 0x361
        else if ∃ j ∈ y.images, j.digest.setWidth 64 = img.digest.setWidth 64 ∧ j.digest ≠ img.digest then refused 0x362
        else if img ∉ y.images ∧ 16 ≤ y.images.length then refused 0x363
        else if 4096 ≤ s.chip.attest.length then refused 0x365
        else answered 0 ∧ img ∈ (t.bay l.bay).images ∧ (∀ j ∈ y.images, j ∈ (t.bay l.bay).images) ∧
          ∀ k, key = some k → t.chip.attest = s.chip.attest ++
            [{ bay := l.bay, seq := BitVec.ofNat 32 s.chip.attest.length, image := img.digest, key := k.1 }]))

/-- PREEMPT (R401, R405): of a RESERVED bay, it stops placement and asks every resident frame of the bay to halt; sD waits for the last save. Of
another bay it answers 0x3CE, of a number above 11 0x3C9.
The model's own readings and choices it rests on: log entries 18 and 59. -/
def Obligations.preempt_asks_the_bay_to_halt : Prop :=
  ∀ (s : State) (c : IssueCtx) (f : SFields) (i : Nat),
    let x := c.issue formStewFlag f
    let b := x.opA i
    let refused (st : Nat) : Prop := ∃ t p, exec (.preempt f) s = .next t ∧ (s.syncCore c.core).onlyReplied t ∧ SMap.find t.producers s.nextId = some p ∧
      p.ready = true ∧ (f.dst ≠ 0 → i < c.u.rods.length → ((c.u.apply p.effect).rod i).scl f.dst.toNat = BitVec.ofNat 64 st)
    s.wordIssues c formStewFlag f → x.rods = [i] → s.allDone c 2 = true → poisonedRod formStewFlag x = none → s.bays.length = 13 →
    s.bayWordsDone false b →
    if 11 < b then refused 0x3C9
    else if (s.bay b).state ≠ .reserved then refused 0x3CE
    else ∃ t, exec (.preempt f) s = .next t ∧ (t.bay b).stopped = true ∧
      (∀ k fr, t.frame? k = some fr → fr.bay = b → fr.exited = false → fr.haltReq = true) ∧
      (∀ k fr, s.frame? k = some fr → fr.bay = b → ∃ fr', t.frame? k = some fr' ∧ fr'.bay = b) ∧
      ((∃ k fr, s.frame? k = some fr ∧ fr.bay = b ∧ fr.exited = false) → (t.bay b).saving = true ∧
        ∃ p, SMap.find t.producers s.nextId = some p ∧ p.frame = c.fid ∧ p.unit = c.ui ∧ p.dests = [(.scl, f.dst.toNat)] ∧ p.ready = false)

/-! ## Steps of the part -/

/-- COLD_RESET and PACKAGE_RESET (R23, R27): bring-up begins at stage 0x00 or 0x01 in the state of reset; the flash with its retirement
record, retired columns and what stands outside the package are kept, and all 64 keys are loaded afresh. THERMAL_TRIP (R23, R391, R392): the part
halts with a record of cause 0x3F8 and every bay's work is abandoned; a halted part answers to a cold reset alone, and of its registers only BOOTST reads. VF_RESET (R417): every
context of the function's bay ends; its state, block, store, keys and root stay.
The model's own readings and choices it rests on: log entries 6 and 99. -/
def Obligations.resets_and_trips_end_all_work : Prop :=
  (∀ (package : Bool) (s : State),
    let z := State.reset
    (package = true → s.chip.boot.halt = true → exec .packageReset s = .next s) ∧
    ((package = true → s.chip.boot.halt = false) →
    ∃ t, exec (if package then .packageReset else .coldReset) s = .next t ∧
      t.chip.boot = { z.chip.boot with stage := if package then 1 else 0 } ∧ t.bays = z.bays ∧ t.groups = z.groups ∧ t.cache = z.cache ∧
      t.frames = [] ∧ t.nodes = [] ∧ t.ops = [] ∧ t.fences = [] ∧ t.producers = [] ∧ t.jobs = [] ∧ t.matq = [] ∧ t.holds = [] ∧ t.loads = [] ∧
      t.host = s.host ∧ t.mem.cells = s.mem.cells ∧ t.chip.flash = s.chip.flash ∧ t.chip.retireRecord = s.chip.retireRecord ∧
      t.chip.badColumns = s.chip.badColumns ∧ t.chip.dom = z.chip.dom ∧ t.chip.owners = [] ∧ t.chip.attest = [] ∧ t.chip.mclog = [] ∧
      t.chip.vfbind = [] ∧ ∀ k, k ≤ 63 → SMap.get 0 t.chip.keyGen k = SMap.get 0 s.chip.keyGen k + 1)) ∧
  (∀ (s : State), s.chip.boot.halt = false →
    ∃ t, exec .thermalTrip s = .next t ∧ t.chip.boot.halt = true ∧ t.frames = [] ∧ t.nodes = [] ∧ t.ops = [] ∧ t.jobs = [] ∧
      SMap.find t.chip.mclog (s.chip.mcCount.toNat % 256) = some { bay := 0xF, cause := 0x3F8, seq := s.chip.mcCount, unit := 0 } ∧
      t.chip.mcCount = s.chip.mcCount + 1 ∧ t.mem = s.mem) ∧
  (∀ (s : State) (t : Turn) (ts : List Turn), s.chip.boot.halt = true → s.agenda = t :: ts → t ≠ .event .coldReset →
    step s = .next { s with agenda := ts, now := s.now + 1, cur := none }) ∧
  (∀ (s : State), s.chip.boot.halt = true → (∀ space off, (space, off) ≠ (0, 0) → s.barRead space off = some 0) ∧
    ∃ w, s.barRead 0 0 = some w ∧ w.extractLsb' 24 8 = s.chip.boot.stage ∧ w.extractLsb' 16 8 = s.chip.boot.err ∧
      w.extractLsb' 8 8 = s.chip.boot.svn ∧ w.getLsbD 3 = s.chip.boot.recov ∧ w.getLsbD 2 = true ∧ w.getLsbD 1 = s.chip.boot.ready ∧
      w.getLsbD 0 = false) ∧
  (∀ (s : State) (fn b : Nat), s.vfOpen = true → SMap.find s.chip.vfbind fn = some b → b < 12 → s.bays.length = 13 →
    ∃ t, exec (.vfReset fn) s = .next t ∧ (∀ p ∈ t.frames, p.2.bay ≠ b) ∧ (∀ p ∈ t.nodes, p.2.bay ≠ b) ∧
      (t.bay b).state = (s.bay b).state ∧ (t.bay b).block = (s.bay b).block ∧ (t.bay b).store = (s.bay b).store ∧
      (t.bay b).keys = (s.bay b).keys ∧ (t.bay b).root = (s.bay b).root ∧
      (t.bay b).device = [] ∧ (t.bay b).saved = [] ∧ (t.bay b).thbase = 0 ∧ (t.bay b).thctl = 0 ∧ (t.bay b).tcls = 0 ∧
      (t.bay b).freeze = false)

/-- The stages of bring-up (R14, R17, R18, R28, R358, R379, R431): each leaves what the stage gives and begins the next; the scrub runs every
stack at 1:7 and ends at 4:4; the remap table gives each logical core that is in service a core of its own die; the last makes the part
ready, with the steward core's map and its own granules.
The model's own readings and choices it rests on: log entries 9 and 107. -/
def Obligations.bring_up_goes_stage_by_stage : Prop :=
  ∀ (s : State),
    (s.chip.boot.stage = 0 → ∃ t, exec .rootOfTrustStart s = .next t ∧ t.chip.boot = { s.chip.boot with stage := 1, ready := false } ∧ t.mem = s.mem) ∧
    (s.chip.boot.stage = 2 → ∃ t, exec .managementStart s = .next t ∧ t.chip.boot = { s.chip.boot with stage := 3, ready := false } ∧ t.mem = s.mem) ∧
    (∀ failed routes, s.chip.boot.stage = 3 → ∃ t, exec (.hbmTraining failed routes) s = .next t ∧
      t.chip.boot = { s.chip.boot with stage := 4, ready := false } ∧ (∀ p, p ∈ t.cache.routes ↔ p ∈ routes ∧ p < 256) ∧
      (∀ n, n ∈ t.lostChannels ↔ n ∈ s.lostChannels ∨ (n ∈ failed ∧ n < 1024)) ∧
      (∀ n ∈ failed, n < 1024 → n ∉ s.lostChannels → RetUnit.pch n ∈ t.chip.retireRecord) ∧
      (∀ k < 16, SMap.get 4 t.chip.ratios k = 1) ∧ t.mem = s.mem) ∧
    (s.chip.boot.stage = 4 → ∃ t, exec .hbmScrub s = .next t ∧ t.chip.boot = { s.chip.boot with stage := 5, ready := false } ∧
      (∀ a < hbmBytes, SMap.get 0 t.mem.cells a = 0) ∧ (∀ l < hbmBytes / 128, l ∉ t.mem.poison) ∧ t.mem.sills = [] ∧ t.chip.ratios = [] ∧
      (∀ a, hbmBytes ≤ a → SMap.get 0 t.mem.cells a = SMap.get 0 s.mem.cells a)) ∧
    (s.chip.boot.stage = 5 → ∃ t, exec .remapBuild s = .next t ∧ t.chip.boot = { s.chip.boot with stage := 6, ready := false } ∧
      (∀ n p, SMap.find t.chip.remap n = some p → n < 256 ∧ p / 68 = n / 64 ∧ RetUnit.pair (n / 2) ∉ s.chip.retired) ∧
      (∀ n < 256, RetUnit.pair (n / 2) ∉ s.chip.retired → ∃ p, SMap.find t.chip.remap n = some p) ∧
      (∀ n m p, SMap.find t.chip.remap n = some p → SMap.find t.chip.remap m = some p → n = m) ∧
      t.chip.strips = [] ∧ t.chip.stripLoads = [] ∧ t.mem = s.mem) ∧
    (s.chip.boot.stage = 6 → s.bays.length = 13 → ∃ t, exec .stewardBringup s = .next t ∧
      t.chip.boot = { s.chip.boot with stage := 7, ready := true } ∧ (t.bay 12).state = .reserved ∧ (t.bay 12).root = bringupRoot ∧
      (∀ a, t.ownerEntry a = if 0x17F00000000 ≤ a ∧ a < 0x18000000000 then 0xE000 else 0xF000) ∧ t.mem = s.mem)

/-- IMAGE_CHECK and a write of BOOTST.IMGSET (R25, R26, R28, R29, R31): an accepted firmware image takes bring-up to stage 0x02, a refused one into
recovery at stage 0xF0 with its reason; in recovery, a written image that is accepted becomes the flash's. An image is accepted only if
its key has the fused digest, its signature verifies, every section has its digest, and its version is no less than the fused one; where
these stand in an image, and what is fused, is left to Config.
The model's own readings and choices it rests on: log entries 23 and 113. -/
def Obligations.firmware_is_checked_or_recovered : Prop :=
  ∀ (s : State),
    let good (image : SMap (BitVec 8)) : Prop :=
      shake256 (toBytes 1952 (Config.firmwareKey image).toNat) = Config.fusedKeyDigest ∧
      Config.signatureVerifies (Config.firmwareKey image) (firmwareText image) (Config.firmwareSignature image) = true ∧
      (∀ p ∈ Config.firmwareSections image, shake256 p.1 = p.2) ∧
      Config.fusedMinVersion.toNat ≤ (Config.firmwareVersion image).toNat
    (s.chip.boot.stage = 1 → ∃ t, exec .imageCheck s = .next t ∧ t.chip.flash = s.chip.flash ∧
      (if firmwareErr false s.chip.flash = 0 then
        good s.chip.flash ∧ t.chip.imageId = (shake256 (firmwareText s.chip.flash)).extractLsb' 0 64 ∧
        t.chip.boot.stage = 2 ∧ t.chip.boot.recov = false ∧ t.chip.boot.err = 0 ∧ t.chip.boot.svn = Config.firmwareVersion s.chip.flash
      else t.chip.boot.stage = 0xF0 ∧ t.chip.boot.recov = true ∧ 1 ≤ t.chip.boot.err.toNat ∧ t.chip.boot.err.toNat ≤ 3)) ∧
    (∀ v : BitVec 64,
      (s.chip.boot.recov = false ∨ s.chip.boot.halt = true ∨ v.getLsbD 0 = false → exec (.bootstImgset v) s = .next s) ∧
      (s.chip.boot.recov = true → s.chip.boot.halt = false → v.getLsbD 0 = true → ∃ t, exec (.bootstImgset v) s = .next t ∧
        (if firmwareErr true s.chip.window = 0 then
          good s.chip.window ∧ t.chip.boot.stage = 2 ∧ t.chip.boot.recov = false ∧ t.chip.flash = s.chip.window ∧
            t.chip.boot.svn = Config.firmwareVersion s.chip.window
        else t.chip.boot.stage = s.chip.boot.stage ∧ t.chip.boot.recov = true ∧ 1 ≤ t.chip.boot.err.toNat ∧ t.chip.boot.err.toNat ≤ 4 ∧
          t.chip.flash = s.chip.flash)))

/-- Writes of queue registers, of VFBIND and of BAR2 (R26, R74 to R76, R430, R431): TAIL, the control fields (LOG2N not under EN 1), BASE (not
under EN 1) and the flags of QSTAT of a steward queue or of a function's host queue take their values; a queue that is then broken is
stopped with 0x3DD; a function is bound or unbound where R430 lets it, and any other write of VFBIND changes nothing. A write of BAR2 in
recovery goes to the window, byte by byte; later, in 8 or 16 aligned bytes, to the staging area where its home takes it, and nowhere else.
The registers read what they hold (R7, R8): QSTAT's fields with its reserved bits zero, VFBIND's, and zero where a queue does not answer.
The model's own readings and choices it rests on: log entries 86, 108 and 115. -/
def Obligations.queue_registers_are_written : Prop :=
  (∀ (s : State) (b n : Nat) (v : BitVec 64) (k : Queue) (control : Bool), s.queueLives b n = true → b < s.bays.length →
    (s.bay b).queue? (queueOf n) = some k →
    let k' : Queue := if control then
        { k with msiv := v.extractLsb' 16 8, log2n := if k.en = true then k.log2n else v.extractLsb' 4 4, irqRef := v.getLsbD 3,
                 irqCmp := v.getLsbD 2, en := v.getLsbD 0 }
      else { k with tail := v.extractLsb' 0 16 }
    let stops : Prop := k'.en = true ∧ (k'.log2n.toNat < 4 ∨ 2 ^ k'.log2n.toNat < (k'.tail - k'.head).toNat)
    ∃ t k'', exec (if control then .queueControlWrite b n v else .queueTailWrite b n v) s = .next t ∧ t.mem = s.mem ∧ t.frames = s.frames ∧
      (t.bay b).queue? (queueOf n) = some k'' ∧ (¬ stops → k'' = k') ∧
      (stops → k''.en = false ∧ k''.head = k'.head ∧ k''.tail = k'.tail ∧ k''.statValid = true ∧
        (k.statValid = false → k''.statCause = 0x3DD ∧ k''.statIndex = k.head) ∧ (k.statValid = true → k''.statMore = true)) ∧
      (∀ o, o ≠ b → t.bay o = s.bay o)) ∧
  (∀ (s : State) (b : Nat) (w : BitVec 128) (k : Queue),
    let v := w.setWidth 64
    s.barOpen = true → b < 12 → b < s.bays.length → (s.bay b).steward = k →
    (∃ t, exec (.registerWrite 0 (0x2000 + 0x40 * b) w) s = .next t ∧ t.mem = s.mem ∧
      (t.bay b).steward = (if k.en = true then k else { k with base := v &&& 0xFFFFFFFFFFFFFF00 })) ∧
    (∃ t, exec (.registerWrite 0 (0x2020 + 0x40 * b) w) s = .next t ∧ t.mem = s.mem ∧
      (t.bay b).steward = { k with statValid := k.statValid && !v.getLsbD 63, statMore := k.statMore && !v.getLsbD 62 })) ∧
  (∀ (s : State) (fn : Nat) (v : BitVec 64),
    let b := (v.extractLsb' 0 4).toNat
    s.barOpen = true → 1 ≤ fn → fn ≤ 12 → s.bound fn = false →
    (v.getLsbD 63 = false → exec (.vfbindWrite fn v) s = .next (s.modChip (fun c => { c with vfbind := c.vfbind.drop fn }))) ∧
    (v.getLsbD 63 = true → b ≤ 11 → (s.bay b).state ≠ .reserved → (∀ p ∈ s.chip.vfbind, p.2 = b → p.1 = fn) →
      exec (.vfbindWrite fn v) s =
        .next (s.modChip (fun c => { c with vfbind := c.vfbind.put fn b, vfBay := SMap.set 0 c.vfBay fn b })))) ∧
  (∀ (s : State) (fn : Nat) (v : BitVec 64),
    let b := (v.extractLsb' 0 4).toNat
    fn = 0 ∨ 12 < fn ∨ s.bound fn = true ∨
      (v.getLsbD 63 = true ∧ (11 < b ∨ (s.bay b).state = .reserved ∨ ∃ p ∈ s.chip.vfbind, p.2 = b ∧ p.1 ≠ fn)) →
    exec (.vfbindWrite fn v) s = .next s) ∧
  (∀ (s : State) (fn b n : Nat) (w : BitVec 128) (k : Queue),
    let v := w.setWidth 64
    SMap.find s.chip.vfbind fn = some b → n < 16 → b < s.bays.length → s.queueLives b (n + 1) = true → (s.bay b).queue? (queueOf (n + 1)) = some k →
    (∃ t, exec (.registerWrite (16 + fn) (0x1000 + 0x40 * n) w) s = .next t ∧ t.mem = s.mem ∧ (t.bay b).queue? (queueOf (n + 1)) =
      some (if k.en = true then k else { k with base := v &&& 0xFFFFFFFFFFFFFF00 })) ∧
    (∃ t, exec (.registerWrite (16 + fn) (0x1020 + 0x40 * n) w) s = .next t ∧ t.mem = s.mem ∧ (t.bay b).queue? (queueOf (n + 1)) =
      some { k with statValid := k.statValid && !v.getLsbD 63, statMore := k.statMore && !v.getLsbD 62 })) ∧
  (∀ (s : State) (space n off : Nat) (v : BitVec 128), s.barOpen = true → s.chip.boot.recov = true → bar2Size space = some n →
    ∃ t, exec (.registerWrite space off v) s = .next t ∧ t.mem = s.mem ∧ t.cache = s.cache ∧ t.frames = s.frames ∧
      ∀ k, SMap.get 0 t.chip.window k =
        if off ≤ k ∧ k < off + n ∧ k < 2 ^ 26 then BitVec.ofNat 8 (v.toNat / 2 ^ (8 * (k - off))) else SMap.get 0 s.chip.window k) ∧
  (∀ (s : State) (wide : Bool) (off : Nat) (v : BitVec 128),
    let n := if wide then 16 else 8
    let line := (0x17FFC000000 + off) / 128
    let at_ := 8 * (off % 128)
    s.barOpen = true → s.chip.boot.recov = false → off % n = 0 → off < 2 ^ 26 →
    (s.stagingOpen .write off = false → exec (.registerWrite (if wide then 3 else 2) off v) s = .next s) ∧
    (∀ l, s.stagingOpen .write off = true → s.l2? line = some l → l.way ≠ transientWay → l.guest = none → sillSt (s.sill line) ≠ 1 →
      ∃ t l', exec (.registerWrite (if wide then 3 else 2) off v) s = .next t ∧ t.l2? line = some l' ∧
        (∀ b < 1024, l'.data.getLsbD b = if at_ ≤ b ∧ b < at_ + 8 * n then v.getLsbD (b - at_) else l.data.getLsbD b) ∧
        (∀ k, k ≠ line → t.l2? k = s.l2? k) ∧ t.mem = s.mem ∧ t.frames = s.frames)) ∧
  (∀ (s : State) (b : Nat) (k : Queue), s.barOpen = true → b < 12 → b < s.bays.length → (s.bay b).steward = k →
    ∃ w, s.barRead 0 (0x2020 + 0x40 * b) = some w ∧ w.getLsbD 63 = k.statValid ∧ w.getLsbD 62 = k.statMore ∧ w.extractLsb' 48 14 = 0 ∧
      w.extractLsb' 32 16 = k.statIndex ∧ w.extractLsb' 10 22 = 0 ∧ w.extractLsb' 0 10 = k.statCause) ∧
  (∀ (s : State) (fn : Nat), s.barOpen = true → 1 ≤ fn → fn ≤ 12 → SMap.get 0 s.chip.vfBay fn < 16 →
    ∃ w, s.barRead 0 (0x200 + 8 * (fn - 1)) = some w ∧ w.getLsbD 63 = (SMap.find s.chip.vfbind fn).isSome ∧
      w.extractLsb' 4 59 = 0 ∧ (w.extractLsb' 0 4).toNat = SMap.get 0 s.chip.vfBay fn) ∧
  (∀ (s : State) (fn n off : Nat), s.barOpen = true → n < 16 → off < 0x40 → (∀ b, SMap.find s.chip.vfbind fn = some b → (s.bay b).hostq ≤ n) →
    s.barRead (16 + fn) (0x1000 + 0x40 * n + off) = some 0)

/-- NODE_ACCEPT (R36, R76, R77, R80, R82, R83, R85, R86, R90): the record that the bay's pipeline has read, or where it has none the next of
the bay's rotation, is checked once. One that R80 refuses, or a grid whose descriptor R36 refuses, leaves its queue with its cause noted;
one that passes becomes a node of the graph, with what its descriptor binds and an edge from every earlier node that R82 or R83 gives,
ready at once where there is none, a marker ready to retire; where the quota or the edge store has no room, the pipeline stops at it. A
record that cannot be read from host memory stops its queue with 0x3DC.
The model's own readings and choices it rests on: log entries 45, 48, 98, 114 and 115. -/
def Obligations.records_become_nodes : Prop :=
  ∀ (s : State) (b : Nat) (r : TakenRecord), (s.bay b).state = .reserved ∨ b = 12 → b < s.bays.length →
    let q := rotationQueue r.place
    let ws := r.words
    let lvl := queueLevel b q
    let preds := s.predsOf b q r.launcher ws
    let sr := s.modBay b (fun y => { y with taken := some r })
    (s.looksAt b r →
      (∀ k, recordCause ws = some k → exec (.nodeAccept b false) s = exec (.nodeAccept b false) (s.judged b r (.refused k))) ∧
      (recordCause ws = none → recKind ws ≠ 0 → exec (.nodeAccept b false) s = exec (.nodeAccept b false) (s.judged b r (.passes none []))) ∧
      (recordCause ws = none → recKind ws = 0 → (recWord ws 1).toNat % 128 ≠ 0 →
        exec (.nodeAccept b false) s = exec (.nodeAccept b false) (s.judged b r (.refused 0x3D0))) ∧
      (∀ s', recordCause ws = none → recKind ws = 0 →
        (s'.bay b).taken.map (fun x => (x.place, x.words, x.launcher)) = some (r.place, ws, r.launcher) →
        (s'.bay b).state = .reserved ∨ b = 12 → b < s'.bays.length →
        (∀ d m, sr.judgeDescriptor b lvl (recWord ws 1) = .ok (d, m) s' →
          exec (.nodeAccept b false) s = exec (.nodeAccept b false) (s'.judged b r (.passes (some d) m))) ∧
        (∀ k, sr.judgeDescriptor b lvl (recWord ws 1) = .refuse k s' →
          exec (.nodeAccept b false) s = exec (.nodeAccept b false) (s'.judged b r (.refused k))))) ∧
    ((s.bay b).taken = some r →
      (∀ d m, r.verdict = some (.passes d m) →
        (s.roomForNode b preds.length = false → exec (.nodeAccept b false) s = .next s) ∧
        (s.roomForNode b preds.length = true →
          ∃ t n, exec (.nodeAccept b false) s = .next t ∧ SMap.find t.nodes s.nextId = some n ∧ n.bay = b ∧ n.words = ws ∧
            n.queue = q ∧ n.seq = (s.bay b).seq ∧ n.cls = (recWord ws 0).toNat / 2 ^ 58 % 4 ∧ n.launcher = r.launcher ∧
            n.desc = d ∧ n.bindings = m ∧ n.nextFrame = 0 ∧ n.live = 0 ∧ n.cause = none ∧ t.mem = s.mem ∧ (t.bay b).taken = none ∧
            (∀ k, k ∈ n.preds ↔ ∃ p ∈ s.nodes, p.1 = k ∧ p.2.bay = b ∧ edgeFrom p.2 p.1 q r.launcher ws = true) ∧
            (n.preds ≠ [] → n.state = .waiting) ∧ (n.preds = [] → n.state = if recKind ws = 2 then .draining else .ready) ∧
            (∀ k, (s.bay b).queue? q = some k → (t.bay b).queue? q = some { k with head := k.head + 1 }) ∧
            (q = .device → (t.bay b).device = (s.bay b).device.drop 1))) ∧
      (∀ k s1, r.verdict = some (.refused k) → (k = 0x3D8 ∧ s1 = s) ∨ (k ≠ 0x3D8 ∧ s.completion b lvl ws (some k) = (s1, true)) →
        b < s1.bays.length →
        ∃ t, exec (.nodeAccept b false) s = .next t ∧ t.nodes = s1.nodes ∧ t.mem = s1.mem ∧ (t.bay b).taken = none ∧
          (q = .device → (t.bay b).device = (s1.bay b).device.drop 1) ∧
          (∀ j, (s1.bay b).queue? q = some j → ∃ j', (t.bay b).queue? q = some j' ∧ j'.head = j.head + 1 ∧ j'.statValid = true ∧
            (j.statValid = true → j'.statMore = true) ∧
            (j.statValid = false → j'.statCause = BitVec.ofNat 10 k ∧ j'.statIndex = j.head)))) ∧
    (∀ j, (s.bay b).taken = none → (s.bay b).nextPlace b = some r.place → (s.bay b).queue? q = some j →
      ∃ t j', exec (.nodeAccept b true) s = .next t ∧ (t.bay b).queue? q = some j' ∧ j'.en = false ∧ j'.head = j.head ∧ j'.statValid = true ∧
        (j.statValid = false → j'.statCause = 0x3DC ∧ j'.statIndex = j.head) ∧ t.nodes = s.nodes ∧ t.mem = s.mem)

/-- GRID_DISPATCH, COPY_NODE_START, POOL_AGEING, NODE_RETIRE and COPY_NODE_COMPLETE (R80, R86, R87, R419): the head of a bay's pool leaves it under
the bay's next dispatch number; a waiting node's class falls; a node that retires goes, and every node that waited for it alone becomes
ready; a grid whose frames are being placed holds back the nodes behind it. A copy moves the n-th byte of its read window to the n-th byte
of its write window, run by run, a run being what stands in one line and one row of each; all its bytes written, or a fault stopping it
with that cause, its node goes on to its retirement.
The model's own readings and choices it rests on: log entries 11, 16 and 105. -/
def Obligations.nodes_leave_the_pool_in_order : Prop :=
  (∀ (s : State) (b id : Nat) (n : Node), b < 12 → b < s.bays.length → s.poolHead b = some (id, n) → SMap.find s.nodes id = some n →
    n.state = .ready → recKind n.words < 2 → (recKind n.words = 0 → s.dispatching b = none ∧ s.placesNow b = true ∧ (s.bay b).saved = []) →
    (recKind n.words = 1 → ((s.bayNodes b).filter (fun p => recKind p.2.words == 1 &&
      (p.2.state == .running || p.2.state == .draining))).length < 8) →
    ∃ t, exec (if recKind n.words = 0 then .gridDispatch b else .copyNodeStart b) s = .next t ∧ t.mem = s.mem ∧
      SMap.find t.nodes id = some { n with state := if recKind n.words = 0 then .dispatching else .running, dispatch := some (s.bay b).dseq.toNat } ∧
      (t.bay b).dseq = (s.bay b).dseq + 1 ∧ ∀ k, k ≠ id → SMap.find t.nodes k = SMap.find s.nodes k) ∧
  (∀ (s : State) (b id : Nat) (n : Node), s.poolHead b = some (id, n) → n.state = .dispatching → exec (.copyNodeStart b) s = .next s) ∧
  (∀ (s : State) (id : Nat) (n : Node), SMap.find s.nodes id = some n → n.state = .ready → n.bay ≠ 12 → (s.bay n.bay).age ≠ 0 →
    ∃ t, exec (.poolAgeing id) s = .next t ∧ SMap.find t.nodes id = some { n with cls := n.cls - 1, aged := n.aged + 1 } ∧ t.mem = s.mem ∧
      ∀ k, k ≠ id → SMap.find t.nodes k = SMap.find s.nodes k) ∧
  (∀ (s : State) (id : Nat) (n : Node), SMap.find s.nodes id = some n → n.state = .draining → recWord n.words 4 = 0 →
    (∀ p ∈ s.frames, p.2.node ≠ id) →
    ∃ t, exec (.nodeRetire id) s = .next t ∧ SMap.find t.nodes id = none ∧ t.mem = s.mem ∧ t.frames = s.frames ∧
      (∀ k m, k ≠ id → SMap.find s.nodes k = some m → ∃ m', SMap.find t.nodes k = some m' ∧ m'.words = m.words ∧
        m'.preds = m.preds.filter (fun q => q != id) ∧
        (id ∈ m.preds → m.state = .waiting → m'.preds = [] → m'.state = if recKind m.words = 2 then .draining else .ready) ∧
        (id ∉ m.preds → m' = m))) ∧
  (∀ (s : State) (rd : Reader) (r w : Window) (f n : Nat) (p q : Place) (l m : L2Line), s.runAtHand rd r w n p q l m →
    ∃ s', s.copyFrom rd r w (f + 1) n = s'.copyFrom rd r w f (n + copyRun r w n) ∧ s'.nodes = s.nodes ∧
      s.runCopied s' (copyRun r w n) p q l m) ∧
  (∀ (s : State) (id : Nat) (n : Node) (r w : Window),
    let rd : Reader := { acceptReader n.bay (queueLevel n.bay n.queue) with own := false, clm := 256 }
    SMap.find s.nodes id = some n → n.state = .running → recKind n.words = 1 → recReads n.words = [r] → recWrites n.words = [w] →
    (∀ p q l m, n.copied = 0 → copyRun r w 0 = r.bytes → s.runAtHand rd r w 0 p q l m →
      ∃ t, exec (.copyNodeComplete id) s = .next t ∧ s.runCopied t r.bytes p q l m ∧
        SMap.find t.nodes id = some { n with state := .draining }) ∧
    (∀ s', s.copyFrom rd r w r.bytes n.copied = .done s' → SMap.find s'.nodes id = some n →
      ∃ t, exec (.copyNodeComplete id) s = .next t ∧ t.mem = s'.mem ∧ t.cache = s'.cache ∧
        SMap.find t.nodes id = some { n with state := .draining }) ∧
    (∀ k m s', s.copyFrom rd r w r.bytes n.copied = .stopped k m s' → SMap.find s'.nodes id = some n →
      ∃ t, exec (.copyNodeComplete id) s = .next t ∧ t.mem = s'.mem ∧ t.cache.lines = s'.cache.lines ∧
        SMap.find t.nodes id = some { n with state := .draining, cause := some (n.cause.getD k) }) ∧
    (∀ m s', s.copyFrom rd r w r.bytes n.copied = .waits m s' → SMap.find s'.nodes id = some n →
      ∃ t, exec (.copyNodeComplete id) s = .next t ∧ t.mem = s'.mem ∧ t.cache = s'.cache ∧
        SMap.find t.nodes id = some { n with copied := m }))

/-- FRAME_PLACE, IMAGE_POSITION_RECONFIG and FRAME_EXIT (R35, R72, R106, R107, R111, R112, R114, R140, R153, R164): the next frame of the grid being
dispatched enters the first cores from the cursor that have room for it, with the units and logical rods its descriptor gives, every thread at the entry
word with registers that read zero and are full; a strip receives its image; a frame whose threads have all exited leaves its cores once no job of its names its pane or its board, and
is gone once all it issued is done; a terminated one goes once all it issued is done, its cause noted in its node.
The model's own readings and choices it rests on: log entries 10 and 105. -/
def Obligations.frames_enter_and_leave_their_cores : Prop :=
  (∀ (s : State) (b id : Nat) (n : Node) (d : Descriptor) (t0 : List Nat) (before after : List (List Nat)),
    let room := s.allRoom b d.width d.vgran d.pane d.board (sideRods d.span d.rods)
    s.placesNow b = true → (s.bay b).placing = none → (s.bay b).saved = [] → s.dispatching b = some (id, n) → SMap.find s.nodes id = some n →
    n.desc = some d → d.width ∈ [16, 32, 64] → customImages n.bindings = [] → s.tries b d.span = before ++ t0 :: after → (∀ t ∈ before, ¬ room t) → room t0 →
    ∃ t fid fr, exec (.framePlace b) s = .next t ∧ t.frame? fid = some fr ∧ fr.node = id ∧ fr.bay = n.bay ∧
      fr.frameId.toNat = n.nextFrame % 2 ^ 32 ∧ fr.cores = t0.map (s.coreOf b) ∧ fr.width = d.width ∧ fr.vgran = d.vgran ∧ fr.board = d.board ∧
      fr.pane = d.pane ∧ fr.paneMem = [] ∧ fr.tiles = [] ∧ fr.rclk = 0 ∧ fr.term = none ∧ fr.karg = recWord n.words 3 ∧ t.mem = s.mem ∧
      fr.units.length = ((sideRods d.span d.rods).map (unitCount d.width)).sum ∧
      (∀ i k, (sideRods d.span d.rods)[i]? = some k → ((fr.units.filter (fun u => u.side == i)).map (fun u => u.rods.length)).sum = k) ∧
      (∀ u ∈ fr.units, 1 ≤ u.rods.length ∧ u.rods.length ≤ (if d.width = 16 then 2 else 1) ∧
        (∃ e, u.frontier = [e] ∧ e.pc = d.entry ∧ e.pri = d.entryPri ∧
          ∀ l < 64, e.lanes.getLsbD l = true ↔ ∃ i < u.rods.length, (rodLanes d.width i).getLsbD l = true) ∧
        (∀ r l, u.vec r l = 0) ∧ (∀ p, p ≠ 0 → u.pred p = 0) ∧ (∀ i n, (u.rod i).scl n = 0) ∧ (∀ r ∈ u.rods, r.sEmpty = []) ∧
        u.vEmpty = [] ∧ u.pEmpty = [] ∧ u.fresh = true ∧ u.handler = none ∧ u.transom = none) ∧
      ∃ n', SMap.find t.nodes id = some n' ∧ n'.nextFrame = n.nextFrame + 1 ∧ n'.live = n.live + 1 ∧
        n'.state = (if n.nextFrame + 1 = recFrames n.words then .running else n.state)) ∧
  (∀ (s : State) (core pos : Nat) (i : Image), SMap.find s.chip.stripLoads (posKey core pos) = some i →
    ∃ t, exec (.imagePositionReconfig core pos) s = .next t ∧ SMap.find t.chip.strips (posKey core pos) = some i ∧
      SMap.find t.chip.stripLoads (posKey core pos) = none ∧ t.mem = s.mem ∧ t.frames = s.frames) ∧
  (∀ (s : State) (fid : Nat) (fr : Frame) (n : Node), s.frame? fid = some fr → fr.exited = false → fr.allExited = true →
    fr.arrivals = [] → fr.haltReq = false → s.frameDrained fid = true → SMap.find s.nodes fr.node = some n → (s.bay fr.bay).saving = false →
    ∃ t n', exec (.frameExit fid) s = .next t ∧ t.frame? fid = none ∧ (∀ k, k ≠ fid → t.frame? k = s.frame? k) ∧ t.mem = s.mem ∧
      SMap.find t.nodes fr.node = some n' ∧ n'.live = n.live - 1 ∧ (n.live = 1 → n.state = .running → n'.state = .draining) ∧
      (fr.term = none → (∀ u ∈ fr.units, ∀ r ∈ u.rods, r.jobFault = none) → n'.cause = n.cause)) ∧
  (∀ (s : State) (fid k : Nat) (fr : Frame) (n : Node), s.frame? fid = some fr → fr.exited = false → fr.term = some k →
    (∀ p ∈ s.ops, p.2.frame ≠ fid) → (∀ p ∈ s.matq, p.2.frame ≠ fid) → (∀ p ∈ s.producers, p.2.frame ≠ fid) →
    (∀ p ∈ s.jobs, p.2.frame ≠ fid) → s.loads = [] → SMap.find s.nodes fr.node = some n → (s.bay fr.bay).saving = false →
    ∃ t n', exec (.frameExit fid) s = .next t ∧ t.frame? fid = none ∧ (∀ k, k ≠ fid → t.frame? k = s.frame? k) ∧ t.mem = s.mem ∧
      SMap.find t.nodes fr.node = some n' ∧ n'.cause = some (n.cause.getD k)) ∧
  (∀ (s : State) (fid : Nat) (fr : Frame), s.frame? fid = some fr → fr.exited = false → fr.allExited = true → fr.arrivals = [] →
    fr.term = none → fr.haltReq = false → s.paneFree fid = true → (s.bay fr.bay).saving = false →
    ∃ t, exec (.frameExit fid) s = .next t ∧ (∀ fr', t.frame? fid = some fr' → fr'.exited = true) ∧ t.ops = s.ops ∧ t.jobs = s.jobs ∧
      t.mem = s.mem)

/-- UNIT_HALT, FORCED_SAVE, IMAGE_PUBLISH, FRAME_RESUME and TURN_END (R44, R103, R104, R405 to R412): a unit asked to halt stops where it stands at a
listed point; at the end of the timer every unit of the frame stops; a quiescent frame is published as an image and leaves its cores;
a turn passes to the next VALID entry.
The model's own readings and choices it rests on: log entries 29, 58, 60, 61 and 121. -/
def Obligations.frames_are_saved_and_turns_pass : Prop :=
  (∀ (s s' : State) (fid ui w : Nat) (c : IssueCtx) (us : List (BitVec 64)), s.standing fid ui = some c → c.fid = fid → c.ui = ui →
    c.fr.haltReq = true → c.u.halted = false → c.fr.term = none → c.u.late = [] → c.u.haltWord = some w →
    s.lookup c w = .point us s' → s'.frames = s.frames →
    ∃ t u, exec (.unitHalt fid ui) s = .next t ∧ t.unit? fid ui = some u ∧ u.halted = true ∧ u.point = us ∧ t.mem = s'.mem ∧
      (∀ r l, u.vec r l = c.u.vec r l) ∧ (∀ p, u.pred p = c.u.pred p) ∧ (∀ i n, (u.rod i).scl n = (c.u.rod i).scl n)) ∧
  (∀ (s : State) (fid : Nat) (fr : Frame), s.frame? fid = some fr → fr.haltReq = true → fr.timedOut = false → fr.exited = false →
    fr.term = none → s.quiescent fid fr = false →
    ∃ t fr', exec (.forcedSave fid) s = .next t ∧ t.frame? fid = some fr' ∧ fr'.timedOut = true ∧ (∀ u ∈ fr'.units, u.halted = true) ∧
      fr'.paneMem = fr.paneMem ∧ fr'.tiles = fr.tiles ∧ t.mem = s.mem ∧ t.cache = s.cache) ∧
  (∀ (s : State) (fid : Nat) (fr : Frame), s.frame? fid = some fr → fr.haltReq = true → fr.exited = false → fr.term = none →
    s.quiescent fid fr = true → fr.allExited = false → fr.bay < 12 → fr.bay < s.bays.length → s.chip.dom.mode = false →
    s.areaUsable fr.bay ((s.bay fr.bay).region fr.regionCore) regionBytes = true → s.imageEnters fr = true →
    ∃ t f, exec (.imagePublish fid) s = .next t ∧ t.frame? fid = none ∧ (t.bay fr.bay).saved[(s.bay fr.bay).saved.length]? = some f ∧
      f.frameNo = fid ∧ (t.bay fr.bay).saved.map (fun g => (g.frameNo, g.addr)) =
        (s.bay fr.bay).saved.map (fun g => (g.frameNo, g.addr)) ++ [(fid, f.addr)] ∧
      (t.bay fr.bay).ctl.saved = (s.bay fr.bay).ctl.saved + 1 ∧
      f.addr.toNat = ((s.bay fr.bay).region fr.regionCore + 128 + (s.bay fr.bay).regionUsed fr.regionCore) % 2 ^ 64 ∧
      recWord f.header 0 = BitVec.ofNat 64 (widthCode fr.width * 2 ^ 50 + (if fr.sides = 2 then 2 ^ 49 else 0) + (if fr.timedOut = true then 2 ^ 48 else 0) +
        2 ^ 32 + 0x46534A48)) ∧
  (∀ (s : State) (b : Nat) (f : SavedFrame) (rest : List SavedFrame),
    let img := (s.readImage b f.addr.toNat).1
    s.placesNow b = true → (s.bay b).placing = none → (s.bay b).saved = f :: rest →
    s.areaUsable b ((s.bay b).region f.frame.regionCore) regionBytes = true →
    s.areaEnters ((s.bay b).region f.frame.regionCore) (128 + (s.bay b).regionUsed f.frame.regionCore) = true → img.ok = true → recWord img.header 3 = (s.features b).extractLsb' 0 64 → recWord img.header 4 = (s.features b).extractLsb' 64 64 →
    customImages f.frame.bindings = [] → f.made = true → img.header = f.header → s.chip.dom.mode = false →
    s.allRoom b f.frame.width f.frame.vgran f.frame.pane f.frame.board (sideRods (f.frame.sides == 2) f.frame.rods) f.frame.bayCores →
    ∃ t fr, exec (.frameResume b) s = .next t ∧ t.frame? f.frameNo = some fr ∧ fr.cores = f.frame.bayCores.map (s.coreOf b) ∧ fr.node = f.frame.node ∧
      fr.tiles = f.frame.tiles ∧ (t.bay b).saved.length = rest.length) ∧
  (∀ (s : State) (g : Nat) (x : Group) (i : Nat), 1 ≤ g → s.groups[g - 1]? = some x → x.running = true → x.nextEntry = some i →
    s.turnBay g { x with turn := i } = s.turnBay g x →
    exec (.turnEnd g) s = .next { s with groups := s.groups.set (g - 1) { x with turn := i } }) ∧
  (∀ (s : State) (g out : Nat) (x : Group) (i : Nat), 1 ≤ g → s.groups[g - 1]? = some x → x.running = true → x.nextEntry = some i →
    s.turnBay g x = some out → s.turnBay g { x with turn := i } ≠ some out → (s.bay out).state = .reserved → out < s.bays.length →
    ∃ t, exec (.turnEnd g) s = .next t ∧ (t.bay out).running = false ∧ (∀ p ∈ t.frames, p.2.bay = out → p.2.exited = false → p.2.haltReq = true) ∧
      (∃ x', t.groups[g - 1]? = some x' ∧ x'.turn = i))

/-- PAUSE_END, ICACHE_FILL, LATE_FAULT_TRAP and FETCH_FAULT (R144, R156, R167, R382): a pause ends; a line being fetched becomes present with the
bytes its slice holds; a fault another home returned, or of the fetch of the selected word, is taken as a trap at that entry.
The model's own readings and choices it rests on: log entries 27, 61, 94 and 95. -/
def Obligations.units_wake_fetch_and_trap : Prop :=
  (∀ (s : State) (fid ui : Nat) (u : RodUnit), s.unit? fid ui = some u →
    ∃ t, exec (.pauseEnd fid ui) s = .next t ∧ t.unit? fid ui = some { u with pause := none } ∧ t.mem = s.mem ∧ t.cache = s.cache) ∧
  (∀ (s : State) (core line b key : Nat) (l : L2Line), SMap.find s.cache.fetching (icKey core line) = some (b, key) → s.l2? line = some l →
    l.poison = false → (line < 2 ^ 43 → s.openFor b line false = none) → (2 ^ 43 ≤ line → l.serves b key false = true) →
    ∃ t, exec (.icacheFill core line) s = .next t ∧ SMap.find t.cache.icache (icKey core line) = some (l.data, key) ∧
      SMap.find t.cache.fetching (icKey core line) = none ∧ (l.way ≠ transientWay → t.mem = s.mem ∧ t.frames = s.frames)) ∧
  (∀ (s : State) (fid ui : Nat) (c : IssueCtx) (tr : TrapInfo) (ts : List TrapInfo), s.standing fid ui = some c → c.fid = fid → c.ui = ui →
    mayIssue c = true → c.u.late = tr :: ts →
    exec (.lateFaultTrap fid ui) s = .next ((s.modUnit fid ui (fun u => { u with late := ts })).takeTrap fid ui c.e
      { tr with atTransom := s.standsAtTransom c })) ∧
  (∀ (s : State) (fid ui : Nat) (c : IssueCtx) (e : Entry) (tr : TrapInfo), s.standing fid ui = some c → c.fid = fid → c.ui = ui →
    mayIssue c = true → c.u.late = [] → s.select c = .fault e tr → exec (.fetchFault fid ui) s = .next (s.takeTrap fid ui e tr))

/-- The clocks, claims, marks and counters (R255, R259, R260, R265, R269, R421, R422): RCLK and BRC advance by one, BRC modulo 4096; a line whose time has
come is DUE and, its grace over, LAPSED; an epoch settles CRED; TL falls by one and not below zero; counters are cleared, and frozen ones
stay until the freeze ends; one write of CTRCTL clears first.
The model's own readings and choices it rests on: log entries 11, 15, 90 and 120. -/
def Obligations.clocks_and_claims_move_on : Prop :=
  (∀ (s : State) (fid : Nat) (fr : Frame), s.frame? fid = some fr → fr.exited = false →
    (fr.units.all (·.stopped) && fr.units.any (·.halted)) = false →
    ∃ t, exec (.rclkTick fid) s = .next t ∧ t.frame? fid = some { fr with rclk := fr.rclk + 1 } ∧ t.mem = s.mem ∧ t.cache = s.cache) ∧
  (∀ (s : State) (b : Nat), b < 12 → b < s.bays.length → s.clockRuns b = true →
    ∃ t, exec (.brcTick b) s = .next t ∧ (t.bay b).brc = ((s.bay b).brc + 1) % 4096 ∧ t.mem = s.mem ∧ t.frames = s.frames ∧
      (t.bay b).epochDue = decide (((s.bay b).brc + 1) % 1024 = 0)) ∧
  (∀ (s : State), ∃ t, exec (.brcTick 12) s = .next t ∧ t.chip.brcS = (s.chip.brcS + 1) % 4096 ∧ t.mem = s.mem ∧ t.frames = s.frames) ∧
  (∀ (s : State) (line : Nat) (l : L2Line), s.l2? line = some l → l.cls = .timed → l.stamp = s.brcOf l.bay →
    ∃ t, exec (.lineClaimDue line) s = .next t ∧ t.l2? line = some { l with cls := .due } ∧ t.mem = s.mem ∧
      ∀ k, k ≠ line → t.l2? k = s.l2? k) ∧
  (∀ (s : State) (line : Nat) (l : L2Line), s.l2? line = some l → l.cls = .due → 65 ≤ l.overdue (s.brcOf l.bay) →
    ∃ t, exec (.lineClaimLapse line) s = .next t ∧ t.l2? line = some { l with cls := .lapsed } ∧ t.mem = s.mem ∧
      ∀ k, k ≠ line → t.l2? k = s.l2? k) ∧
  (∀ (s : State) (b : Nat), b < 12 → b < s.bays.length → (s.bay b).epochDue = true →
    ∃ t, exec (.credEpochEnd b) s = .next t ∧ (t.bay b).cred = credAfter (s.bay b).cred (s.bay b).kept (s.bay b).broken ∧ (t.bay b).kept = 0 ∧
      (t.bay b).broken = 0 ∧ t.mem = s.mem) ∧
  (∀ (s : State) (core : Nat), ∃ t, exec (.throttleDecay core) s = .next t ∧
    (∀ k, SMap.get 0 t.chip.throttle k = if k = core then SMap.get 0 s.chip.throttle k - 1 else SMap.get 0 s.chip.throttle k) ∧ t.mem = s.mem) ∧
  (∀ (s : State) (core line : Nat), ∃ t, exec (.l1CopyDrop core line) s = .next t ∧ t.l1? core line = none ∧ t.mem = s.mem ∧
    t.cache.lines = s.cache.lines) ∧
  (∀ (s : State) (b : Nat), s.barOpen = true → b < 12 → b < s.bays.length →
    (∃ t, exec (.counterClear b) s = .next t ∧ (t.bay b).counters = List.replicate 16 0 ∧ t.mem = s.mem ∧ t.chip = s.chip) ∧
    (∃ t, exec (.counterFreeze b true) s = .next t ∧ (t.bay b).freeze = true ∧ (t.bay b).counters = (s.bay b).counters ∧ t.mem = s.mem) ∧
    (∃ t, exec (.counterFreeze b false) s = .next t ∧ (t.bay b).freeze = false ∧ t.mem = s.mem ∧
      (t.bay b).counters = if (s.bay b).freeze = true then List.zipWith (· + ·) (s.bay b).counters (s.bay b).heldEvents else (s.bay b).counters) ∧
    (∀ w : BitVec 128, w.getLsbD 1 = true → ∃ t, exec (.registerWrite 0 (0x5000 + 0x100 * b) w) s = .next t ∧
      (t.bay b).counters = List.replicate 16 0 ∧ (t.bay b).freeze = w.getLsbD 0 ∧ t.mem = s.mem))

/-- HOME_REFILL, TICKET_GRANT and FETCH_LINE_ARRIVAL (R252, R284, R315): an absent line that a word waits for enters its slice with the data that
stands behind it; an SC word takes the next ticket of its scope, at SYS past those that other packages' words took, once none before it in its unit lacks
one, and an SC FENCE one for all its logical rods, once what stands before it is performed; a fetched line that is
present is pinned for its fetch entry.
The model's own readings and choices it rests on: log entries 24, 77 and 96. -/
def Obligations.lines_and_tickets_are_given : Prop :=
  (∀ (s : State) (line id key : Nat) (o : MemOp), s.refillFor line = some (id, o, key) → line < 2 ^ 43 → s.l2? line = none →
    s.openLine line o.writes = none → s.chip.dom.mode = false → s.lineRoom (s.lineBay line) line →
    ∃ t l, exec (.homeRefill line false false) s = .next t ∧ t.l2? line = some l ∧ l.bay = s.lineBay line ∧ l.key = key ∧ l.dirty = false ∧
      l.guest = none ∧ (l.data, l.poison) = s.backing key line ∧ t.frames = s.frames ∧
      ∀ k, (SMap.find t.ops k).map (fun q => { q with counts := [] }) = (SMap.find s.ops k).map (fun q => { q with counts := [] })) ∧
  (∀ (s : State) (id : Nat) (o : MemOp), SMap.find s.ops id = some o → o.order = 4 → o.ticket = none → s.ticketBefore o.frame o.unit id = false →
    ∃ t, exec (.ticketGrant id) s = .next t ∧ t.mem = s.mem ∧ t.cache = s.cache ∧
      SMap.find t.ops id = some { o with ticket := some (if o.scope = 3 then s.chip.sysTickets + Config.ticketGap s.free else s.chip.devTickets) } ∧
      t.chip.sysTickets = s.chip.sysTickets + (if o.scope = 3 then Config.ticketGap s.free + 1 else 0) ∧
      t.chip.devTickets = s.chip.devTickets + (if o.scope = 3 then 0 else 1)) ∧
  (∀ (s : State) (id : Nat) (f : FenceRec), SMap.find s.ops id = none → SMap.find s.fences id = some f → f.order = 4 → f.ticket = none →
    s.ticketBefore f.frame f.unit f.word = false →
    (∀ p ∈ s.fences, p.2.word = f.word → s.earlierDone p.2.frame p.2.unit p.1 p.2.scope p.2.lanes = true) →
    ∃ t, exec (.ticketGrant id) s = .next t ∧ t.mem = s.mem ∧ t.cache = s.cache ∧ t.ops = s.ops ∧
      ∀ k g, SMap.find s.fences k = some g → SMap.find t.fences k = some (if g.word = f.word then { g with
        ticket := some (if f.scope = 3 then s.chip.sysTickets + Config.ticketGap s.free else s.chip.devTickets) } else g)) ∧
  (∀ (s : State) (core id line : Nat) (h : FetchHold) (rest : List Nat) (l : L2Line) (fr : Frame),
    s.holds.find? (fun p => p.2.core == core && p.2.performed && !p.2.waiting.isEmpty) = some (id, h) → h.waiting = line :: rest →
    let key := ((h.rows.flatten.find? (fun q => q.line == line)).map (·.key)).getD 0
    s.frame? h.frame = some fr → s.deniedTo line fr.bay key false = none → s.fetchOpen fr.bay h.k line key = none → h.released = false →
    s.l2? line = some l → l.way ≠ transientWay →
    ∃ t h' l', exec (.fetchLineArrival core) s = .next t ∧ SMap.find t.holds id = some h' ∧ h'.waiting = rest ∧ t.l2? line = some l' ∧ id ∈ l'.pins ∧
      l'.data = l.data ∧ t.mem = s.mem)

/-- Requests of other packages at their home (R360, R361, R366, R367): a request that R360 or R361 refuses is answered with its cause; a read of a line
that nobody else holds is answered with E and the sill names its owner; an ownership request is answered with M. An owner's write-back is
acknowledged, after the end of a transaction of its line that is open.
The model's own readings and choices it rests on: log entry 72. -/
def Obligations.other_packages_are_served : Prop :=
  (∀ (own : Bool) (s : State) (pkg line req key k ch cause : Nat) (cts : ReqStamp), s.otherPkg pkg = true → isLocalLine line = true →
    s.requestCause own ch key line = some cause →
    ∃ t, exec (if own then .ownershipRequest pkg line req key k ch cts else .remoteReadRequest pkg line req key k ch cts) s = .next t ∧
      t.cache.outbox = s.cache.outbox ++ [.failure pkg line req ch cause] ∧ t.mem = s.mem ∧ t.frames = s.frames ∧ t.cache.lines = s.cache.lines) ∧
  (∀ (own : Bool) (s : State) (pkg line req key k ch : Nat) (cts : ReqStamp),
    let value := s.coherent (s.granuleKey line) line
    s.otherPkg pkg = true → isLocalLine line = true → s.requestCause own ch key line = none → s.chip.dom.mode = false →
    SMap.find s.cache.txns line = none → s.cache.held = [] → (∀ t ∈ s.cache.homeTurn, t.1 ≠ line) → s.sill line = mkSill 0 0 0 false →
    (∀ p ∈ s.ops, ∀ n, p.2.ticket = some n → cts.ticket ≤ n + 1) →
    (∀ l, s.l2? line = some l → l.way ≠ transientWay) → (s.l2? line = none → s.lineRoom (s.lineBay line) line) →
    ∃ t w e, exec (if own then .ownershipRequest pkg line req key k ch cts else .remoteReadRequest pkg line req key k ch cts) s = .next t ∧
      Message.data pkg line req ch (if own then 3 else 1) value.1 value.2 w e ∈ t.cache.outbox ∧
      t.sill line = mkSill (if own then 4 else 2) pkg 0 false ∧ t.cache.held = [] ∧ t.frames = s.frames ∧
      (s.l2? line ≠ none → t.mem.cells = s.mem.cells)) ∧
  (∀ (s : State) (pkg line : Nat) (dirty : Option (BitVec 1024 × Bool)), s.otherPkg pkg = true → isLocalLine line = true →
    SMap.find s.cache.txns line = none → ∃ t, exec (.writeBack pkg line dirty) s = .next t ∧
      Message.ack pkg line (s.channelTo (s.lineBay line) s.pkgNum) none ∈ t.cache.outbox) ∧
  (∀ (s : State) (pkg line : Nat) (dirty : Option (BitVec 1024 × Bool)), s.otherPkg pkg = true → isLocalLine line = true →
    SMap.find s.cache.txns line ≠ none → ∃ t, exec (.writeBack pkg line dirty) s = .next t ∧
      t.cache.backs = s.cache.backs ++ [{ pkg := pkg, line := line, dirty := dirty }] ∧ t.cache.outbox = s.cache.outbox ∧ t.mem = s.mem) ∧
  (∀ (s : State) (pkg line : Nat) (dirty : Option (BitVec 1024 × Bool)) (x : HomeTxn), s.otherPkg pkg = true → isLocalLine line = true →
    SMap.find s.cache.txns line = some x → pkg ∈ x.waits → x.waits.erase pkg ≠ [] →
    ∃ t, exec (.invalidationAck pkg line dirty) s = .next t ∧ t.mem = s.mem ∧
      SMap.find t.cache.txns line = some { x with waits := x.waits.erase pkg, dirty := x.dirty.orElse (fun _ => dirty) })

/-- Messages about guest lines (R361, R362, R370, R382): a forward sends the line to the requester and tells the home; a recall sends dirty data home; an
invalidation drops an S copy; each is acknowledged on the same channel. An answer brings the line in under its permission, for the bay and
the KEYID that asked, a copy brought for others leaving first, or fails the word that waited, unless that has begun; the answer to a write-back ends the keeping of its data; a failed path is recorded.
The model's own readings and choices it rests on: log entries 72, 73 and 93. -/
def Obligations.guest_lines_answer_their_home : Prop :=
  (∀ (s : State) (home line requester ch : Nat) (keep : Bool) (l : L2Line), s.otherPkg home = true → isLocalLine line = true →
    (s.bayOfChannel ch).isSome = true → s.l2? (s.lineKey home line) = some l →
    let dirty := l.guest == some .m || l.guest == some .o
    let kept (p : GuestPerm) (t : State) : Prop := if keep = true then ∃ l', t.l2? (s.lineKey home line) = some l' ∧ l'.guest = some p ∧ l'.data = l.data
      else t.l2? (s.lineKey home line) = none
    (∃ t, exec (.forward home line requester keep ch) s = .next t ∧ t.mem = s.mem ∧
      Message.data requester line 0 ch (if keep then 0 else 3) l.data l.poison s.clkMost s.leaseMost ∈ t.cache.outbox ∧
      Message.ack home line ch (if dirty then some (l.data, l.poison) else none) ∈ t.cache.outbox ∧ kept (if dirty then .o else .s) t) ∧
    (∃ t, exec (.recall home line keep ch) s = .next t ∧ t.mem = s.mem ∧
      Message.ack home line ch (if dirty then some (l.data, l.poison) else none) ∈ t.cache.outbox ∧ kept .s t)) ∧
  (∀ (s : State) (home line ch : Nat) (l : L2Line), s.otherPkg home = true → isLocalLine line = true → (s.bayOfChannel ch).isSome = true →
    s.l2? (s.lineKey home line) = some l → l.guest = some .s →
    ∃ t, exec (.invalidation home line ch) s = .next t ∧ t.l2? (s.lineKey home line) = none ∧ Message.ack home line ch none ∈ t.cache.outbox ∧ t.mem = s.mem) ∧
  (∀ (s : State) (line op piece perm wts rts : Nat) (a : Ask) (bytes : BitVec 1024) (poison : Bool),
    let s1 := match s.l2? line with
      | some g => if g.bay = a.bay ∧ g.key = a.key then s else s.evict line
      | none => s
    s.cache.asks.find? (fun p => p.2.op == op && p.2.piece == piece) = some (line, a) → piece < 2 ^ 52 → s.chip.dom.mode = false →
    (s1.l2? line = none → s1.lineRoom a.bay line) →
    ∃ t l, exec (.remoteResponse op piece 0 perm bytes poison wts rts) s = .next t ∧ SMap.find t.cache.asks line = none ∧
      t.frames = s.frames ∧ t.ops = s.ops ∧ t.l2? line = some l ∧ l.guest = some (permOf perm) ∧ l.bay = a.bay ∧ l.key = a.key ∧ wts ≤ l.wts ∧
      l.wts ≤ l.rts ∧ (s1.l2? line = none → l.data = bytes ∧ l.poison = poison) ∧
      (∀ g, s1.l2? line = some g → l.data = g.data ∧ l.poison = g.poison)) ∧
  (∀ (s : State) (line op cause perm wts rts : Nat) (bytes : BitVec 1024) (poison : Bool),
    ∃ t, exec (.remoteResponse op (backNumber line) cause perm bytes poison wts rts) s = .next t ∧ SMap.find t.cache.keptBacks line = none ∧
      t.mem = s.mem ∧ t.cache.lines = s.cache.lines) ∧
  (∀ (s : State) (line op piece cause perm wts rts : Nat) (a : Ask) (bytes : BitVec 1024) (poison : Bool) (o : MemOp) (u : RodUnit),
    let v := match SMap.find s.producers a.op with
      | some p => u.completeProducer { p with faulted := true } Effect.none
      | none => u
    s.cache.asks.find? (fun p => p.2.op == op && p.2.piece == piece) = some (line, a) → piece < 2 ^ 52 → cause ≠ 0 → a.op ≠ 0 →
    SMap.find s.ops a.op = some o → o.kind ≠ .fetch → s.unit? o.frame o.unit = some u →
    (s.begun a.op o = true → ∃ t, exec (.remoteResponse op piece cause perm bytes poison wts rts) s = .next t ∧ t.ops = s.ops ∧
      t.frames = s.frames ∧ t.mem = s.mem) ∧
    (s.begun a.op o = false → ∃ t tr, exec (.remoteResponse op piece cause perm bytes poison wts rts) s = .next t ∧ SMap.find t.ops a.op = none ∧
      SMap.find t.producers a.op = none ∧ t.unit? o.frame o.unit = some { v with late := u.late ++ [tr] } ∧ tr.cause = cause ∧ tr.imp = true ∧ tr.widx = some o.pc ∧ t.mem = s.mem)) ∧
  (∀ (s : State) (pkg : Nat), s.otherPkg pkg = true → s.cache.txns = [] → (∀ p ∈ s.cache.asks, (guestHome p.1).1 ≠ pkg) →
    ∃ t, exec (.pathFailure pkg) s = .next t ∧ pkg ∈ t.cache.failedPaths ∧ pkg ∉ t.cache.routes ∧ t.mem = s.mem ∧ t.frames = s.frames ∧
      SMap.find t.chip.mclog (s.chip.mcCount.toNat % 256) =
        some { bay := 0xF, cause := 0x3FD, seq := s.chip.mcCount, unit := BitVec.ofNat 64 pkg })

/-- DOMCTL, its mode change and the save control block (R357, R358, R404): a write that may not be made leaves its ERR and nothing else; one that may
takes its fields at once, and a mode that differs changes with HBM reading zero and BUSY set until the change is complete.
The model's own readings and choices it rests on: log entries 68 and 71. -/
def Obligations.control_registers_take_their_fields : Prop :=
  (∀ (s : State) (v : BitVec 64),
    let wants := v.getLsbD 32
    s.barOpen = true →
    (s.chip.dom.busy = true → exec (.domctlWrite v) s = .next (s.modChip (fun c => { c with dom := { c.dom with err := 4 } }))) ∧
    (s.chip.dom.busy = false → (∃ y ∈ s.bays.take 12, y.state ≠ .free) →
      exec (.domctlWrite v) s = .next (s.modChip (fun c => { c with dom := { c.dom with err := 1 } }))) ∧
    (s.chip.dom.busy = false → (∀ y ∈ s.bays.take 12, y.state = .free) → wants = true →
      (tierSize = 0 → exec (.domctlWrite v) s = .next (s.modChip (fun c => { c with dom := { c.dom with err := 3 } }))) ∧
      (tierSize ≠ 0 → 63 < (tierSize / 128 - 1) / s.tierSets →
        exec (.domctlWrite v) s = .next (s.modChip (fun c => { c with dom := { c.dom with err := 2 } })))) ∧
    (s.chip.dom.busy = false → (∀ y ∈ s.bays.take 12, y.state = .free) →
      (wants = true → tierSize ≠ 0 ∧ (tierSize / 128 - 1) / s.tierSets ≤ 63) →
      (wants = s.chip.dom.mode → exec (.domctlWrite v) s = .next (s.modChip (fun c => { c with dom := { c.dom with
        err := 0, seqpkg := v.extractLsb' 16 8, pkgnum := v.extractLsb' 0 8 } }))) ∧
      (wants ≠ s.chip.dom.mode → s.cache.lines = [] → ∃ t, exec (.domctlWrite v) s = .next t ∧
        t.chip.dom = { s.chip.dom with
          busy := true, mode := wants, err := 0, seqpkg := v.extractLsb' 16 8, pkgnum := v.extractLsb' 0 8 } ∧
        (∀ a < hbmBytes, SMap.get 0 t.mem.cells a = 0) ∧ t.mem.sills = []))) ∧
  (∀ (s : State), exec .modeChangeComplete s = .next (s.modChip (fun c => { c with dom := { c.dom with busy := false } }))) ∧
  (∀ (s : State) (b : Nat) (v : BitVec 64), s.barOpen = true → b < 12 → b < s.bays.length →
    let y := s.bay b
    let pto := (v.extractLsb' 32 14).toNat
    let ok : Bool := decide (10 ≤ pto ∧ pto ≤ 10000)
    (y.state = .reserved ∨ y.ctl.busy = true → ∀ off ∈ [0x00, 0x08, 0x10, 0x18],
      exec (.saveControlWrite b off v) s = .next (s.modBay b (fun y => { y with ctl := { y.ctl with err := 5 } }))) ∧
    (y.state ≠ .reserved → y.ctl.busy = false →
      (∃ t, exec (.saveControlWrite b 0x00 v) s = .next t ∧ (t.bay b).ctl = { y.ctl with base := v &&& 0x00000FFFFF800000, err := 0 } ∧ t.mem = s.mem) ∧
      (∃ t, exec (.saveControlWrite b 0x08 v) s = .next t ∧ t.mem = s.mem ∧ (t.bay b).ctl = { y.ctl with
        pto := if ok then pto else y.ctl.pto, key := v.extractLsb' 8 6, importBit := v.getLsbD 1, graph := v.getLsbD 0, err := if ok then 0 else 1 }) ∧
      (∃ t, exec (.saveControlWrite b 0x10 v) s = .next t ∧ (t.bay b).ctl = { y.ctl with fmaskLo := v ||| 1, err := 0 } ∧ t.mem = s.mem) ∧
      (∃ t, exec (.saveControlWrite b 0x18 v) s = .next t ∧ (t.bay b).ctl = { y.ctl with fmaskHi := v, err := 0 } ∧ t.mem = s.mem)))

/-- MEMORY_ERROR (R256, R363, R391): an uncorrectable error in a line of HBM, whose sill then tells it, or in a dirty line of a slice, poisons
the line and writes a record of cause 0x3F2; no byte changes. A line of a slice that equals memory is dropped.
The model's own readings and choices it rests on: log entries 74 and 75. -/
def Obligations.uncorrectable_errors_poison : Prop :=
  (∀ (s : State) (line : Nat) (bits : BitVec 32), s.inHbm (line * 128) = true →
    ∃ t, exec (.memoryError 1 line bits) s = .next t ∧ t.mem.cells = s.mem.cells ∧ (∀ l, l ∈ t.mem.poison ↔ l ∈ s.mem.poison ∨ l = line) ∧
      (sillBad s.chip.dom.mode (s.sill line) = false → sillPois (t.sill line) = true) ∧ (∀ k, k ≠ line → t.sill k = s.sill k) ∧
      t.cache = s.cache ∧ t.frames = s.frames ∧ (∃ e, SMap.find t.chip.mclog (s.chip.mcCount.toNat % 256) = some e ∧ e.cause = 0x3F2 ∧
        e.unit = BitVec.ofNat 64 (line * 128))) ∧
  (∀ (s : State) (line : Nat) (bits : BitVec 32) (l : L2Line), s.l2? line = some l → l.dirty = true →
    ∃ t, exec (.memoryError 2 line bits) s = .next t ∧ t.l2? line = some { l with poison := true } ∧ t.mem = s.mem ∧ t.frames = s.frames ∧
      (∀ k, k ≠ line → t.l2? k = s.l2? k) ∧ t.chip.mcCount = s.chip.mcCount + 1 ∧
      ∃ e, SMap.find t.chip.mclog (s.chip.mcCount.toNat % 256) = some e ∧ e.cause = 0x3F2 ∧ e.seq = s.chip.mcCount ∧
        e.unit = (if line < 2 ^ 43 then BitVec.ofNat 64 (line * 128) else 0)) ∧
  (∀ (s : State) (line : Nat) (bits : BitVec 32) (l : L2Line), s.l2? line = some l → l.dirty = false → l.guest = none →
    ∃ t, exec (.memoryError 2 line bits) s = .next t ∧ t.l2? line = none ∧ t.mem = s.mem ∧ t.frames = s.frames)

/-! ## Encoding, steps, reset and invariants -/

/-- Decoding and encoding agree (R118, R119, R126, R130, R134, R135): a well-formed instruction is read back from its word with every
field, every word is the word of what it decodes to, and the 12 bytes of a word in memory order decode to it. -/
def Obligations.decoding_and_encoding_agree : Prop :=
  (∀ (i : Instr) (w : InstrWord), WellFormed i = true → encode i = some w → decodeWord w = i) ∧
  (∀ w : InstrWord, encode (decodeWord w) = some w) ∧
  (∀ (w : InstrWord) (rest : List Byte), decode (toBytes 12 w.toNat ++ rest) = .ok (decodeWord w, rest))

/-- Words written out from the encodings of R119, R126, R130 and R134 decode to the instructions they stand for. -/
def Obligations.sample_words_decode : Prop :=
  let f0 : SFields := ⟨false, 0, .vec, 0, .vec, 0, .vec, 0, false, false, 0, 0, 0⟩
  -- class 00, opcode 0x40, gs 0, guard p0, dc 00, dst 10, ac 00, A 8, bc 00, B 9, ae 1
  decodeWord (0b00#2 ++ 0x40#8 ++ 0b0#1 ++ 0#4 ++ 0b00#2 ++ 10#11 ++ 0b00#2 ++ 8#11 ++ 0b00#2 ++ 9#11 ++ 0b1#1 ++ 0b0#1 ++ 0#12 ++ 0#6 ++ 0#22) =
    .fadd { f0 with dst := 10, a := 8, b := 9, ae := true } ∧
  -- class 00, opcode 0x01, gs 1, guard p3, dc 01, dst 7, ac 01, A 4, bc 11, B 0, imm -2
  decodeWord (0b00#2 ++ 0x01#8 ++ 0b1#1 ++ 3#4 ++ 0b01#2 ++ 7#11 ++ 0b01#2 ++ 4#11 ++ 0b11#2 ++ 0#11 ++ 0b0#1 ++ 0b0#1 ++ 0#12 ++ 0#6 ++ 0x3FFFFE#22) =
    .iadd { f0 with gs := true, guard := 3, dc := .scl, dst := 7, ac := .scl, a := 4, bc := .imm, imm := 0x3FFFFE } ∧
  -- class 01: FMA v9, v2, v3 beside IADD v12, v4, v5 under p2
  decodeWord (0b01#2 ++ 0x04#5 ++ 0#4 ++ 9#11 ++ 2#11 ++ 3#11 ++ 0#5 ++ 0x08#5 ++ 2#4 ++ 12#11 ++ 4#11 ++ 5#11 ++ 0#5) =
    .pairWord { op := .fma, guard := 0, dst := 9, a := 2, b := 3, mod := 0 } { op := .iadd, guard := 2, dst := 12, a := 4, b := 5, mod := 0 } ∧
  -- class 10, kind 00
  decodeWord (0b10#2 ++ 0b00#2 ++ 0#28 ++ 0x123456789ABCDEF0#64) = .lit 0 0x123456789ABCDEF0 ∧
  -- class 11, opcode 0x0C: OWNSET s3, s4, s5, #0x3005
  decodeWord (0b11#2 ++ 0x0C#8 ++ 0b0#1 ++ 0#4 ++ 0b01#2 ++ 3#11 ++ 0b01#2 ++ 4#11 ++ 0b01#2 ++ 5#11 ++ 0b0#1 ++ 0b0#1 ++ 0#12 ++ 0#6 ++ 0x3005#22) =
    .ownset { f0 with dc := .scl, dst := 3, ac := .scl, a := 4, bc := .scl, b := 5, imm := 0x3005 } ∧
  -- the all-zero word
  decodeWord 0 = .undefinedEncoding 0

/-- A step carries out the word a unit selects (R11, R143, R144): when it is the turn of a unit that may issue, with no late fault, halt
request or first-word check in the way, the step is the meaning of the instruction its bytes decode to, with the turn noted. The bytes
are those of the entry that was selected and could not issue, or else of the entry judged first, where they are present. With nothing on the agenda the same holds of the next unit of the round;
an event of the agenda is carried out by its own meaning.
The model's own readings and choices it rests on: log entries 11, 12 and 89. -/
def Obligations.a_step_runs_the_decoded_word : Prop :=
  (∀ (s s0 s1 s2 : State) (fid ui pc : Nat) (c : IssueCtx) (bs rest : List Byte) (i : Instr), s.chip.boot.halt = false →
    s0 = { s with now := s.now + 1, cur := none } →
    ((∃ ts, s.agenda = .issue fid ui :: ts ∧ s1 = { s0 with agenda := ts }) ∨
      (s.agenda = [] ∧ s0.nextTurn = some (.issue fid ui) ∧ s1 = { s0 with round := s.round + 1 })) →
    s1.standing fid ui = some c → mayIssue c = true → c.u.late = [] → (c.fr.haltReq = false ∨ c.u.haltWord = none) →
    (c.u.fresh = false ∨ s1.before c c.e.pc = .clear) → s1.select c = .word pc bs s2 → decode bs = .ok (i, rest) →
    step s = exec i { s2 with cur := some { frame := fid, unit := ui, pc := pc } }) ∧
  (∀ (s : State) (c : IssueCtx) (bs : List Byte), c.u.blocked = none → s.fetchAt c c.e.pc = .bytes bs → s.select c = .word c.e.pc bs s) ∧
  (∀ (s : State) (c : IssueCtx) (e : Entry) (bs : List Byte), oneEntryPerWord c.u.frontier → e ∈ c.u.frontier → c.u.blocked = some e.pc →
    s.fetchAt { c with e := e } e.pc = .bytes bs → s.select c = .word e.pc bs s) ∧
  (∀ (s : State) (i : Instr) (ts : List Turn), s.chip.boot.halt = false → s.agenda = .event i :: ts → encode i = none →
    step s = exec i { s with now := s.now + 1, cur := none, agenda := ts })

/-- Reset (R29, R75, R94, R102, R357, R363, R392, R404): BOOTST reads 0x00 in every field, every bay is FREE with a block of zeros, empty
queues and a PTO of 100 with every feature kept, every granule is unowned, no sill is set, and nothing is resident or in flight; the
invariant of every step holds. -/
def Obligations.reset_leaves_the_stated_values : Prop :=
  let z := State.reset
  z.chip.boot = { stage := 0, err := 0, svn := 0, recov := false, halt := false, ready := false } ∧
  (∀ b < 13, (z.bay b).state = .free ∧ (z.bay b).block = List.replicate 8 0 ∧ (z.bay b).thbase = 0 ∧ (z.bay b).thctl = 0 ∧
    (z.bay b).tcls = 0 ∧ (z.bay b).device = [] ∧ (z.bay b).keys = [] ∧ (z.bay b).store = [] ∧ (z.bay b).ctl.base = 0 ∧ (z.bay b).ctl.pto = 100 ∧
    (z.bay b).ctl.key = 0 ∧ (z.bay b).ctl.importBit = false ∧ (z.bay b).ctl.graph = false ∧ (z.bay b).ctl.busy = false ∧
    (z.bay b).ctl.err = 0 ∧ (z.bay b).ctl.saved = 0 ∧ (z.bay b).ctl.fmaskLo = BitVec.allOnes 64 ∧ (z.bay b).ctl.fmaskHi = BitVec.allOnes 64 ∧
    ∀ q ≤ 16, ∃ k, (z.bay b).queue? (queueOf q) = some k ∧ k.en = false ∧ k.base = 0 ∧ k.msiv = 0 ∧ k.log2n = 0 ∧ k.irqRef = false ∧
      k.irqCmp = false ∧ k.head = 0 ∧ k.tail = 0 ∧ k.statValid = false ∧ k.statMore = false ∧ k.statIndex = 0 ∧ k.statCause = 0) ∧
  z.groups.length = 7 ∧ (∀ g ∈ z.groups, g.entries = List.replicate 8 0 ∧ g.running = false) ∧
  (∀ a, z.ownerEntry a = 0xF000) ∧ (∀ l, z.sill l = 0) ∧ z.mem.poison = [] ∧
  z.chip.dom = { busy := false, mode := false, err := 0, seqpkg := 0, pkgnum := 0 } ∧ z.chip.vfbind = [] ∧ z.chip.mclog = [] ∧
  z.chip.mcCount = 0 ∧ z.chip.attest = [] ∧ z.chip.stkey = 0 ∧
  z.nodes = [] ∧ z.frames = [] ∧ z.ops = [] ∧ z.jobs = [] ∧ z.matq = [] ∧ State.Inv z

/-- Every step of every state keeps the invariant: a FREE bay holds a block of zeros (R94), memory keeps its canonical form, and there stay 12 bays
beside the steward core (R93) and 7 slice groups (R102). The canonical form of memory is the model's own shape of its data. -/
def Obligations.every_step_keeps_the_invariant : Prop :=
  ∀ s t : State, State.Inv s → step s = .next t → State.Inv t

/-! ## Words between registers (R190 to R236) -/

/-- The words of R194, without division: each element of the result stands in the word's relation to the elements of its sources (R195,
R196, R200 to R203). -/
def Obligations.integer_words_follow_their_rules : Prop :=
  ∀ row ∈ arithRows ++ saturatingRows ++ logicRows ++ fieldRows ++ bitRows, row.does

/-- The other words of chapter 10 (R197 to R199, R204 to R214).
The model's own readings and choices it rests on: log entries 35, 69, 85, 111 and 112. -/
def Obligations.register_words_follow_their_rules : Prop :=
  (∀ row ∈ [extRow true, extRow false, carryRow true, carryRow false, dotRow 4 8, dotRow 2 16, cmpRow true, cmpRow false, plopRow, psetRow,
    pgetRow, movRow, selRow, leaRow, movsReadRow, movsWriteRow], row.does) ∧
  (∀ row ∈ divRows, row.doesLong) ∧ (∀ s, (capqRow s).doesLongAt s) ∧ fmtqRow.doesLong

/-- The FP32 words (R175 to R180, R217 to R221): one rounding of the exact result in every mode, of FSQRT and FRSQ too, whose roots are
compared by their squares; FDIV, FSQRT, FRCP, FRSQ and the functions of R219 as long-latency producers, the five functions FEXP2, FLOG2,
FSIN, FCOS and FTANH on the operands for which R177 and R219 name an exact result.
The model's own readings and choices it rests on: log entries 20, 46 and 118. -/
def Obligations.fp_words_follow_their_rules : Prop :=
  (∀ row ∈ fpArithRows ++ fpExactRows ++ [fldexpRow], row.does) ∧ (∀ row ∈ fpLongRows ++ fpElemRows, row.doesLong) ∧
  (∀ (rm : RMode) (sat neg : Bool) (rnd n d : Nat) (e : Int), rm ≠ .sr → 0 < d →
    ∃ m, (fp32.round rm sat rnd (.fin neg n d e)).1 = signedEnc neg m ∧ choosesMag rm sat neg ((n : Rat) / d * pow2 e) m)

/-- Compare, classify, convert, with the capture of AMAX, pack and the words across lanes, with the log-step tree of LRED (R222 to R236); and
the vendor images, on which conversions rest: each decodes and rounds as its table says, in every mode (R60 to R63).
The model's own readings and choices it rests on: log entries 22, 35, 38, 104 and 118. -/
def Obligations.conversion_and_lane_words_follow_their_rules : Prop :=
  (∀ row ∈ [fcmpRow, fclassRow, cvtRow false, cvtRow true, packRow, unpackRow, scalebRow, shflRow 0, shflRow 1, shflRow 2, shflRow 3, bcstRow,
    voteRow, electRow, pscanRow, lredRow], row.does) ∧
  vendorFormatsHold

/-- The frame of the words between registers (R121, R147, R162, R165): registers that are no destination, inactive lanes, the special,
trap and control registers of the unit and every other part of the machine keep their values; FPX only gains flags. MOVS writing
changes no register but the special one it names.
The model's own readings and choices it rests on: log entry 35. -/
def Obligations.register_words_keep_everything_else : Prop :=
  (∀ row ∈ shortRows, ∀ (s : State) (c : IssueCtx) (f : SFields), s.wordIssues c row.form f →
    let x := c.issue row.form f
    row.pre s c x → ∃ t u, exec (row.word f) s = .next t ∧ t.unit? c.fid c.ui = some (c.passed u) ∧ s.keepsRest t c ∧
      keepsOthers row.form f x c.u u ∧ keepsSpecials x (seedRods row.form x) c.u u) ∧
  (∀ (s : State) (c : IssueCtx) (f : SFields), s.wordIssues c formMovsWrite f →
    let x := c.issue formMovsWrite f
    movsWriteRow.pre s c x → ∃ t u, exec (.movsWrite f) s = .next t ∧ t.unit? c.fid c.ui = some (c.passed u) ∧ s.keepsRest t c ∧
      keepsOthers formMovsWrite f x c.u u ∧ ∀ i ∉ x.rods, u.rod i = c.u.rod i) ∧
  (∀ (s : State), ∀ row ∈ longRows s, ∀ (c : IssueCtx) (f : SFields), s.wordIssues c row.form f →
    let x := c.issue row.form f
    ∃ t u, exec (row.word f) s = .next t ∧ t.unit? c.fid c.ui = some (c.passed u) ∧
      s.keepsRest { t with producers := s.producers, nextId := s.nextId } c ∧ keepsSpecials x (seedRods row.form x) c.u u ∧
      (∀ i, (u.rod i).fpx = (c.u.rod i).fpx) ∧
      ∀ p, SMap.find t.producers s.nextId = some p → takesEffect row.form f x = true →
        keepsOthers row.form f x c.u (c.u.apply p.effect) ∧ keepsSpecials x [] c.u (c.u.apply p.effect))

/-- A write to s0 or to p0 is discarded, and they read zero and ones (R121); an effect writes the lanes and rods it names. -/
def Obligations.hard_wired_registers_hold : Prop :=
  ∀ (u : RodUnit),
    u.pred 0 = BitVec.allOnes 64 ∧ (∀ i, (u.rod i).scl 0 = 0) ∧
    (∀ (i : Nat) (v : BitVec 64) (p : Bool), u.applyWrite (.scl i 0 v p) = u) ∧
    (∀ (l : Nat) (v p : Bool), u.applyWrite (.prd 0 l v p) = u) ∧
    (∀ (r l : Nat) (v : BitVec 32) (p : Bool) (r' l' : Nat), l < 64 → l' < 64 →
      (u.applyWrite (.vec r l v p)).vec r' l' = if r = r' ∧ l = l' then v else u.vec r' l') ∧
    (∀ (i n : Nat) (v : BitVec 64) (p : Bool) (i' n' : Nat), i < u.rods.length → n ≠ 0 →
      ((u.applyWrite (.scl i n v p)).rod i').scl n' = if i = i' ∧ n = n' then v else (u.rod i').scl n') ∧
    (∀ (q l : Nat) (v p : Bool) (q' l' : Nat), l < 64 → l' < 64 → q ≠ 0 →
      ((u.applyWrite (.prd q l v p)).pred q').getLsbD l' = if q = q' ∧ l = l' then v else (u.pred q').getLsbD l')

/-- Flags (R170, R173, R187, R228): a saturating word sets FPX.SAT in exactly the rods in which an element is clamped, and no other flag,
without counting it; a division, which no operand
makes trap, has R173's result and sets DZ, and no other flag, for a divisor of zero, when it completes; FADD and FMUL set NV for an invalid case whose operands are no NaN.
The model's own readings and choices it rests on: log entry 118. -/
def Obligations.flags_follow_the_results : Prop :=
  (∀ (sub sgn : Bool) (s : State) (c : IssueCtx) (f : SFields), s.wordIssues c formInt2 f →
    let word : SFields → Instr := if sub then (if sgn then .isubs else .usubs) else (if sgn then .iadds else .uadds)
    let x := c.issue formInt2 f
    let e := (SFields.shape f).1
    let n := (SFields.shape f).2
    let val (v : BitVec e) : Int := if sgn then v.toInt else v.toNat
    let out (l i : Nat) : Prop :=
      let a := val (elemAt e i (x.srcA (e * n) l).1)
      let b := val (elemAt e i (x.srcB (e * n) (immLane e n f) l).1)
      let t := if sub then a - b else a + b
      if sgn then t < -(2 ^ (e - 1) : Nat) ∨ ((2 ^ (e - 1) : Nat) : Int) ≤ t else t < 0 ∨ ((2 ^ e : Nat) : Int) ≤ t
    ∃ t u, exec (word f) s = .next t ∧ t.unit? c.fid c.ui = some (c.passed u) ∧
      ∀ r < c.u.rods.length,
        (∀ k, k ≠ 5 → (u.rod r).fpx.getLsbD k = (c.u.rod r).fpx.getLsbD k) ∧
        ((u.rod r).fpx.getLsbD 5 = true ↔ (c.u.rod r).fpx.getLsbD 5 = true ∨
          (f.dc ≠ .scl ∧ ∃ l ∈ x.lanes, rodOfLane x.width l = r ∧ ∃ i < n, out l i) ∨ (f.dc = .scl ∧ r ∈ x.rods ∧ out (x.laneOfRod r) 0)) ∧
        ((c.u.rod r).satcnt.toNat < 2 ^ 32 → (u.rod r).satcnt = (c.u.rod r).satcnt)) ∧
  (∀ row ∈ divRows, ∀ (s : State) (c : IssueCtx) (f : SFields), s.wordIssues c formIdiv f →
    let x := c.issue formIdiv f
    let zero (l : Nat) : Prop := elemAt (SFields.shape f).1 0 (x.srcB (SFields.shape f).1 f.simm l).1 = 0
    takesEffect formIdiv f x = true →
    ∃ t p, exec (row.word f) s = .next t ∧ SMap.find t.producers s.nextId = some p ∧ p.ready = true ∧ row.post x (c.u.apply p.effect) ∧
      ∀ r < c.u.rods.length,
        (∀ k, k ≠ 3 → ((c.u.apply p.effect).rod r).fpx.getLsbD k = (c.u.rod r).fpx.getLsbD k) ∧
        (((c.u.apply p.effect).rod r).fpx.getLsbD 3 = true ↔ (c.u.rod r).fpx.getLsbD 3 = true ∨
          (f.dc ≠ .scl ∧ ∃ l ∈ x.lanes, rodOfLane x.width l = r ∧ zero l) ∨ (f.dc = .scl ∧ r ∈ x.rods ∧ zero (x.laneOfRod r)))) ∧
  (∀ (mul : Bool) (s : State) (c : IssueCtx) (f : SFields), s.wordIssues c formFp2 f → f.dc = .vec →
    let x := c.issue formFp2 f
    let bad (l : Nat) : Prop :=
      let a := fpExt (x.srcA 32 l).1
      let b := fpExt (x.srcB 32 (fpImmOf f) l).1
      a ≠ .nan ∧ b ≠ .nan ∧ (if mul then a.mul b else a.add x.rm b) = .nan
    ∃ t u, exec (if mul then .fmul f else .fadd f) s = .next t ∧ t.unit? c.fid c.ui = some (c.passed u) ∧
      ∀ r < c.u.rods.length, (u.rod r).fpx.getLsbD 4 = true ↔
        (c.u.rod r).fpx.getLsbD 4 = true ∨ ∃ l ∈ x.lanes, rodOfLane x.width l = r ∧ bad l)

/-! ## Traps and words that do not issue (R136, R166, R258, R381 to R388) -/

/-- Taking a trap (R381, R384, R385, R387, R388): a frame-level trap whose class the bay's handler takes enters the handler, with the trap
record written (a fetch beyond the last word is reported where no word is, R156), the frontier and EXM held aside, and one entry of every live lane at HENTRY under HPRI; the unit then runs at
supervisor level. A trap inside the handler ends the frame with 0x3C2; any other that no handler takes ends it with its own cause, the
first of them standing.
The model's own readings and choices it rests on: log entries 40, 42 and 43. -/
def Obligations.traps_enter_the_handler_or_end_the_frame : Prop :=
  ∀ (s : State) (fid ui : Nat) (fr : Frame) (u : RodUnit) (e : Entry) (tr : TrapInfo), s.frame? fid = some fr → fr.unit? ui = some u →
    let b := s.bay fr.bay
    let cls : Option Nat := if 0x3F0 ≤ tr.cause ∨ tr.cause = 0x3C2 then none
      else if tr.cause < 0x080 then some 1 else if tr.cause < 0x100 then some 2 else if tr.cause < 0x180 then some 3
      else if tr.cause < 0x200 then some 4 else if tr.cause < 0x280 then some 5 else if tr.cause < 0x300 then some 6
      else if tr.cause < 0x340 then some 7 else if tr.cause < 0x380 then some 8 else if tr.cause < 0x3C0 then some 9 else some 10
    let entry := (b.thctl.extractLsb' 40 24).toNat
    let words := (b.thctl.extractLsb' 0 24).toNat
    let takes : Prop := u.handler = none ∧ fr.level = 0 ∧ (∃ k, cls = some k ∧ b.tcls.getLsbD k = true) ∧ entry < words
    let t := s.takeTrap fid ui e tr
    let beyond : Prop := tr.cause = 0x080 ∧ tr.byTrap = false
    let pc : Nat := match u.transom with
      | some x => if beyond then e.pc else x.pc
      | none => e.pc
    let lane := tr.lane.getD (lowestLane e.lanes)
    t.mem = s.mem ∧ t.ops = s.ops ∧ t.producers = s.producers ∧ t.jobs = s.jobs ∧ t.matq = s.matq ∧ t.bays = s.bays ∧ t.nodes = s.nodes ∧
    (∀ k, k ≠ fid → t.frame? k = s.frame? k) ∧
    (¬ takes → t.frame? fid = some { fr with term := some (fr.term.getD (if u.handler = none then tr.cause else 0x3C2)) }) ∧
    (takes → ∃ v h, t.frame? fid = some (fr.setUnit ui v) ∧ v.handler = some h ∧ h.held = u.frontier ∧ h.heldExm = u.rods.map (·.exm) ∧
      h.tlanes = e.lanes ∧ h.thbase = b.thbase ∧ h.hwords = words ∧
      h.tpc.extractLsb' 0 24 = BitVec.ofNat 24 pc ∧ h.tpc.extractLsb' 24 8 = e.pri ∧
      h.tpc.extractLsb' 32 2 = (if ¬ beyond ∧ (u.transom.isSome = true ∨ tr.atTransom = true) then 2 else 1) ∧ h.tpc.extractLsb' 34 30 = 0 ∧
      v.frontier = [{ pc := entry, pri := b.thctl.extractLsb' 32 8, lanes := liveLanes u.frontier }] ∧ v.transom = none ∧
      v.vregs = u.vregs ∧ v.preds = u.preds ∧ v.vEmpty = u.vEmpty ∧ v.pEmpty = u.pEmpty ∧ v.rods.length = u.rods.length ∧
      (∀ i < u.rods.length, (v.rod i).exm = lowLanes fr.width ∧ (v.rod i).sregs = (u.rod i).sregs ∧ (v.rod i).fpx = (u.rod i).fpx ∧
        (v.rod i).tscr0 = (u.rod i).tscr0 ∧ (v.rod i).tscr1 = (u.rod i).tscr1 ∧
        (i ≠ rodOfLane fr.width lane → (v.rod i).tcause = 0 ∧ (v.rod i).taddr = 0) ∧
        (i = rodOfLane fr.width lane → (v.rod i).taddr = tr.taddr ∧
          (v.rod i).tcause.extractLsb' 0 10 = BitVec.ofNat 10 tr.cause ∧ (v.rod i).tcause.extractLsb' 10 8 = 0 ∧
          (v.rod i).tcause.extractLsb' 18 24 = BitVec.ofNat 24 (tr.widx.getD pc) ∧
          (v.rod i).tcause.extractLsb' 42 10 = BitVec.ofNat 10 tr.inner ∧
          (v.rod i).tcause.extractLsb' 52 6 = BitVec.ofNat 6 (logicalLane fr.width lane) ∧
          (v.rod i).tcause.extractLsb' 58 2 = BitVec.ofNat 2 tr.opnd ∧ (v.rod i).tcause.getLsbD 60 = tr.half ∧
          (v.rod i).tcause.getLsbD 61 = tr.more ∧ (v.rod i).tcause.getLsbD 62 = tr.byTrap ∧ (v.rod i).tcause.getLsbD 63 = tr.imp)))

/-- Words that do not issue (R118, R127, R130, R134 to R137, R166, R258): a word that names no instruction traps with the cause its class gives,
whatever its guard; a word that fails a check traps with the cause of the first it fails, a system word below its level with 0x3C1; a
source with empty behaviour 1 that is empty traps with 0x110, a scalar's in the first logical rod whose copy is empty; any other
empty register holds the word back, which stays selected, with nothing else changed but the count of FEWAIT; a poisoned guard traps with 0x3F0.
The model's own readings and choices it rests on: log entries 32, 33, 34, 37, 87, 102, 103 and 106. -/
def Obligations.words_that_do_not_issue : Prop :=
  (∀ (s : State) (c : IssueCtx) (w : InstrWord), s.issuing = some c →
    let k : Nat := match (w.extractLsb' 94 2).toNat with
      | 0 => if w.extractLsb' 86 8 = 0 then 0x001 else 0x002
      | 1 => 0x009
      | 2 => 0x006
      | _ => 0x002
    ∃ tr : TrapInfo, tr.cause = k ∧ exec (.undefinedEncoding w) s = .next (s.takeTrap c.fid c.ui c.e tr)) ∧
  (∀ (s : State) (c : IssueCtx) (h0 h1 : Half) (tr : TrapInfo), s.issuing = some c →
    checkPair (s.checkCtx c) c.u.transom h0 h1 = some tr → exec (.pairWord h0 h1) s = .next (s.takeTrap c.fid c.ui c.e tr)) ∧
  (∀ (s : State) (c : IssueCtx) (r : BitVec 28) (p : BitVec 64), s.issuing = some c →
    let bad : Prop := (p.extractLsb' 41 7) &&& 0x45 = 0 ∧ p.getLsbD 36 = false ∨ p.getLsbD 47 = true ∧ 5 ≤ (p.extractLsb' 44 3).toNat
    (bad → exec (.ovr r p) s = .next (s.takeTrap c.fid c.ui c.e { cause := 0x006, atTransom := true })) ∧
    (r ≠ 0 → exec (.lit r p) s = .next (s.takeTrap c.fid c.ui c.e { cause := 0x003, atTransom := true })) ∧
    (c.u.transom ≠ none → exec (.lit 0 p) s = .next (s.takeTrap c.fid c.ui c.e { cause := 0x005, atTransom := true }))) ∧
  (∀ (i : Instr) (g fm : Form) (f : SFields) (s : State) (c : IssueCtx), formOf i = some (g, f) → s.issuing = some c →
    fm = (if i = .movpWrite f then s.movpForm else g) →
    let rods := rodsInEntry c.fr.width c.u c.e.lanes
    let uses := fm.regs f ++ fm.moreRegs c.fr.width f
    let isEmpty (r : RegUse) : Prop := ∃ n ∈ r.nums, c.u.isEmpty rods r.cls n = true
    let guardEmpty : Prop := c.u.isEmpty rods .prd f.guard.toNat = true
    (∀ tr, checkWord (s.checkCtx c) fm c.u.transom f = some tr → exec i s = .next (s.takeTrap c.fid c.ui c.e tr)) ∧
    (fm.ok4 c.level f = false → exec i s = .next (s.takeTrap c.fid c.ui c.e { cause := 0x003 })) ∧
    (fm.ok4 c.level f = true → fm.rounds f = true → 5 ≤ (f.mod.extractLsb' 0 3).toNat →
      exec i s = .next (s.takeTrap c.fid c.ui c.e { cause := 0x343 })) ∧
    (fm.ok4 c.level f = true → fm.rounds f = false → fm.ok6 (litOf c.u.transom).isSome f = true →
      (∀ k ∈ neededFeatures fm c.u.transom f, k < 128 → (s.features c.fr.bay).getLsbD k = true) → c.level < fm.level f →
      exec i s = .next (s.takeTrap c.fid c.ui c.e { cause := 0x3C1 })) ∧
    (checkWord (s.checkCtx c) fm c.u.transom f = none →
      (∀ r, uses.find? (fun r => r.rd && r.nb && r.nums.any (fun n => c.u.isEmpty rods r.cls n)) = some r →
        let lane := if r.cls = .scl then (rods.find? (fun k => r.nums.any (fun n => c.u.isEmpty [k] r.cls n))).map c.rodLane else none
        exec i s = .next (s.takeTrap c.fid c.ui c.e { cause := 0x110, opnd := r.pos, lane := lane })) ∧
      ((∀ r ∈ uses, ¬ (r.rd = true ∧ r.nb = true ∧ isEmpty r)) → ((∃ r ∈ uses, isEmpty r) ∨ guardEmpty) →
        exec i s = .next ((s.modUnit c.fid c.ui (fun u => { u with blocked := some c.e.pc })).count c.fr.bay 2 1)) ∧
      ((∀ r ∈ uses, ¬ isEmpty r) → ¬ guardEmpty → ∀ l, guardPoison c.fr.width c.u c.e (fm.uniform f) f.guard.toNat = some l →
        exec i s = .next (s.takeTrap c.fid c.ui c.e { cause := 0x3F0, lane := some l }))))
end

