-- ==== Sys2Proof/Laws/Maps.lean ====
section
/-! SUPPORT. The laws of finite maps and of lists of numbers in canonical form: reading after a write, other keys, and that every
operation keeps the form. -/

namespace Sys2Proof.Machine

variable {α : Type}

/-! ## Keys above a bound -/

theorem above_mono {b c : Nat} (h : c ≤ b) : ∀ {m : SMap α}, SMap.above b m = true → SMap.above c m = true
  | [], _ => rfl
  | (k, v) :: m, hm => by
    simp only [SMap.above, Bool.and_eq_true, decide_eq_true_eq] at hm ⊢
    exact ⟨by omega, above_mono h hm.2⟩

theorem get_of_above {d : α} {b k : Nat} (hk : k ≤ b) : ∀ {m : SMap α}, SMap.above b m = true → SMap.get d m k = d
  | [], _ => rfl
  | (k', v) :: m, hm => by
    simp only [SMap.above, Bool.and_eq_true, decide_eq_true_eq] at hm
    have h1 : ¬ k = k' := by omega
    simp only [SMap.get, if_neg h1]
    exact get_of_above hk hm.2

/-! ## Reading after a write -/

theorem get_put_same (d : α) (k : Nat) (v : α) : ∀ m : SMap α, SMap.get d (SMap.put m k v) k = v
  | [] => by simp [SMap.put, SMap.get]
  | (k', v') :: m => by
    simp only [SMap.put]
    split
    · simp [SMap.get]
    · split
      · simp [SMap.get]
      · rename_i h1 h2
        simp only [SMap.get, if_neg h1]
        exact get_put_same d k v m

theorem get_put_other (d : α) {k j : Nat} (v : α) (h : j ≠ k) : ∀ m : SMap α, SMap.get d (SMap.put m k v) j = SMap.get d m j
  | [] => by simp [SMap.put, SMap.get, h]
  | (k', v') :: m => by
    have ih := get_put_other d v h m
    simp only [SMap.put]
    split
    · subst k'; simp only [SMap.get, if_neg h]
    · split
      · simp only [SMap.get, if_neg h]
      · simp only [SMap.get, ih]

theorem get_drop_other (d : α) {k j : Nat} (h : j ≠ k) : ∀ m : SMap α, SMap.get d (SMap.drop m k) j = SMap.get d m j
  | [] => rfl
  | (k', v') :: m => by
    have ih := get_drop_other d h m
    simp only [SMap.drop] at ih ⊢
    by_cases e : k' = k
    · subst e; simp [SMap.get, h, ih]
    · simp [SMap.get, e, ih]

theorem get_drop_same (d : α) (k : Nat) : ∀ m : SMap α, SMap.get d (SMap.drop m k) k = d
  | [] => rfl
  | (k', v') :: m => by
    have ih := get_drop_same d k m
    simp only [SMap.drop] at ih ⊢
    by_cases e : k' = k
    · subst e; simp [ih]
    · simp [SMap.get, e, Ne.symm e, ih]

@[simp] theorem get_set_same [DecidableEq α] (d : α) (k : Nat) (v : α) (m : SMap α) : SMap.get d (SMap.set d m k v) k = v := by
  unfold SMap.set
  split
  · rename_i hv; rw [hv]; exact get_drop_same d k m
  · exact get_put_same d k v m

theorem get_set_other [DecidableEq α] (d : α) {k j : Nat} (v : α) (hj : j ≠ k) (m : SMap α) :
    SMap.get d (SMap.set d m k v) j = SMap.get d m j := by
  unfold SMap.set
  split
  · exact get_drop_other d hj m
  · exact get_put_other d v hj m

theorem get_set [DecidableEq α] (d : α) (k j : Nat) (v : α) (m : SMap α) :
    SMap.get d (SMap.set d m k v) j = if j = k then v else SMap.get d m j := by
  split
  · rename_i h; subst h; exact get_set_same d j v m
  · rename_i h; exact get_set_other d v h m

/-! ## Every operation keeps the form -/

theorem above_put {b k : Nat} {v : α} (hk : b < k) : ∀ {m : SMap α}, SMap.above b m = true → SMap.above b (SMap.put m k v) = true
  | [], _ => by simp [SMap.put, SMap.above, hk]
  | (k', v') :: m, hm => by
    have hm' := hm
    simp only [SMap.above, Bool.and_eq_true, decide_eq_true_eq] at hm'
    simp only [SMap.put]
    split
    · simp [SMap.above, hk, hm'.2]
    · split
      · simp [SMap.above, hk, hm'.1, hm'.2]
      · simp [SMap.above, hm'.1, above_put hk hm'.2]

theorem rising_put {k : Nat} {v : α} : ∀ {m : SMap α}, SMap.rising m = true → SMap.rising (SMap.put m k v) = true
  | [], _ => rfl
  | (k', v') :: m, hm => by
    have hm' := hm
    simp only [SMap.rising, Bool.and_eq_true] at hm'
    simp only [SMap.put]
    split
    · subst k'; simpa [SMap.rising] using hm'
    · split
      · rename_i h1 h2
        simp only [SMap.rising, SMap.above, Bool.and_eq_true, decide_eq_true_eq]
        exact ⟨⟨h2, above_mono (by omega) hm'.1⟩, hm'⟩
      · simp only [SMap.rising, Bool.and_eq_true]
        exact ⟨above_put (by omega) hm'.1, rising_put hm'.2⟩

theorem wf_put [DecidableEq α] {d : α} {k : Nat} {v : α} (hv : v ≠ d) :
    ∀ {m : SMap α}, SMap.wf d m = true → SMap.wf d (SMap.put m k v) = true
  | [], _ => by simp [SMap.put, SMap.wf, SMap.above, hv]
  | (k', v') :: m, hm => by
    have hm' := hm
    simp only [SMap.wf, Bool.and_eq_true, decide_eq_true_eq] at hm'
    simp only [SMap.put]
    split
    · subst k'; simp [SMap.wf, hv, hm'.1.2, hm'.2]
    · split
      · rename_i h1 h2
        have h3 := above_mono (Nat.le_of_lt h2) hm'.1.2
        simp [SMap.wf, SMap.above, hv, h2, h3, hm'.1.1, hm'.1.2, hm'.2]
      · rename_i h1 h2
        have h3 : k' < k := by omega
        simp [SMap.wf, hm'.1.1, above_put h3 hm'.1.2, wf_put hv hm'.2]

theorem above_filter {b : Nat} (p : Nat × α → Bool) : ∀ {m : SMap α}, SMap.above b m = true → SMap.above b (m.filter p) = true
  | [], _ => rfl
  | (k, v) :: m, hm => by
    simp only [SMap.above, Bool.and_eq_true, decide_eq_true_eq] at hm
    simp only [List.filter]
    split
    · simp [SMap.above, hm.1, above_filter p hm.2]
    · exact above_filter p hm.2

/-- Removing entries keeps the canonical form. -/
theorem wf_filter [DecidableEq α] {d : α} (p : Nat × α → Bool) :
    ∀ {m : SMap α}, SMap.wf d m = true → SMap.wf d (m.filter p) = true
  | [], _ => rfl
  | (k, v) :: m, hm => by
    simp only [SMap.wf, Bool.and_eq_true, decide_eq_true_eq] at hm
    simp only [List.filter]
    split
    · simp [SMap.wf, hm.1.1, above_filter p hm.1.2, wf_filter p hm.2]
    · exact wf_filter p hm.2

theorem wf_drop [DecidableEq α] {d : α} {k : Nat} {m : SMap α} (h : SMap.wf d m = true) : SMap.wf d (SMap.drop m k) = true :=
  wf_filter _ h

/-- A write keeps the canonical form. -/
theorem wf_set [DecidableEq α] {d : α} {k : Nat} {v : α} {m : SMap α} (h : SMap.wf d m = true) :
    SMap.wf d (SMap.set d m k v) = true := by
  unfold SMap.set
  split
  · exact wf_drop h
  · rename_i hv; exact wf_put hv h

/-- What holds of every entry, and of the one put, holds of every entry after. -/
theorem all_put (P : Nat × α → Bool) {k : Nat} {v : α} (hv : P (k, v) = true) :
    ∀ {m : SMap α}, m.all P = true → (SMap.put m k v).all P = true
  | [], _ => by simp [SMap.put, hv]
  | (k', v') :: m, h => by
    simp only [List.all_cons, Bool.and_eq_true] at h
    simp only [SMap.put]
    split
    · simp [hv, h.2]
    · split
      · simp [hv, h.1, h.2]
      · simp [h.1, all_put P hv h.2]

/-- The same of a write, whose default value removes an entry. -/
theorem all_set [DecidableEq α] (d : α) (P : Nat × α → Bool) {k : Nat} {v : α} (hv : v ≠ d → P (k, v) = true) {m : SMap α}
    (h : m.all P = true) : (SMap.set d m k v).all P = true := by
  unfold SMap.set SMap.drop
  split
  · simp only [List.all_eq_true, List.mem_filter] at h ⊢
    exact fun x hx => h x hx.1
  · rename_i hne
    exact all_put P (hv hne) h

/-- Two canonical maps that read alike everywhere are equal. -/
theorem wf_ext [DecidableEq α] {d : α} : ∀ {m n : SMap α}, SMap.wf d m = true → SMap.wf d n = true →
    (∀ k, SMap.get d m k = SMap.get d n k) → m = n
  | [], [], _, _, _ => rfl
  | [], (k, v) :: n, _, hn, h => by
    simp only [SMap.wf, Bool.and_eq_true, decide_eq_true_eq] at hn
    have := h k
    simp [SMap.get] at this
    exact absurd this.symm hn.1.1
  | (k, v) :: m, [], hm, _, h => by
    simp only [SMap.wf, Bool.and_eq_true, decide_eq_true_eq] at hm
    have := h k
    simp [SMap.get] at this
    exact absurd this hm.1.1
  | (k, v) :: m, (j, w) :: n, hm, hn, h => by
    simp only [SMap.wf, Bool.and_eq_true, decide_eq_true_eq] at hm hn
    have e : k = j := by
      have h1 := h k
      have h2 := h j
      simp only [SMap.get, if_true] at h1 h2
      rcases Nat.lt_trichotomy k j with hlt | heq | hgt
      · rw [if_neg (by omega), get_of_above (Nat.le_of_lt hlt) hn.1.2] at h1; exact absurd h1 hm.1.1
      · exact heq
      · rw [if_neg (by omega), get_of_above (Nat.le_of_lt hgt) hm.1.2] at h2; exact absurd h2.symm hn.1.1
    subst e
    have hv : v = w := by have := h k; simpa [SMap.get] using this
    subst hv
    have : m = n := wf_ext hm.2 hn.2 (fun i => by
      by_cases hi : i ≤ k
      · rw [get_of_above hi hm.1.2, get_of_above hi hn.1.2]
      · have := h i
        simp only [SMap.get] at this
        rwa [if_neg (by omega), if_neg (by omega)] at this)
    rw [this]

/-! ## Entries that may be absent -/

@[simp] theorem find_put_same (k : Nat) (v : α) : ∀ m : SMap α, SMap.find (SMap.put m k v) k = some v
  | [] => by simp [SMap.put, SMap.find]
  | (k', v') :: m => by
    simp only [SMap.put]
    split
    · simp [SMap.find]
    · split
      · simp [SMap.find]
      · rename_i h1 h2
        simp only [SMap.find, if_neg h1]
        exact find_put_same k v m

theorem find_put_other {k j : Nat} (v : α) (h : j ≠ k) : ∀ m : SMap α, SMap.find (SMap.put m k v) j = SMap.find m j
  | [] => by simp [SMap.put, SMap.find, h]
  | (k', v') :: m => by
    have ih := find_put_other v h m
    simp only [SMap.put]
    split
    · subst k'; simp only [SMap.find, if_neg h]
    · split
      · simp only [SMap.find, if_neg h]
      · simp only [SMap.find, ih]

theorem find_drop (k j : Nat) : ∀ m : SMap α, SMap.find (SMap.drop m k) j = if j = k then none else SMap.find m j
  | [] => by simp [SMap.drop, SMap.find]
  | (k', v') :: m => by
    have ih := find_drop k j m
    simp only [SMap.drop] at ih ⊢
    by_cases e : k' = k
    · subst e
      simp only [bne_self_eq_false, Bool.false_eq_true, not_false_eq_true, List.filter_cons_of_neg, ih, SMap.find]
      by_cases hj : j = k' <;> simp [hj]
    · have e' : (k' != k) = true := by simp [e]
      rw [List.filter_cons_of_pos (by simpa using e)]
      simp only [SMap.find, ih]
      by_cases hj : j = k'
      · subst hj; simp [e]
      · simp [hj]

@[simp] theorem find_modify (k j : Nat) (g : α → α) :
    ∀ m : SMap α, SMap.find (SMap.modify m k g) j = if j = k then (SMap.find m j).map g else SMap.find m j
  | [] => by simp [SMap.modify, SMap.find]
  | (k', v') :: m => by
    have ih := find_modify k j g m
    simp only [SMap.modify, List.map_cons] at ih ⊢
    by_cases h1 : j = k'
    · subst h1
      by_cases h2 : j = k
      · simp [SMap.find, h2]
      · simp [SMap.find, h2]
    · by_cases h2 : k' = k
      · simp only [h2, if_true, SMap.find]
        have a1 : ¬ j = k := h2 ▸ h1
        simp only [a1, if_false] at ih ⊢
        exact ih
      · simp only [h2, if_false, SMap.find, h1]
        exact ih

/-! ## Lists of numbers -/

@[simp] theorem memb_iff (x : Nat) (xs : List Nat) : memb x xs = true ↔ x ∈ xs := by
  simp [memb]

theorem mem_insertNum (x y : Nat) : ∀ xs : List Nat, y ∈ insertNum x xs ↔ y = x ∨ y ∈ xs
  | [] => by simp [insertNum]
  | z :: zs => by
    simp only [insertNum]
    split
    · simp
    · split
      · rename_i h1 h2
        have : x = z := by simpa using h2
        subst this
        simp
      · simp only [List.mem_cons, mem_insertNum x y zs]
        constructor
        · rintro (h | h | h) <;> simp [h]
        · rintro (h | h | h) <;> simp [h]

theorem mem_lanesOf (m : BitVec 64) (l : Nat) : l ∈ lanesOf m ↔ l < 64 ∧ m.getLsbD l = true := by
  simp [lanesOf]

end Sys2Proof.Machine
end

