-- ==== Sys2Proof/Laws/State.lean ====
section
/-! SUPPORT. What each update of the state leaves in each of its fields: one lemma per field and update, true by unfolding. -/

namespace Sys2Proof.Machine

variable (s : State)

@[simp] theorem State.modBay_chip (b : Nat) (g : Bay → Bay) : (s.modBay b g).chip = s.chip := rfl
@[simp] theorem State.modBay_mem (b : Nat) (g : Bay → Bay) : (s.modBay b g).mem = s.mem := rfl
@[simp] theorem State.modBay_cache (b : Nat) (g : Bay → Bay) : (s.modBay b g).cache = s.cache := rfl
@[simp] theorem State.modBay_host (b : Nat) (g : Bay → Bay) : (s.modBay b g).host = s.host := rfl
@[simp] theorem State.modBay_bays (b : Nat) (g : Bay → Bay) : (s.modBay b g).bays = s.bays.modify b g := rfl
@[simp] theorem State.modBay_groups (b : Nat) (g : Bay → Bay) : (s.modBay b g).groups = s.groups := rfl
@[simp] theorem State.modBay_nodes (b : Nat) (g : Bay → Bay) : (s.modBay b g).nodes = s.nodes := rfl
@[simp] theorem State.modBay_frames (b : Nat) (g : Bay → Bay) : (s.modBay b g).frames = s.frames := rfl
@[simp] theorem State.modBay_ops (b : Nat) (g : Bay → Bay) : (s.modBay b g).ops = s.ops := rfl
@[simp] theorem State.modBay_fences (b : Nat) (g : Bay → Bay) : (s.modBay b g).fences = s.fences := rfl
@[simp] theorem State.modBay_producers (b : Nat) (g : Bay → Bay) : (s.modBay b g).producers = s.producers := rfl
@[simp] theorem State.modBay_jobs (b : Nat) (g : Bay → Bay) : (s.modBay b g).jobs = s.jobs := rfl
@[simp] theorem State.modBay_matq (b : Nat) (g : Bay → Bay) : (s.modBay b g).matq = s.matq := rfl
@[simp] theorem State.modBay_holds (b : Nat) (g : Bay → Bay) : (s.modBay b g).holds = s.holds := rfl
@[simp] theorem State.modBay_loads (b : Nat) (g : Bay → Bay) : (s.modBay b g).loads = s.loads := rfl
@[simp] theorem State.modBay_agenda (b : Nat) (g : Bay → Bay) : (s.modBay b g).agenda = s.agenda := rfl
@[simp] theorem State.modBay_cur (b : Nat) (g : Bay → Bay) : (s.modBay b g).cur = s.cur := rfl
@[simp] theorem State.modBay_round (b : Nat) (g : Bay → Bay) : (s.modBay b g).round = s.round := rfl
@[simp] theorem State.modBay_now (b : Nat) (g : Bay → Bay) : (s.modBay b g).now = s.now := rfl
@[simp] theorem State.modBay_nextId (b : Nat) (g : Bay → Bay) : (s.modBay b g).nextId = s.nextId := rfl
@[simp] theorem State.modBay_free (b : Nat) (g : Bay → Bay) : (s.modBay b g).free = s.free := rfl

@[simp] theorem State.putFrame_chip (k : Nat) (fr : Frame) : (s.putFrame k fr).chip = s.chip := rfl
@[simp] theorem State.putFrame_mem (k : Nat) (fr : Frame) : (s.putFrame k fr).mem = s.mem := rfl
@[simp] theorem State.putFrame_cache (k : Nat) (fr : Frame) : (s.putFrame k fr).cache = s.cache := rfl
@[simp] theorem State.putFrame_host (k : Nat) (fr : Frame) : (s.putFrame k fr).host = s.host := rfl
@[simp] theorem State.putFrame_bays (k : Nat) (fr : Frame) : (s.putFrame k fr).bays = s.bays := rfl
@[simp] theorem State.putFrame_groups (k : Nat) (fr : Frame) : (s.putFrame k fr).groups = s.groups := rfl
@[simp] theorem State.putFrame_nodes (k : Nat) (fr : Frame) : (s.putFrame k fr).nodes = s.nodes := rfl
@[simp] theorem State.putFrame_frames (k : Nat) (fr : Frame) : (s.putFrame k fr).frames = s.frames.put k fr := rfl
@[simp] theorem State.putFrame_ops (k : Nat) (fr : Frame) : (s.putFrame k fr).ops = s.ops := rfl
@[simp] theorem State.putFrame_fences (k : Nat) (fr : Frame) : (s.putFrame k fr).fences = s.fences := rfl
@[simp] theorem State.putFrame_producers (k : Nat) (fr : Frame) : (s.putFrame k fr).producers = s.producers := rfl
@[simp] theorem State.putFrame_jobs (k : Nat) (fr : Frame) : (s.putFrame k fr).jobs = s.jobs := rfl
@[simp] theorem State.putFrame_matq (k : Nat) (fr : Frame) : (s.putFrame k fr).matq = s.matq := rfl
@[simp] theorem State.putFrame_holds (k : Nat) (fr : Frame) : (s.putFrame k fr).holds = s.holds := rfl
@[simp] theorem State.putFrame_loads (k : Nat) (fr : Frame) : (s.putFrame k fr).loads = s.loads := rfl
@[simp] theorem State.putFrame_agenda (k : Nat) (fr : Frame) : (s.putFrame k fr).agenda = s.agenda := rfl
@[simp] theorem State.putFrame_cur (k : Nat) (fr : Frame) : (s.putFrame k fr).cur = s.cur := rfl
@[simp] theorem State.putFrame_round (k : Nat) (fr : Frame) : (s.putFrame k fr).round = s.round := rfl
@[simp] theorem State.putFrame_now (k : Nat) (fr : Frame) : (s.putFrame k fr).now = s.now := rfl
@[simp] theorem State.putFrame_nextId (k : Nat) (fr : Frame) : (s.putFrame k fr).nextId = s.nextId := rfl
@[simp] theorem State.putFrame_free (k : Nat) (fr : Frame) : (s.putFrame k fr).free = s.free := rfl

@[simp] theorem State.modFrame_chip (k : Nat) (g : Frame → Frame) : (s.modFrame k g).chip = s.chip := rfl
@[simp] theorem State.modFrame_mem (k : Nat) (g : Frame → Frame) : (s.modFrame k g).mem = s.mem := rfl
@[simp] theorem State.modFrame_cache (k : Nat) (g : Frame → Frame) : (s.modFrame k g).cache = s.cache := rfl
@[simp] theorem State.modFrame_host (k : Nat) (g : Frame → Frame) : (s.modFrame k g).host = s.host := rfl
@[simp] theorem State.modFrame_bays (k : Nat) (g : Frame → Frame) : (s.modFrame k g).bays = s.bays := rfl
@[simp] theorem State.modFrame_groups (k : Nat) (g : Frame → Frame) : (s.modFrame k g).groups = s.groups := rfl
@[simp] theorem State.modFrame_nodes (k : Nat) (g : Frame → Frame) : (s.modFrame k g).nodes = s.nodes := rfl
@[simp] theorem State.modFrame_frames (k : Nat) (g : Frame → Frame) : (s.modFrame k g).frames = s.frames.modify k g := rfl
@[simp] theorem State.modFrame_ops (k : Nat) (g : Frame → Frame) : (s.modFrame k g).ops = s.ops := rfl
@[simp] theorem State.modFrame_fences (k : Nat) (g : Frame → Frame) : (s.modFrame k g).fences = s.fences := rfl
@[simp] theorem State.modFrame_producers (k : Nat) (g : Frame → Frame) : (s.modFrame k g).producers = s.producers := rfl
@[simp] theorem State.modFrame_jobs (k : Nat) (g : Frame → Frame) : (s.modFrame k g).jobs = s.jobs := rfl
@[simp] theorem State.modFrame_matq (k : Nat) (g : Frame → Frame) : (s.modFrame k g).matq = s.matq := rfl
@[simp] theorem State.modFrame_holds (k : Nat) (g : Frame → Frame) : (s.modFrame k g).holds = s.holds := rfl
@[simp] theorem State.modFrame_loads (k : Nat) (g : Frame → Frame) : (s.modFrame k g).loads = s.loads := rfl
@[simp] theorem State.modFrame_agenda (k : Nat) (g : Frame → Frame) : (s.modFrame k g).agenda = s.agenda := rfl
@[simp] theorem State.modFrame_cur (k : Nat) (g : Frame → Frame) : (s.modFrame k g).cur = s.cur := rfl
@[simp] theorem State.modFrame_round (k : Nat) (g : Frame → Frame) : (s.modFrame k g).round = s.round := rfl
@[simp] theorem State.modFrame_now (k : Nat) (g : Frame → Frame) : (s.modFrame k g).now = s.now := rfl
@[simp] theorem State.modFrame_nextId (k : Nat) (g : Frame → Frame) : (s.modFrame k g).nextId = s.nextId := rfl
@[simp] theorem State.modFrame_free (k : Nat) (g : Frame → Frame) : (s.modFrame k g).free = s.free := rfl

@[simp] theorem State.modUnit_chip (k i : Nat) (g : RodUnit → RodUnit) : (s.modUnit k i g).chip = s.chip := rfl
@[simp] theorem State.modUnit_mem (k i : Nat) (g : RodUnit → RodUnit) : (s.modUnit k i g).mem = s.mem := rfl
@[simp] theorem State.modUnit_cache (k i : Nat) (g : RodUnit → RodUnit) : (s.modUnit k i g).cache = s.cache := rfl
@[simp] theorem State.modUnit_host (k i : Nat) (g : RodUnit → RodUnit) : (s.modUnit k i g).host = s.host := rfl
@[simp] theorem State.modUnit_bays (k i : Nat) (g : RodUnit → RodUnit) : (s.modUnit k i g).bays = s.bays := rfl
@[simp] theorem State.modUnit_groups (k i : Nat) (g : RodUnit → RodUnit) : (s.modUnit k i g).groups = s.groups := rfl
@[simp] theorem State.modUnit_nodes (k i : Nat) (g : RodUnit → RodUnit) : (s.modUnit k i g).nodes = s.nodes := rfl
@[simp] theorem State.modUnit_frames (k i : Nat) (g : RodUnit → RodUnit) : (s.modUnit k i g).frames = s.frames.modify k (·.modUnit i g) := rfl
@[simp] theorem State.modUnit_ops (k i : Nat) (g : RodUnit → RodUnit) : (s.modUnit k i g).ops = s.ops := rfl
@[simp] theorem State.modUnit_fences (k i : Nat) (g : RodUnit → RodUnit) : (s.modUnit k i g).fences = s.fences := rfl
@[simp] theorem State.modUnit_producers (k i : Nat) (g : RodUnit → RodUnit) : (s.modUnit k i g).producers = s.producers := rfl
@[simp] theorem State.modUnit_jobs (k i : Nat) (g : RodUnit → RodUnit) : (s.modUnit k i g).jobs = s.jobs := rfl
@[simp] theorem State.modUnit_matq (k i : Nat) (g : RodUnit → RodUnit) : (s.modUnit k i g).matq = s.matq := rfl
@[simp] theorem State.modUnit_holds (k i : Nat) (g : RodUnit → RodUnit) : (s.modUnit k i g).holds = s.holds := rfl
@[simp] theorem State.modUnit_loads (k i : Nat) (g : RodUnit → RodUnit) : (s.modUnit k i g).loads = s.loads := rfl
@[simp] theorem State.modUnit_agenda (k i : Nat) (g : RodUnit → RodUnit) : (s.modUnit k i g).agenda = s.agenda := rfl
@[simp] theorem State.modUnit_cur (k i : Nat) (g : RodUnit → RodUnit) : (s.modUnit k i g).cur = s.cur := rfl
@[simp] theorem State.modUnit_round (k i : Nat) (g : RodUnit → RodUnit) : (s.modUnit k i g).round = s.round := rfl
@[simp] theorem State.modUnit_now (k i : Nat) (g : RodUnit → RodUnit) : (s.modUnit k i g).now = s.now := rfl
@[simp] theorem State.modUnit_nextId (k i : Nat) (g : RodUnit → RodUnit) : (s.modUnit k i g).nextId = s.nextId := rfl
@[simp] theorem State.modUnit_free (k i : Nat) (g : RodUnit → RodUnit) : (s.modUnit k i g).free = s.free := rfl

@[simp] theorem State.modNode_chip (k : Nat) (g : Node → Node) : (s.modNode k g).chip = s.chip := rfl
@[simp] theorem State.modNode_mem (k : Nat) (g : Node → Node) : (s.modNode k g).mem = s.mem := rfl
@[simp] theorem State.modNode_cache (k : Nat) (g : Node → Node) : (s.modNode k g).cache = s.cache := rfl
@[simp] theorem State.modNode_host (k : Nat) (g : Node → Node) : (s.modNode k g).host = s.host := rfl
@[simp] theorem State.modNode_bays (k : Nat) (g : Node → Node) : (s.modNode k g).bays = s.bays := rfl
@[simp] theorem State.modNode_groups (k : Nat) (g : Node → Node) : (s.modNode k g).groups = s.groups := rfl
@[simp] theorem State.modNode_nodes (k : Nat) (g : Node → Node) : (s.modNode k g).nodes = s.nodes.modify k g := rfl
@[simp] theorem State.modNode_frames (k : Nat) (g : Node → Node) : (s.modNode k g).frames = s.frames := rfl
@[simp] theorem State.modNode_ops (k : Nat) (g : Node → Node) : (s.modNode k g).ops = s.ops := rfl
@[simp] theorem State.modNode_fences (k : Nat) (g : Node → Node) : (s.modNode k g).fences = s.fences := rfl
@[simp] theorem State.modNode_producers (k : Nat) (g : Node → Node) : (s.modNode k g).producers = s.producers := rfl
@[simp] theorem State.modNode_jobs (k : Nat) (g : Node → Node) : (s.modNode k g).jobs = s.jobs := rfl
@[simp] theorem State.modNode_matq (k : Nat) (g : Node → Node) : (s.modNode k g).matq = s.matq := rfl
@[simp] theorem State.modNode_holds (k : Nat) (g : Node → Node) : (s.modNode k g).holds = s.holds := rfl
@[simp] theorem State.modNode_loads (k : Nat) (g : Node → Node) : (s.modNode k g).loads = s.loads := rfl
@[simp] theorem State.modNode_agenda (k : Nat) (g : Node → Node) : (s.modNode k g).agenda = s.agenda := rfl
@[simp] theorem State.modNode_cur (k : Nat) (g : Node → Node) : (s.modNode k g).cur = s.cur := rfl
@[simp] theorem State.modNode_round (k : Nat) (g : Node → Node) : (s.modNode k g).round = s.round := rfl
@[simp] theorem State.modNode_now (k : Nat) (g : Node → Node) : (s.modNode k g).now = s.now := rfl
@[simp] theorem State.modNode_nextId (k : Nat) (g : Node → Node) : (s.modNode k g).nextId = s.nextId := rfl
@[simp] theorem State.modNode_free (k : Nat) (g : Node → Node) : (s.modNode k g).free = s.free := rfl

@[simp] theorem State.modChip_chip (g : Chip → Chip) : (s.modChip g).chip = g s.chip := rfl
@[simp] theorem State.modChip_mem (g : Chip → Chip) : (s.modChip g).mem = s.mem := rfl
@[simp] theorem State.modChip_cache (g : Chip → Chip) : (s.modChip g).cache = s.cache := rfl
@[simp] theorem State.modChip_host (g : Chip → Chip) : (s.modChip g).host = s.host := rfl
@[simp] theorem State.modChip_bays (g : Chip → Chip) : (s.modChip g).bays = s.bays := rfl
@[simp] theorem State.modChip_groups (g : Chip → Chip) : (s.modChip g).groups = s.groups := rfl
@[simp] theorem State.modChip_nodes (g : Chip → Chip) : (s.modChip g).nodes = s.nodes := rfl
@[simp] theorem State.modChip_frames (g : Chip → Chip) : (s.modChip g).frames = s.frames := rfl
@[simp] theorem State.modChip_ops (g : Chip → Chip) : (s.modChip g).ops = s.ops := rfl
@[simp] theorem State.modChip_fences (g : Chip → Chip) : (s.modChip g).fences = s.fences := rfl
@[simp] theorem State.modChip_producers (g : Chip → Chip) : (s.modChip g).producers = s.producers := rfl
@[simp] theorem State.modChip_jobs (g : Chip → Chip) : (s.modChip g).jobs = s.jobs := rfl
@[simp] theorem State.modChip_matq (g : Chip → Chip) : (s.modChip g).matq = s.matq := rfl
@[simp] theorem State.modChip_holds (g : Chip → Chip) : (s.modChip g).holds = s.holds := rfl
@[simp] theorem State.modChip_loads (g : Chip → Chip) : (s.modChip g).loads = s.loads := rfl
@[simp] theorem State.modChip_agenda (g : Chip → Chip) : (s.modChip g).agenda = s.agenda := rfl
@[simp] theorem State.modChip_cur (g : Chip → Chip) : (s.modChip g).cur = s.cur := rfl
@[simp] theorem State.modChip_round (g : Chip → Chip) : (s.modChip g).round = s.round := rfl
@[simp] theorem State.modChip_now (g : Chip → Chip) : (s.modChip g).now = s.now := rfl
@[simp] theorem State.modChip_nextId (g : Chip → Chip) : (s.modChip g).nextId = s.nextId := rfl
@[simp] theorem State.modChip_free (g : Chip → Chip) : (s.modChip g).free = s.free := rfl

@[simp] theorem State.modCache_chip (g : Caches → Caches) : (s.modCache g).chip = s.chip := rfl
@[simp] theorem State.modCache_mem (g : Caches → Caches) : (s.modCache g).mem = s.mem := rfl
@[simp] theorem State.modCache_cache (g : Caches → Caches) : (s.modCache g).cache = g s.cache := rfl
@[simp] theorem State.modCache_host (g : Caches → Caches) : (s.modCache g).host = s.host := rfl
@[simp] theorem State.modCache_bays (g : Caches → Caches) : (s.modCache g).bays = s.bays := rfl
@[simp] theorem State.modCache_groups (g : Caches → Caches) : (s.modCache g).groups = s.groups := rfl
@[simp] theorem State.modCache_nodes (g : Caches → Caches) : (s.modCache g).nodes = s.nodes := rfl
@[simp] theorem State.modCache_frames (g : Caches → Caches) : (s.modCache g).frames = s.frames := rfl
@[simp] theorem State.modCache_ops (g : Caches → Caches) : (s.modCache g).ops = s.ops := rfl
@[simp] theorem State.modCache_fences (g : Caches → Caches) : (s.modCache g).fences = s.fences := rfl
@[simp] theorem State.modCache_producers (g : Caches → Caches) : (s.modCache g).producers = s.producers := rfl
@[simp] theorem State.modCache_jobs (g : Caches → Caches) : (s.modCache g).jobs = s.jobs := rfl
@[simp] theorem State.modCache_matq (g : Caches → Caches) : (s.modCache g).matq = s.matq := rfl
@[simp] theorem State.modCache_holds (g : Caches → Caches) : (s.modCache g).holds = s.holds := rfl
@[simp] theorem State.modCache_loads (g : Caches → Caches) : (s.modCache g).loads = s.loads := rfl
@[simp] theorem State.modCache_agenda (g : Caches → Caches) : (s.modCache g).agenda = s.agenda := rfl
@[simp] theorem State.modCache_cur (g : Caches → Caches) : (s.modCache g).cur = s.cur := rfl
@[simp] theorem State.modCache_round (g : Caches → Caches) : (s.modCache g).round = s.round := rfl
@[simp] theorem State.modCache_now (g : Caches → Caches) : (s.modCache g).now = s.now := rfl
@[simp] theorem State.modCache_nextId (g : Caches → Caches) : (s.modCache g).nextId = s.nextId := rfl
@[simp] theorem State.modCache_free (g : Caches → Caches) : (s.modCache g).free = s.free := rfl

@[simp] theorem State.modMem_chip (g : Mem → Mem) : (s.modMem g).chip = s.chip := rfl
@[simp] theorem State.modMem_mem (g : Mem → Mem) : (s.modMem g).mem = g s.mem := rfl
@[simp] theorem State.modMem_cache (g : Mem → Mem) : (s.modMem g).cache = s.cache := rfl
@[simp] theorem State.modMem_host (g : Mem → Mem) : (s.modMem g).host = s.host := rfl
@[simp] theorem State.modMem_bays (g : Mem → Mem) : (s.modMem g).bays = s.bays := rfl
@[simp] theorem State.modMem_groups (g : Mem → Mem) : (s.modMem g).groups = s.groups := rfl
@[simp] theorem State.modMem_nodes (g : Mem → Mem) : (s.modMem g).nodes = s.nodes := rfl
@[simp] theorem State.modMem_frames (g : Mem → Mem) : (s.modMem g).frames = s.frames := rfl
@[simp] theorem State.modMem_ops (g : Mem → Mem) : (s.modMem g).ops = s.ops := rfl
@[simp] theorem State.modMem_fences (g : Mem → Mem) : (s.modMem g).fences = s.fences := rfl
@[simp] theorem State.modMem_producers (g : Mem → Mem) : (s.modMem g).producers = s.producers := rfl
@[simp] theorem State.modMem_jobs (g : Mem → Mem) : (s.modMem g).jobs = s.jobs := rfl
@[simp] theorem State.modMem_matq (g : Mem → Mem) : (s.modMem g).matq = s.matq := rfl
@[simp] theorem State.modMem_holds (g : Mem → Mem) : (s.modMem g).holds = s.holds := rfl
@[simp] theorem State.modMem_loads (g : Mem → Mem) : (s.modMem g).loads = s.loads := rfl
@[simp] theorem State.modMem_agenda (g : Mem → Mem) : (s.modMem g).agenda = s.agenda := rfl
@[simp] theorem State.modMem_cur (g : Mem → Mem) : (s.modMem g).cur = s.cur := rfl
@[simp] theorem State.modMem_round (g : Mem → Mem) : (s.modMem g).round = s.round := rfl
@[simp] theorem State.modMem_now (g : Mem → Mem) : (s.modMem g).now = s.now := rfl
@[simp] theorem State.modMem_nextId (g : Mem → Mem) : (s.modMem g).nextId = s.nextId := rfl
@[simp] theorem State.modMem_free (g : Mem → Mem) : (s.modMem g).free = s.free := rfl

@[simp] theorem State.fresh_chip : (s.fresh.2).chip = s.chip := rfl
@[simp] theorem State.fresh_mem : (s.fresh.2).mem = s.mem := rfl
@[simp] theorem State.fresh_cache : (s.fresh.2).cache = s.cache := rfl
@[simp] theorem State.fresh_host : (s.fresh.2).host = s.host := rfl
@[simp] theorem State.fresh_bays : (s.fresh.2).bays = s.bays := rfl
@[simp] theorem State.fresh_groups : (s.fresh.2).groups = s.groups := rfl
@[simp] theorem State.fresh_nodes : (s.fresh.2).nodes = s.nodes := rfl
@[simp] theorem State.fresh_frames : (s.fresh.2).frames = s.frames := rfl
@[simp] theorem State.fresh_ops : (s.fresh.2).ops = s.ops := rfl
@[simp] theorem State.fresh_fences : (s.fresh.2).fences = s.fences := rfl
@[simp] theorem State.fresh_producers : (s.fresh.2).producers = s.producers := rfl
@[simp] theorem State.fresh_jobs : (s.fresh.2).jobs = s.jobs := rfl
@[simp] theorem State.fresh_matq : (s.fresh.2).matq = s.matq := rfl
@[simp] theorem State.fresh_holds : (s.fresh.2).holds = s.holds := rfl
@[simp] theorem State.fresh_loads : (s.fresh.2).loads = s.loads := rfl
@[simp] theorem State.fresh_agenda : (s.fresh.2).agenda = s.agenda := rfl
@[simp] theorem State.fresh_cur : (s.fresh.2).cur = s.cur := rfl
@[simp] theorem State.fresh_round : (s.fresh.2).round = s.round := rfl
@[simp] theorem State.fresh_now : (s.fresh.2).now = s.now := rfl
@[simp] theorem State.fresh_nextId : (s.fresh.2).nextId = s.nextId + 1 := rfl
@[simp] theorem State.fresh_free : (s.fresh.2).free = s.free := rfl

@[simp] theorem State.takeFree_chip : (s.takeFree.2).chip = s.chip := rfl
@[simp] theorem State.takeFree_mem : (s.takeFree.2).mem = s.mem := rfl
@[simp] theorem State.takeFree_cache : (s.takeFree.2).cache = s.cache := rfl
@[simp] theorem State.takeFree_host : (s.takeFree.2).host = s.host := rfl
@[simp] theorem State.takeFree_bays : (s.takeFree.2).bays = s.bays := rfl
@[simp] theorem State.takeFree_groups : (s.takeFree.2).groups = s.groups := rfl
@[simp] theorem State.takeFree_nodes : (s.takeFree.2).nodes = s.nodes := rfl
@[simp] theorem State.takeFree_frames : (s.takeFree.2).frames = s.frames := rfl
@[simp] theorem State.takeFree_ops : (s.takeFree.2).ops = s.ops := rfl
@[simp] theorem State.takeFree_fences : (s.takeFree.2).fences = s.fences := rfl
@[simp] theorem State.takeFree_producers : (s.takeFree.2).producers = s.producers := rfl
@[simp] theorem State.takeFree_jobs : (s.takeFree.2).jobs = s.jobs := rfl
@[simp] theorem State.takeFree_matq : (s.takeFree.2).matq = s.matq := rfl
@[simp] theorem State.takeFree_holds : (s.takeFree.2).holds = s.holds := rfl
@[simp] theorem State.takeFree_loads : (s.takeFree.2).loads = s.loads := rfl
@[simp] theorem State.takeFree_agenda : (s.takeFree.2).agenda = s.agenda := rfl
@[simp] theorem State.takeFree_cur : (s.takeFree.2).cur = s.cur := rfl
@[simp] theorem State.takeFree_round : (s.takeFree.2).round = s.round := rfl
@[simp] theorem State.takeFree_now : (s.takeFree.2).now = s.now := rfl
@[simp] theorem State.takeFree_nextId : (s.takeFree.2).nextId = s.nextId := rfl
@[simp] theorem State.takeFree_free : (s.takeFree.2).free = s.free + 1 := rfl

@[simp] theorem State.count_chip (b n k : Nat) : (s.count b n k).chip = s.chip := rfl
@[simp] theorem State.count_mem (b n k : Nat) : (s.count b n k).mem = s.mem := rfl
@[simp] theorem State.count_cache (b n k : Nat) : (s.count b n k).cache = s.cache := rfl
@[simp] theorem State.count_host (b n k : Nat) : (s.count b n k).host = s.host := rfl
@[simp] theorem State.count_groups (b n k : Nat) : (s.count b n k).groups = s.groups := rfl
@[simp] theorem State.count_nodes (b n k : Nat) : (s.count b n k).nodes = s.nodes := rfl
@[simp] theorem State.count_frames (b n k : Nat) : (s.count b n k).frames = s.frames := rfl
@[simp] theorem State.count_ops (b n k : Nat) : (s.count b n k).ops = s.ops := rfl
@[simp] theorem State.count_fences (b n k : Nat) : (s.count b n k).fences = s.fences := rfl
@[simp] theorem State.count_producers (b n k : Nat) : (s.count b n k).producers = s.producers := rfl
@[simp] theorem State.count_jobs (b n k : Nat) : (s.count b n k).jobs = s.jobs := rfl
@[simp] theorem State.count_matq (b n k : Nat) : (s.count b n k).matq = s.matq := rfl
@[simp] theorem State.count_holds (b n k : Nat) : (s.count b n k).holds = s.holds := rfl
@[simp] theorem State.count_loads (b n k : Nat) : (s.count b n k).loads = s.loads := rfl
@[simp] theorem State.count_agenda (b n k : Nat) : (s.count b n k).agenda = s.agenda := rfl
@[simp] theorem State.count_cur (b n k : Nat) : (s.count b n k).cur = s.cur := rfl
@[simp] theorem State.count_round (b n k : Nat) : (s.count b n k).round = s.round := rfl
@[simp] theorem State.count_now (b n k : Nat) : (s.count b n k).now = s.now := rfl
@[simp] theorem State.count_nextId (b n k : Nat) : (s.count b n k).nextId = s.nextId := rfl
@[simp] theorem State.count_free (b n k : Nat) : (s.count b n k).free = s.free := rfl

@[simp] theorem State.thaw_chip (b : Nat) : (s.thaw b).chip = s.chip := rfl
@[simp] theorem State.thaw_mem (b : Nat) : (s.thaw b).mem = s.mem := rfl
@[simp] theorem State.thaw_cache (b : Nat) : (s.thaw b).cache = s.cache := rfl
@[simp] theorem State.thaw_host (b : Nat) : (s.thaw b).host = s.host := rfl
@[simp] theorem State.thaw_groups (b : Nat) : (s.thaw b).groups = s.groups := rfl
@[simp] theorem State.thaw_nodes (b : Nat) : (s.thaw b).nodes = s.nodes := rfl
@[simp] theorem State.thaw_frames (b : Nat) : (s.thaw b).frames = s.frames := rfl
@[simp] theorem State.thaw_ops (b : Nat) : (s.thaw b).ops = s.ops := rfl
@[simp] theorem State.thaw_fences (b : Nat) : (s.thaw b).fences = s.fences := rfl
@[simp] theorem State.thaw_producers (b : Nat) : (s.thaw b).producers = s.producers := rfl
@[simp] theorem State.thaw_jobs (b : Nat) : (s.thaw b).jobs = s.jobs := rfl
@[simp] theorem State.thaw_matq (b : Nat) : (s.thaw b).matq = s.matq := rfl
@[simp] theorem State.thaw_holds (b : Nat) : (s.thaw b).holds = s.holds := rfl
@[simp] theorem State.thaw_loads (b : Nat) : (s.thaw b).loads = s.loads := rfl
@[simp] theorem State.thaw_agenda (b : Nat) : (s.thaw b).agenda = s.agenda := rfl
@[simp] theorem State.thaw_cur (b : Nat) : (s.thaw b).cur = s.cur := rfl
@[simp] theorem State.thaw_round (b : Nat) : (s.thaw b).round = s.round := rfl
@[simp] theorem State.thaw_now (b : Nat) : (s.thaw b).now = s.now := rfl
@[simp] theorem State.thaw_nextId (b : Nat) : (s.thaw b).nextId = s.nextId := rfl
@[simp] theorem State.thaw_free (b : Nat) : (s.thaw b).free = s.free := rfl

@[simp] theorem State.uncount_chip (b n k : Nat) : (s.uncount b n k).chip = s.chip := rfl
@[simp] theorem State.uncount_mem (b n k : Nat) : (s.uncount b n k).mem = s.mem := rfl
@[simp] theorem State.uncount_cache (b n k : Nat) : (s.uncount b n k).cache = s.cache := rfl
@[simp] theorem State.uncount_host (b n k : Nat) : (s.uncount b n k).host = s.host := rfl
@[simp] theorem State.uncount_groups (b n k : Nat) : (s.uncount b n k).groups = s.groups := rfl
@[simp] theorem State.uncount_nodes (b n k : Nat) : (s.uncount b n k).nodes = s.nodes := rfl
@[simp] theorem State.uncount_frames (b n k : Nat) : (s.uncount b n k).frames = s.frames := rfl
@[simp] theorem State.uncount_ops (b n k : Nat) : (s.uncount b n k).ops = s.ops := rfl
@[simp] theorem State.uncount_fences (b n k : Nat) : (s.uncount b n k).fences = s.fences := rfl
@[simp] theorem State.uncount_producers (b n k : Nat) : (s.uncount b n k).producers = s.producers := rfl
@[simp] theorem State.uncount_jobs (b n k : Nat) : (s.uncount b n k).jobs = s.jobs := rfl
@[simp] theorem State.uncount_matq (b n k : Nat) : (s.uncount b n k).matq = s.matq := rfl
@[simp] theorem State.uncount_holds (b n k : Nat) : (s.uncount b n k).holds = s.holds := rfl
@[simp] theorem State.uncount_loads (b n k : Nat) : (s.uncount b n k).loads = s.loads := rfl
@[simp] theorem State.uncount_agenda (b n k : Nat) : (s.uncount b n k).agenda = s.agenda := rfl
@[simp] theorem State.uncount_cur (b n k : Nat) : (s.uncount b n k).cur = s.cur := rfl
@[simp] theorem State.uncount_round (b n k : Nat) : (s.uncount b n k).round = s.round := rfl
@[simp] theorem State.uncount_now (b n k : Nat) : (s.uncount b n k).now = s.now := rfl
@[simp] theorem State.uncount_nextId (b n k : Nat) : (s.uncount b n k).nextId = s.nextId := rfl
@[simp] theorem State.uncount_free (b n k : Nat) : (s.uncount b n k).free = s.free := rfl

@[simp] theorem State.uncounted_chip (r : State) (b : Nat) : (s.uncounted r b).chip = s.chip := rfl
@[simp] theorem State.uncounted_mem (r : State) (b : Nat) : (s.uncounted r b).mem = s.mem := rfl
@[simp] theorem State.uncounted_cache (r : State) (b : Nat) : (s.uncounted r b).cache = s.cache := rfl
@[simp] theorem State.uncounted_host (r : State) (b : Nat) : (s.uncounted r b).host = s.host := rfl
@[simp] theorem State.uncounted_groups (r : State) (b : Nat) : (s.uncounted r b).groups = s.groups := rfl
@[simp] theorem State.uncounted_nodes (r : State) (b : Nat) : (s.uncounted r b).nodes = s.nodes := rfl
@[simp] theorem State.uncounted_frames (r : State) (b : Nat) : (s.uncounted r b).frames = s.frames := rfl
@[simp] theorem State.uncounted_ops (r : State) (b : Nat) : (s.uncounted r b).ops = s.ops := rfl
@[simp] theorem State.uncounted_fences (r : State) (b : Nat) : (s.uncounted r b).fences = s.fences := rfl
@[simp] theorem State.uncounted_producers (r : State) (b : Nat) : (s.uncounted r b).producers = s.producers := rfl
@[simp] theorem State.uncounted_jobs (r : State) (b : Nat) : (s.uncounted r b).jobs = s.jobs := rfl
@[simp] theorem State.uncounted_matq (r : State) (b : Nat) : (s.uncounted r b).matq = s.matq := rfl
@[simp] theorem State.uncounted_holds (r : State) (b : Nat) : (s.uncounted r b).holds = s.holds := rfl
@[simp] theorem State.uncounted_loads (r : State) (b : Nat) : (s.uncounted r b).loads = s.loads := rfl
@[simp] theorem State.uncounted_agenda (r : State) (b : Nat) : (s.uncounted r b).agenda = s.agenda := rfl
@[simp] theorem State.uncounted_cur (r : State) (b : Nat) : (s.uncounted r b).cur = s.cur := rfl
@[simp] theorem State.uncounted_round (r : State) (b : Nat) : (s.uncounted r b).round = s.round := rfl
@[simp] theorem State.uncounted_now (r : State) (b : Nat) : (s.uncounted r b).now = s.now := rfl
@[simp] theorem State.uncounted_nextId (r : State) (b : Nat) : (s.uncounted r b).nextId = s.nextId := rfl
@[simp] theorem State.uncounted_free (r : State) (b : Nat) : (s.uncounted r b).free = s.free := rfl

@[simp] theorem State.keepIn_chip (e : TlbEntry) (n : Nat) (l : List TlbEntry) : (s.keepIn e n l).chip = s.chip := by
  unfold State.keepIn; split
  · rfl
  · split <;> rfl
@[simp] theorem State.keepIn_mem (e : TlbEntry) (n : Nat) (l : List TlbEntry) : (s.keepIn e n l).mem = s.mem := by
  unfold State.keepIn; split
  · rfl
  · split <;> rfl
@[simp] theorem State.keepIn_bays (e : TlbEntry) (n : Nat) (l : List TlbEntry) : (s.keepIn e n l).bays = s.bays := by
  unfold State.keepIn; split
  · rfl
  · split <;> rfl
@[simp] theorem State.keepIn_groups (e : TlbEntry) (n : Nat) (l : List TlbEntry) : (s.keepIn e n l).groups = s.groups := by
  unfold State.keepIn; split
  · rfl
  · split <;> rfl
@[simp] theorem State.keepIn_host (e : TlbEntry) (n : Nat) (l : List TlbEntry) : (s.keepIn e n l).host = s.host := by
  unfold State.keepIn; split
  · rfl
  · split <;> rfl
@[simp] theorem State.keepIn_nodes (e : TlbEntry) (n : Nat) (l : List TlbEntry) : (s.keepIn e n l).nodes = s.nodes := by
  unfold State.keepIn; split
  · rfl
  · split <;> rfl
@[simp] theorem State.keepIn_frames (e : TlbEntry) (n : Nat) (l : List TlbEntry) : (s.keepIn e n l).frames = s.frames := by
  unfold State.keepIn; split
  · rfl
  · split <;> rfl
@[simp] theorem State.keepIn_ops (e : TlbEntry) (n : Nat) (l : List TlbEntry) : (s.keepIn e n l).ops = s.ops := by
  unfold State.keepIn; split
  · rfl
  · split <;> rfl
@[simp] theorem State.keepIn_fences (e : TlbEntry) (n : Nat) (l : List TlbEntry) : (s.keepIn e n l).fences = s.fences := by
  unfold State.keepIn; split
  · rfl
  · split <;> rfl
@[simp] theorem State.keepIn_producers (e : TlbEntry) (n : Nat) (l : List TlbEntry) : (s.keepIn e n l).producers = s.producers := by
  unfold State.keepIn; split
  · rfl
  · split <;> rfl
@[simp] theorem State.keepIn_jobs (e : TlbEntry) (n : Nat) (l : List TlbEntry) : (s.keepIn e n l).jobs = s.jobs := by
  unfold State.keepIn; split
  · rfl
  · split <;> rfl
@[simp] theorem State.keepIn_matq (e : TlbEntry) (n : Nat) (l : List TlbEntry) : (s.keepIn e n l).matq = s.matq := by
  unfold State.keepIn; split
  · rfl
  · split <;> rfl
@[simp] theorem State.keepIn_holds (e : TlbEntry) (n : Nat) (l : List TlbEntry) : (s.keepIn e n l).holds = s.holds := by
  unfold State.keepIn; split
  · rfl
  · split <;> rfl
@[simp] theorem State.keepIn_loads (e : TlbEntry) (n : Nat) (l : List TlbEntry) : (s.keepIn e n l).loads = s.loads := by
  unfold State.keepIn; split
  · rfl
  · split <;> rfl
@[simp] theorem State.keepIn_agenda (e : TlbEntry) (n : Nat) (l : List TlbEntry) : (s.keepIn e n l).agenda = s.agenda := by
  unfold State.keepIn; split
  · rfl
  · split <;> rfl
@[simp] theorem State.keepIn_cur (e : TlbEntry) (n : Nat) (l : List TlbEntry) : (s.keepIn e n l).cur = s.cur := by
  unfold State.keepIn; split
  · rfl
  · split <;> rfl
@[simp] theorem State.keepIn_round (e : TlbEntry) (n : Nat) (l : List TlbEntry) : (s.keepIn e n l).round = s.round := by
  unfold State.keepIn; split
  · rfl
  · split <;> rfl
@[simp] theorem State.keepIn_now (e : TlbEntry) (n : Nat) (l : List TlbEntry) : (s.keepIn e n l).now = s.now := by
  unfold State.keepIn; split
  · rfl
  · split <;> rfl
@[simp] theorem State.keepIn_nextId (e : TlbEntry) (n : Nat) (l : List TlbEntry) : (s.keepIn e n l).nextId = s.nextId := by
  unfold State.keepIn; split
  · rfl
  · split <;> rfl

@[simp] theorem State.keepLeaf_chip (b core page sh : Nat) (e : BitVec 64) : (s.keepLeaf b core page sh e).chip = s.chip := by
  unfold State.keepLeaf; split <;> simp
@[simp] theorem State.keepLeaf_mem (b core page sh : Nat) (e : BitVec 64) : (s.keepLeaf b core page sh e).mem = s.mem := by
  unfold State.keepLeaf; split <;> simp
@[simp] theorem State.keepLeaf_bays (b core page sh : Nat) (e : BitVec 64) : (s.keepLeaf b core page sh e).bays = s.bays := by
  unfold State.keepLeaf; split <;> simp
@[simp] theorem State.keepLeaf_groups (b core page sh : Nat) (e : BitVec 64) : (s.keepLeaf b core page sh e).groups = s.groups := by
  unfold State.keepLeaf; split <;> simp
@[simp] theorem State.keepLeaf_host (b core page sh : Nat) (e : BitVec 64) : (s.keepLeaf b core page sh e).host = s.host := by
  unfold State.keepLeaf; split <;> simp
@[simp] theorem State.keepLeaf_nodes (b core page sh : Nat) (e : BitVec 64) : (s.keepLeaf b core page sh e).nodes = s.nodes := by
  unfold State.keepLeaf; split <;> simp
@[simp] theorem State.keepLeaf_frames (b core page sh : Nat) (e : BitVec 64) : (s.keepLeaf b core page sh e).frames = s.frames := by
  unfold State.keepLeaf; split <;> simp
@[simp] theorem State.keepLeaf_ops (b core page sh : Nat) (e : BitVec 64) : (s.keepLeaf b core page sh e).ops = s.ops := by
  unfold State.keepLeaf; split <;> simp
@[simp] theorem State.keepLeaf_fences (b core page sh : Nat) (e : BitVec 64) : (s.keepLeaf b core page sh e).fences = s.fences := by
  unfold State.keepLeaf; split <;> simp
@[simp] theorem State.keepLeaf_producers (b core page sh : Nat) (e : BitVec 64) : (s.keepLeaf b core page sh e).producers = s.producers := by
  unfold State.keepLeaf; split <;> simp
@[simp] theorem State.keepLeaf_jobs (b core page sh : Nat) (e : BitVec 64) : (s.keepLeaf b core page sh e).jobs = s.jobs := by
  unfold State.keepLeaf; split <;> simp
@[simp] theorem State.keepLeaf_matq (b core page sh : Nat) (e : BitVec 64) : (s.keepLeaf b core page sh e).matq = s.matq := by
  unfold State.keepLeaf; split <;> simp
@[simp] theorem State.keepLeaf_holds (b core page sh : Nat) (e : BitVec 64) : (s.keepLeaf b core page sh e).holds = s.holds := by
  unfold State.keepLeaf; split <;> simp
@[simp] theorem State.keepLeaf_loads (b core page sh : Nat) (e : BitVec 64) : (s.keepLeaf b core page sh e).loads = s.loads := by
  unfold State.keepLeaf; split <;> simp
@[simp] theorem State.keepLeaf_agenda (b core page sh : Nat) (e : BitVec 64) : (s.keepLeaf b core page sh e).agenda = s.agenda := by
  unfold State.keepLeaf; split <;> simp
@[simp] theorem State.keepLeaf_cur (b core page sh : Nat) (e : BitVec 64) : (s.keepLeaf b core page sh e).cur = s.cur := by
  unfold State.keepLeaf; split <;> simp
@[simp] theorem State.keepLeaf_round (b core page sh : Nat) (e : BitVec 64) : (s.keepLeaf b core page sh e).round = s.round := by
  unfold State.keepLeaf; split <;> simp
@[simp] theorem State.keepLeaf_now (b core page sh : Nat) (e : BitVec 64) : (s.keepLeaf b core page sh e).now = s.now := by
  unfold State.keepLeaf; split <;> simp
@[simp] theorem State.keepLeaf_nextId (b core page sh : Nat) (e : BitVec 64) : (s.keepLeaf b core page sh e).nextId = s.nextId := by
  unfold State.keepLeaf; split <;> simp

@[simp] theorem State.msix_mem (fn v : Nat) : (s.msix fn v).mem = s.mem := rfl
@[simp] theorem State.msix_cache (fn v : Nat) : (s.msix fn v).cache = s.cache := rfl
@[simp] theorem State.msix_host (fn v : Nat) : (s.msix fn v).host = s.host := rfl
@[simp] theorem State.msix_bays (fn v : Nat) : (s.msix fn v).bays = s.bays := rfl
@[simp] theorem State.msix_groups (fn v : Nat) : (s.msix fn v).groups = s.groups := rfl
@[simp] theorem State.msix_nodes (fn v : Nat) : (s.msix fn v).nodes = s.nodes := rfl
@[simp] theorem State.msix_frames (fn v : Nat) : (s.msix fn v).frames = s.frames := rfl
@[simp] theorem State.msix_ops (fn v : Nat) : (s.msix fn v).ops = s.ops := rfl
@[simp] theorem State.msix_fences (fn v : Nat) : (s.msix fn v).fences = s.fences := rfl
@[simp] theorem State.msix_producers (fn v : Nat) : (s.msix fn v).producers = s.producers := rfl
@[simp] theorem State.msix_jobs (fn v : Nat) : (s.msix fn v).jobs = s.jobs := rfl
@[simp] theorem State.msix_matq (fn v : Nat) : (s.msix fn v).matq = s.matq := rfl
@[simp] theorem State.msix_holds (fn v : Nat) : (s.msix fn v).holds = s.holds := rfl
@[simp] theorem State.msix_loads (fn v : Nat) : (s.msix fn v).loads = s.loads := rfl
@[simp] theorem State.msix_agenda (fn v : Nat) : (s.msix fn v).agenda = s.agenda := rfl
@[simp] theorem State.msix_cur (fn v : Nat) : (s.msix fn v).cur = s.cur := rfl
@[simp] theorem State.msix_round (fn v : Nat) : (s.msix fn v).round = s.round := rfl
@[simp] theorem State.msix_now (fn v : Nat) : (s.msix fn v).now = s.now := rfl
@[simp] theorem State.msix_nextId (fn v : Nat) : (s.msix fn v).nextId = s.nextId := rfl
@[simp] theorem State.msix_free (fn v : Nat) : (s.msix fn v).free = s.free := rfl

@[simp] theorem State.record_mem (bay cause : Nat) (unit : BitVec 64) : (s.record bay cause unit).mem = s.mem := rfl
@[simp] theorem State.record_cache (bay cause : Nat) (unit : BitVec 64) : (s.record bay cause unit).cache = s.cache := rfl
@[simp] theorem State.record_host (bay cause : Nat) (unit : BitVec 64) : (s.record bay cause unit).host = s.host := rfl
@[simp] theorem State.record_bays (bay cause : Nat) (unit : BitVec 64) : (s.record bay cause unit).bays = s.bays := rfl
@[simp] theorem State.record_groups (bay cause : Nat) (unit : BitVec 64) : (s.record bay cause unit).groups = s.groups := rfl
@[simp] theorem State.record_nodes (bay cause : Nat) (unit : BitVec 64) : (s.record bay cause unit).nodes = s.nodes := rfl
@[simp] theorem State.record_frames (bay cause : Nat) (unit : BitVec 64) : (s.record bay cause unit).frames = s.frames := rfl
@[simp] theorem State.record_ops (bay cause : Nat) (unit : BitVec 64) : (s.record bay cause unit).ops = s.ops := rfl
@[simp] theorem State.record_fences (bay cause : Nat) (unit : BitVec 64) : (s.record bay cause unit).fences = s.fences := rfl
@[simp] theorem State.record_producers (bay cause : Nat) (unit : BitVec 64) : (s.record bay cause unit).producers = s.producers := rfl
@[simp] theorem State.record_jobs (bay cause : Nat) (unit : BitVec 64) : (s.record bay cause unit).jobs = s.jobs := rfl
@[simp] theorem State.record_matq (bay cause : Nat) (unit : BitVec 64) : (s.record bay cause unit).matq = s.matq := rfl
@[simp] theorem State.record_holds (bay cause : Nat) (unit : BitVec 64) : (s.record bay cause unit).holds = s.holds := rfl
@[simp] theorem State.record_loads (bay cause : Nat) (unit : BitVec 64) : (s.record bay cause unit).loads = s.loads := rfl
@[simp] theorem State.record_agenda (bay cause : Nat) (unit : BitVec 64) : (s.record bay cause unit).agenda = s.agenda := rfl
@[simp] theorem State.record_cur (bay cause : Nat) (unit : BitVec 64) : (s.record bay cause unit).cur = s.cur := rfl
@[simp] theorem State.record_round (bay cause : Nat) (unit : BitVec 64) : (s.record bay cause unit).round = s.round := rfl
@[simp] theorem State.record_now (bay cause : Nat) (unit : BitVec 64) : (s.record bay cause unit).now = s.now := rfl
@[simp] theorem State.record_nextId (bay cause : Nat) (unit : BitVec 64) : (s.record bay cause unit).nextId = s.nextId := rfl
@[simp] theorem State.record_free (bay cause : Nat) (unit : BitVec 64) : (s.record bay cause unit).free = s.free := rfl

@[simp] theorem State.terminate_chip (fid cause : Nat) : (s.terminate fid cause).chip = s.chip := by
  unfold State.terminate; split <;> rfl
@[simp] theorem State.terminate_mem (fid cause : Nat) : (s.terminate fid cause).mem = s.mem := by
  unfold State.terminate; split <;> rfl
@[simp] theorem State.terminate_host (fid cause : Nat) : (s.terminate fid cause).host = s.host := by
  unfold State.terminate; split <;> rfl
@[simp] theorem State.terminate_bays (fid cause : Nat) : (s.terminate fid cause).bays = s.bays := by
  unfold State.terminate; split <;> rfl
@[simp] theorem State.terminate_groups (fid cause : Nat) : (s.terminate fid cause).groups = s.groups := by
  unfold State.terminate; split <;> rfl
@[simp] theorem State.terminate_nodes (fid cause : Nat) : (s.terminate fid cause).nodes = s.nodes := by
  unfold State.terminate; split <;> rfl
@[simp] theorem State.terminate_ops (fid cause : Nat) : (s.terminate fid cause).ops = s.ops := by
  unfold State.terminate; split <;> rfl
@[simp] theorem State.terminate_fences (fid cause : Nat) : (s.terminate fid cause).fences = s.fences := by
  unfold State.terminate; split <;> rfl
@[simp] theorem State.terminate_producers (fid cause : Nat) : (s.terminate fid cause).producers = s.producers := by
  unfold State.terminate; split <;> rfl
@[simp] theorem State.terminate_jobs (fid cause : Nat) : (s.terminate fid cause).jobs = s.jobs := by
  unfold State.terminate; split <;> rfl
@[simp] theorem State.terminate_matq (fid cause : Nat) : (s.terminate fid cause).matq = s.matq := by
  unfold State.terminate; split <;> rfl
@[simp] theorem State.terminate_holds (fid cause : Nat) : (s.terminate fid cause).holds = s.holds := by
  unfold State.terminate; split <;> rfl
@[simp] theorem State.terminate_loads (fid cause : Nat) : (s.terminate fid cause).loads = s.loads := by
  unfold State.terminate; split <;> rfl
@[simp] theorem State.terminate_agenda (fid cause : Nat) : (s.terminate fid cause).agenda = s.agenda := by
  unfold State.terminate; split <;> rfl
@[simp] theorem State.terminate_cur (fid cause : Nat) : (s.terminate fid cause).cur = s.cur := by
  unfold State.terminate; split <;> rfl
@[simp] theorem State.terminate_round (fid cause : Nat) : (s.terminate fid cause).round = s.round := by
  unfold State.terminate; split <;> rfl
@[simp] theorem State.terminate_now (fid cause : Nat) : (s.terminate fid cause).now = s.now := by
  unfold State.terminate; split <;> rfl
@[simp] theorem State.terminate_nextId (fid cause : Nat) : (s.terminate fid cause).nextId = s.nextId := by
  unfold State.terminate; split <;> rfl
@[simp] theorem State.terminate_free (fid cause : Nat) : (s.terminate fid cause).free = s.free := by
  unfold State.terminate; split <;> rfl

@[simp] theorem State.forgetAsked_lines (b : Nat) : (s.forgetAsked b).cache.lines = s.cache.lines := rfl
@[simp] theorem State.forgetAsked_l1 (b : Nat) : (s.forgetAsked b).cache.l1 = s.cache.l1 := rfl
@[simp] theorem State.forgetAsked_tlb (b : Nat) : (s.forgetAsked b).cache.tlb = s.cache.tlb := rfl
@[simp] theorem State.forgetAsked_txns (b : Nat) : (s.forgetAsked b).cache.txns = s.cache.txns := rfl
@[simp] theorem State.forgetAsked_held (b : Nat) : (s.forgetAsked b).cache.held = s.cache.held := rfl
@[simp] theorem State.forgetAsked_asks (b : Nat) : (s.forgetAsked b).cache.asks = s.cache.asks := rfl
@[simp] theorem State.forgetAsked_chip (b : Nat) : (s.forgetAsked b).chip = s.chip := rfl
@[simp] theorem State.forgetAsked_mem (b : Nat) : (s.forgetAsked b).mem = s.mem := rfl
@[simp] theorem State.forgetAsked_host (b : Nat) : (s.forgetAsked b).host = s.host := rfl
@[simp] theorem State.forgetAsked_bays (b : Nat) : (s.forgetAsked b).bays = s.bays := rfl
@[simp] theorem State.forgetAsked_groups (b : Nat) : (s.forgetAsked b).groups = s.groups := rfl
@[simp] theorem State.forgetAsked_nodes (b : Nat) : (s.forgetAsked b).nodes = s.nodes := rfl
@[simp] theorem State.forgetAsked_frames (b : Nat) : (s.forgetAsked b).frames = s.frames := rfl
@[simp] theorem State.forgetAsked_ops (b : Nat) : (s.forgetAsked b).ops = s.ops := rfl
@[simp] theorem State.forgetAsked_fences (b : Nat) : (s.forgetAsked b).fences = s.fences := rfl
@[simp] theorem State.forgetAsked_producers (b : Nat) : (s.forgetAsked b).producers = s.producers := rfl
@[simp] theorem State.forgetAsked_jobs (b : Nat) : (s.forgetAsked b).jobs = s.jobs := rfl
@[simp] theorem State.forgetAsked_matq (b : Nat) : (s.forgetAsked b).matq = s.matq := rfl
@[simp] theorem State.forgetAsked_holds (b : Nat) : (s.forgetAsked b).holds = s.holds := rfl
@[simp] theorem State.forgetAsked_loads (b : Nat) : (s.forgetAsked b).loads = s.loads := rfl
@[simp] theorem State.forgetAsked_agenda (b : Nat) : (s.forgetAsked b).agenda = s.agenda := rfl
@[simp] theorem State.forgetAsked_cur (b : Nat) : (s.forgetAsked b).cur = s.cur := rfl
@[simp] theorem State.forgetAsked_round (b : Nat) : (s.forgetAsked b).round = s.round := rfl
@[simp] theorem State.forgetAsked_now (b : Nat) : (s.forgetAsked b).now = s.now := rfl
@[simp] theorem State.forgetAsked_nextId (b : Nat) : (s.forgetAsked b).nextId = s.nextId := rfl
@[simp] theorem State.forgetAsked_free (b : Nat) : (s.forgetAsked b).free = s.free := rfl

@[simp] theorem State.setSill_chip (line : Nat) (v : BitVec 32) : (s.setSill line v).chip = s.chip := rfl
@[simp] theorem State.setSill_cache (line : Nat) (v : BitVec 32) : (s.setSill line v).cache = s.cache := rfl
@[simp] theorem State.setSill_host (line : Nat) (v : BitVec 32) : (s.setSill line v).host = s.host := rfl
@[simp] theorem State.setSill_bays (line : Nat) (v : BitVec 32) : (s.setSill line v).bays = s.bays := rfl
@[simp] theorem State.setSill_groups (line : Nat) (v : BitVec 32) : (s.setSill line v).groups = s.groups := rfl
@[simp] theorem State.setSill_nodes (line : Nat) (v : BitVec 32) : (s.setSill line v).nodes = s.nodes := rfl
@[simp] theorem State.setSill_frames (line : Nat) (v : BitVec 32) : (s.setSill line v).frames = s.frames := rfl
@[simp] theorem State.setSill_ops (line : Nat) (v : BitVec 32) : (s.setSill line v).ops = s.ops := rfl
@[simp] theorem State.setSill_fences (line : Nat) (v : BitVec 32) : (s.setSill line v).fences = s.fences := rfl
@[simp] theorem State.setSill_producers (line : Nat) (v : BitVec 32) : (s.setSill line v).producers = s.producers := rfl
@[simp] theorem State.setSill_jobs (line : Nat) (v : BitVec 32) : (s.setSill line v).jobs = s.jobs := rfl
@[simp] theorem State.setSill_matq (line : Nat) (v : BitVec 32) : (s.setSill line v).matq = s.matq := rfl
@[simp] theorem State.setSill_holds (line : Nat) (v : BitVec 32) : (s.setSill line v).holds = s.holds := rfl
@[simp] theorem State.setSill_loads (line : Nat) (v : BitVec 32) : (s.setSill line v).loads = s.loads := rfl
@[simp] theorem State.setSill_agenda (line : Nat) (v : BitVec 32) : (s.setSill line v).agenda = s.agenda := rfl
@[simp] theorem State.setSill_cur (line : Nat) (v : BitVec 32) : (s.setSill line v).cur = s.cur := rfl
@[simp] theorem State.setSill_round (line : Nat) (v : BitVec 32) : (s.setSill line v).round = s.round := rfl
@[simp] theorem State.setSill_now (line : Nat) (v : BitVec 32) : (s.setSill line v).now = s.now := rfl
@[simp] theorem State.setSill_nextId (line : Nat) (v : BitVec 32) : (s.setSill line v).nextId = s.nextId := rfl
@[simp] theorem State.setSill_free (line : Nat) (v : BitVec 32) : (s.setSill line v).free = s.free := rfl

@[simp] theorem State.putLine_chip (line : Nat) (l : L2Line) : (s.putLine line l).chip = s.chip := rfl
@[simp] theorem State.putLine_mem (line : Nat) (l : L2Line) : (s.putLine line l).mem = s.mem := rfl
@[simp] theorem State.putLine_host (line : Nat) (l : L2Line) : (s.putLine line l).host = s.host := rfl
@[simp] theorem State.putLine_bays (line : Nat) (l : L2Line) : (s.putLine line l).bays = s.bays := rfl
@[simp] theorem State.putLine_groups (line : Nat) (l : L2Line) : (s.putLine line l).groups = s.groups := rfl
@[simp] theorem State.putLine_nodes (line : Nat) (l : L2Line) : (s.putLine line l).nodes = s.nodes := rfl
@[simp] theorem State.putLine_frames (line : Nat) (l : L2Line) : (s.putLine line l).frames = s.frames := rfl
@[simp] theorem State.putLine_ops (line : Nat) (l : L2Line) : (s.putLine line l).ops = s.ops := rfl
@[simp] theorem State.putLine_fences (line : Nat) (l : L2Line) : (s.putLine line l).fences = s.fences := rfl
@[simp] theorem State.putLine_producers (line : Nat) (l : L2Line) : (s.putLine line l).producers = s.producers := rfl
@[simp] theorem State.putLine_jobs (line : Nat) (l : L2Line) : (s.putLine line l).jobs = s.jobs := rfl
@[simp] theorem State.putLine_matq (line : Nat) (l : L2Line) : (s.putLine line l).matq = s.matq := rfl
@[simp] theorem State.putLine_holds (line : Nat) (l : L2Line) : (s.putLine line l).holds = s.holds := rfl
@[simp] theorem State.putLine_loads (line : Nat) (l : L2Line) : (s.putLine line l).loads = s.loads := rfl
@[simp] theorem State.putLine_agenda (line : Nat) (l : L2Line) : (s.putLine line l).agenda = s.agenda := rfl
@[simp] theorem State.putLine_cur (line : Nat) (l : L2Line) : (s.putLine line l).cur = s.cur := rfl
@[simp] theorem State.putLine_round (line : Nat) (l : L2Line) : (s.putLine line l).round = s.round := rfl
@[simp] theorem State.putLine_now (line : Nat) (l : L2Line) : (s.putLine line l).now = s.now := rfl
@[simp] theorem State.putLine_nextId (line : Nat) (l : L2Line) : (s.putLine line l).nextId = s.nextId := rfl
@[simp] theorem State.putLine_free (line : Nat) (l : L2Line) : (s.putLine line l).free = s.free := rfl

@[simp] theorem State.send_chip (m : Message) : (s.send m).chip = s.chip := rfl
@[simp] theorem State.send_mem (m : Message) : (s.send m).mem = s.mem := rfl
@[simp] theorem State.send_host (m : Message) : (s.send m).host = s.host := rfl
@[simp] theorem State.send_bays (m : Message) : (s.send m).bays = s.bays := rfl
@[simp] theorem State.send_groups (m : Message) : (s.send m).groups = s.groups := rfl
@[simp] theorem State.send_nodes (m : Message) : (s.send m).nodes = s.nodes := rfl
@[simp] theorem State.send_frames (m : Message) : (s.send m).frames = s.frames := rfl
@[simp] theorem State.send_ops (m : Message) : (s.send m).ops = s.ops := rfl
@[simp] theorem State.send_fences (m : Message) : (s.send m).fences = s.fences := rfl
@[simp] theorem State.send_producers (m : Message) : (s.send m).producers = s.producers := rfl
@[simp] theorem State.send_jobs (m : Message) : (s.send m).jobs = s.jobs := rfl
@[simp] theorem State.send_matq (m : Message) : (s.send m).matq = s.matq := rfl
@[simp] theorem State.send_holds (m : Message) : (s.send m).holds = s.holds := rfl
@[simp] theorem State.send_loads (m : Message) : (s.send m).loads = s.loads := rfl
@[simp] theorem State.send_agenda (m : Message) : (s.send m).agenda = s.agenda := rfl
@[simp] theorem State.send_cur (m : Message) : (s.send m).cur = s.cur := rfl
@[simp] theorem State.send_round (m : Message) : (s.send m).round = s.round := rfl
@[simp] theorem State.send_now (m : Message) : (s.send m).now = s.now := rfl
@[simp] theorem State.send_nextId (m : Message) : (s.send m).nextId = s.nextId := rfl
@[simp] theorem State.send_free (m : Message) : (s.send m).free = s.free := rfl

@[simp] theorem State.dropLine_chip (line : Nat) (l : L2Line) : (s.dropLine line l).chip = s.chip := rfl
@[simp] theorem State.dropLine_mem (line : Nat) (l : L2Line) : (s.dropLine line l).mem = s.mem := rfl
@[simp] theorem State.dropLine_host (line : Nat) (l : L2Line) : (s.dropLine line l).host = s.host := rfl
@[simp] theorem State.dropLine_bays (line : Nat) (l : L2Line) : (s.dropLine line l).bays = s.bays := rfl
@[simp] theorem State.dropLine_groups (line : Nat) (l : L2Line) : (s.dropLine line l).groups = s.groups := rfl
@[simp] theorem State.dropLine_nodes (line : Nat) (l : L2Line) : (s.dropLine line l).nodes = s.nodes := rfl
@[simp] theorem State.dropLine_frames (line : Nat) (l : L2Line) : (s.dropLine line l).frames = s.frames := rfl
@[simp] theorem State.dropLine_ops (line : Nat) (l : L2Line) : (s.dropLine line l).ops = s.ops := rfl
@[simp] theorem State.dropLine_fences (line : Nat) (l : L2Line) : (s.dropLine line l).fences = s.fences := rfl
@[simp] theorem State.dropLine_producers (line : Nat) (l : L2Line) : (s.dropLine line l).producers = s.producers := rfl
@[simp] theorem State.dropLine_jobs (line : Nat) (l : L2Line) : (s.dropLine line l).jobs = s.jobs := rfl
@[simp] theorem State.dropLine_matq (line : Nat) (l : L2Line) : (s.dropLine line l).matq = s.matq := rfl
@[simp] theorem State.dropLine_holds (line : Nat) (l : L2Line) : (s.dropLine line l).holds = s.holds := rfl
@[simp] theorem State.dropLine_loads (line : Nat) (l : L2Line) : (s.dropLine line l).loads = s.loads := rfl
@[simp] theorem State.dropLine_agenda (line : Nat) (l : L2Line) : (s.dropLine line l).agenda = s.agenda := rfl
@[simp] theorem State.dropLine_cur (line : Nat) (l : L2Line) : (s.dropLine line l).cur = s.cur := rfl
@[simp] theorem State.dropLine_round (line : Nat) (l : L2Line) : (s.dropLine line l).round = s.round := rfl
@[simp] theorem State.dropLine_now (line : Nat) (l : L2Line) : (s.dropLine line l).now = s.now := rfl
@[simp] theorem State.dropLine_nextId (line : Nat) (l : L2Line) : (s.dropLine line l).nextId = s.nextId := rfl
@[simp] theorem State.dropLine_free (line : Nat) (l : L2Line) : (s.dropLine line l).free = s.free := rfl

/-! Units of a frame -/

@[simp] theorem Frame.modUnit_units (fr : Frame) (i : Nat) (g : RodUnit → RodUnit) : (fr.modUnit i g).units = fr.units.modify i g := rfl
@[simp] theorem Frame.modUnit_node (fr : Frame) (i : Nat) (g : RodUnit → RodUnit) : (fr.modUnit i g).node = fr.node := rfl
@[simp] theorem Frame.modUnit_bay (fr : Frame) (i : Nat) (g : RodUnit → RodUnit) : (fr.modUnit i g).bay = fr.bay := rfl
@[simp] theorem Frame.modUnit_level (fr : Frame) (i : Nat) (g : RodUnit → RodUnit) : (fr.modUnit i g).level = fr.level := rfl
@[simp] theorem Frame.modUnit_frameId (fr : Frame) (i : Nat) (g : RodUnit → RodUnit) : (fr.modUnit i g).frameId = fr.frameId := rfl
@[simp] theorem Frame.modUnit_x (fr : Frame) (i : Nat) (g : RodUnit → RodUnit) : (fr.modUnit i g).x = fr.x := rfl
@[simp] theorem Frame.modUnit_y (fr : Frame) (i : Nat) (g : RodUnit → RodUnit) : (fr.modUnit i g).y = fr.y := rfl
@[simp] theorem Frame.modUnit_z (fr : Frame) (i : Nat) (g : RodUnit → RodUnit) : (fr.modUnit i g).z = fr.z := rfl
@[simp] theorem Frame.modUnit_karg (fr : Frame) (i : Nat) (g : RodUnit → RodUnit) : (fr.modUnit i g).karg = fr.karg := rfl
@[simp] theorem Frame.modUnit_width (fr : Frame) (i : Nat) (g : RodUnit → RodUnit) : (fr.modUnit i g).width = fr.width := rfl
@[simp] theorem Frame.modUnit_rods (fr : Frame) (i : Nat) (g : RodUnit → RodUnit) : (fr.modUnit i g).rods = fr.rods := rfl
@[simp] theorem Frame.modUnit_vgran (fr : Frame) (i : Nat) (g : RodUnit → RodUnit) : (fr.modUnit i g).vgran = fr.vgran := rfl
@[simp] theorem Frame.modUnit_pane (fr : Frame) (i : Nat) (g : RodUnit → RodUnit) : (fr.modUnit i g).pane = fr.pane := rfl
@[simp] theorem Frame.modUnit_board (fr : Frame) (i : Nat) (g : RodUnit → RodUnit) : (fr.modUnit i g).board = fr.board := rfl
@[simp] theorem Frame.modUnit_sides (fr : Frame) (i : Nat) (g : RodUnit → RodUnit) : (fr.modUnit i g).sides = fr.sides := rfl
@[simp] theorem Frame.modUnit_cores (fr : Frame) (i : Nat) (g : RodUnit → RodUnit) : (fr.modUnit i g).cores = fr.cores := rfl
@[simp] theorem Frame.modUnit_bayCores (fr : Frame) (i : Nat) (g : RodUnit → RodUnit) : (fr.modUnit i g).bayCores = fr.bayCores := rfl
@[simp] theorem Frame.modUnit_codeBase (fr : Frame) (i : Nat) (g : RodUnit → RodUnit) : (fr.modUnit i g).codeBase = fr.codeBase := rfl
@[simp] theorem Frame.modUnit_codeWords (fr : Frame) (i : Nat) (g : RodUnit → RodUnit) : (fr.modUnit i g).codeWords = fr.codeWords := rfl
@[simp] theorem Frame.modUnit_ftab (fr : Frame) (i : Nat) (g : RodUnit → RodUnit) : (fr.modUnit i g).ftab = fr.ftab := rfl
@[simp] theorem Frame.modUnit_ftlen (fr : Frame) (i : Nat) (g : RodUnit → RodUnit) : (fr.modUnit i g).ftlen = fr.ftlen := rfl
@[simp] theorem Frame.modUnit_ppt (fr : Frame) (i : Nat) (g : RodUnit → RodUnit) : (fr.modUnit i g).ppt = fr.ppt := rfl
@[simp] theorem Frame.modUnit_bindings (fr : Frame) (i : Nat) (g : RodUnit → RodUnit) : (fr.modUnit i g).bindings = fr.bindings := rfl
@[simp] theorem Frame.modUnit_positions (fr : Frame) (i : Nat) (g : RodUnit → RodUnit) : (fr.modUnit i g).positions = fr.positions := rfl
@[simp] theorem Frame.modUnit_paneMem (fr : Frame) (i : Nat) (g : RodUnit → RodUnit) : (fr.modUnit i g).paneMem = fr.paneMem := rfl
@[simp] theorem Frame.modUnit_panePoison (fr : Frame) (i : Nat) (g : RodUnit → RodUnit) : (fr.modUnit i g).panePoison = fr.panePoison := rfl
@[simp] theorem Frame.modUnit_tiles (fr : Frame) (i : Nat) (g : RodUnit → RodUnit) : (fr.modUnit i g).tiles = fr.tiles := rfl
@[simp] theorem Frame.modUnit_tilePoison (fr : Frame) (i : Nat) (g : RodUnit → RodUnit) : (fr.modUnit i g).tilePoison = fr.tilePoison := rfl
@[simp] theorem Frame.modUnit_rclk (fr : Frame) (i : Nat) (g : RodUnit → RodUnit) : (fr.modUnit i g).rclk = fr.rclk := rfl
@[simp] theorem Frame.modUnit_haltReq (fr : Frame) (i : Nat) (g : RodUnit → RodUnit) : (fr.modUnit i g).haltReq = fr.haltReq := rfl
@[simp] theorem Frame.modUnit_timedOut (fr : Frame) (i : Nat) (g : RodUnit → RodUnit) : (fr.modUnit i g).timedOut = fr.timedOut := rfl
@[simp] theorem Frame.modUnit_term (fr : Frame) (i : Nat) (g : RodUnit → RodUnit) : (fr.modUnit i g).term = fr.term := rfl
@[simp] theorem Frame.modUnit_arrivals (fr : Frame) (i : Nat) (g : RodUnit → RodUnit) : (fr.modUnit i g).arrivals = fr.arrivals := rfl
@[simp] theorem Frame.modUnit_exited (fr : Frame) (i : Nat) (g : RodUnit → RodUnit) : (fr.modUnit i g).exited = fr.exited := rfl

end Sys2Proof.Machine
end

