-- ==== Sys2Proof/Laws/Memory.lean ====
section
/-! SUPPORT. Memory keeps its canonical form under every operation on it, and reads back what was stored. -/

namespace Sys2Proof.Machine

/-! ## Rising lists -/

theorem all_lt_insertNum {b x : Nat} (hb : b < x) : ∀ {xs : List Nat}, (xs.all fun y => decide (b < y)) = true →
    ((insertNum x xs).all fun y => decide (b < y)) = true := by
  intro xs h
  simp only [List.all_eq_true, decide_eq_true_eq] at h ⊢
  intro y hy
  rcases (mem_insertNum x y xs).1 hy with h1 | h1
  · omega
  · exact h y h1

theorem risingNums_insert (x : Nat) : ∀ {xs : List Nat}, risingNums xs = true → risingNums (insertNum x xs) = true
  | [], _ => rfl
  | y :: ys, h => by
    have h' := h
    simp only [risingNums, Bool.and_eq_true] at h'
    simp only [insertNum]
    split
    · rename_i hlt
      simp only [risingNums, List.all_cons, Bool.and_eq_true, decide_eq_true_eq]
      refine ⟨⟨hlt, ?_⟩, h'⟩
      have := h'.1
      simp only [List.all_eq_true, decide_eq_true_eq] at this ⊢
      intro z hz
      have := this z hz
      omega
    · split
      · exact h
      · rename_i h1 h2
        have hne : x ≠ y := by simpa using h2
        simp only [risingNums, Bool.and_eq_true]
        exact ⟨all_lt_insertNum (by omega) h'.1, risingNums_insert x h'.2⟩

theorem risingNums_filter (p : Nat → Bool) : ∀ {xs : List Nat}, risingNums xs = true → risingNums (xs.filter p) = true
  | [], _ => rfl
  | y :: ys, h => by
    simp only [risingNums, Bool.and_eq_true] at h
    simp only [List.filter]
    split
    · simp only [risingNums, Bool.and_eq_true]
      refine ⟨?_, risingNums_filter p h.2⟩
      have := h.1
      simp only [List.all_eq_true] at this ⊢
      intro z hz
      exact this z (List.mem_filter.1 hz).1
    · exact risingNums_filter p h.2

theorem risingNums_put (b : Bool) (x : Nat) {xs : List Nat} (h : risingNums xs = true) : risingNums (putNum b x xs) = true := by
  unfold putNum removeNum
  split
  · exact risingNums_insert x h
  · exact risingNums_filter _ h

/-! ## The operations on memory -/

theorem wf_parts (m : Mem) : Memory.wf m = true ↔
    SMap.wf 0 m.cells = true ∧ SMap.wf 0 m.tags = true ∧ SMap.wf 0 m.sills = true ∧ risingNums m.poison = true ∧
      m.tagsBare = true := by
  simp only [Memory.wf, Bool.and_eq_true]
  exact ⟨fun ⟨⟨⟨⟨a, b⟩, c⟩, d⟩, e⟩ => ⟨a, b, d, e, c⟩, fun ⟨a, b, d, e, c⟩ => ⟨⟨⟨⟨a, b⟩, c⟩, d⟩, e⟩⟩

/-- A tag put in a map that lists no bare tag leaves none. -/
theorem tagsBare_set {m : Mem} (h : m.tagsBare = true) (line tag : Nat) :
    ((SMap.set 0 m.tags line (m.listedTag line tag)).all fun p => p.2 != m.bareTag p.1 + 1) = true := by
  refine all_set 0 _ (fun hne => ?_) h
  unfold Mem.listedTag at hne ⊢
  split at hne
  · exact absurd rfl hne
  · rename_i ht
    simp [ht]

theorem wf_foldl_set {α β : Type} [DecidableEq α] (d : α) (key : β → Nat) (val : β → α) :
    ∀ (xs : List β) {m : SMap α}, SMap.wf d m = true →
      SMap.wf d (xs.foldl (fun c b => SMap.set d c (key b) (val b)) m) = true
  | [], _, h => h
  | _ :: xs, _, h => wf_foldl_set d key val xs (wf_set h)

/-- Storing a line keeps the form. -/
theorem Mem.setLine_wf {m : Mem} (h : Memory.wf m = true) (line : Nat) (data : BitVec 1024) (poison : Bool) (tag : Nat) :
    Memory.wf (m.setLine line data poison tag) = true := by
  rw [wf_parts] at h ⊢
  refine ⟨?_, wf_set h.2.1, h.2.2.1, risingNums_put _ _ h.2.2.2.1, tagsBare_set h.2.2.2.2 line tag⟩
  exact wf_foldl_set 0 (fun i => line * 128 + i) (fun i => data.extractLsb' (8 * i) 8) _ h.1

/-- Moving a line keeps the form. -/
theorem Mem.moveLine_wf {m : Mem} (h : Memory.wf m = true) (from_ to_ : Nat) : Memory.wf (m.moveLine from_ to_) = true :=
  Mem.setLine_wf h _ _ _ _

/-- Putting a sill keeps the form. -/
theorem State.setSill_wf {s : State} (h : Memory.wf s.mem = true) (line : Nat) (v : BitVec 32) :
    Memory.wf (s.setSill line v).mem = true := by
  rw [wf_parts] at h ⊢
  exact ⟨h.1, h.2.1, wf_set h.2.2.1, h.2.2.2⟩

/-- Poisoning a line keeps the form. -/
theorem Mem.poison_wf {m : Mem} (h : Memory.wf m = true) (b : Bool) (line : Nat) :
    Memory.wf { m with poison := putNum b line m.poison } = true := by
  rw [wf_parts] at h ⊢
  exact ⟨h.1, h.2.1, h.2.2.1, risingNums_put _ _ h.2.2.2.1, h.2.2.2.2⟩

/-- Bytes put as they stand keep the form. -/
theorem Mem.cells_wf {m : Mem} (h : Memory.wf m = true) {c : SMap (BitVec 8)} (hc : SMap.wf 0 c = true) :
    Memory.wf { m with cells := c } = true := by
  rw [wf_parts] at h ⊢
  exact ⟨hc, h.2.1, h.2.2.1, h.2.2.2⟩

/-- Putting the key tag of a line keeps the form. -/
theorem Mem.setTag_wf {m : Mem} (h : Memory.wf m = true) (line tag : Nat) : Memory.wf (m.setTag line tag) = true := by
  rw [wf_parts] at h ⊢
  exact ⟨h.1, wf_set h.2.1, h.2.2.1, h.2.2.2.1, tagsBare_set h.2.2.2.2 line tag⟩

/-! ## A stored line reads back -/

/-- A byte of memory, whatever line it is in. -/
def Mem.byte (m : Mem) (a : Nat) : BitVec 8 := SMap.get 0 m.cells a

theorem get_foldl_set {α : Type} [DecidableEq α] (d : α) (base : Nat) (val : Nat → α) (a : Nat) :
    ∀ (xs : List Nat) (m : SMap α), xs.Nodup →
      SMap.get d (xs.foldl (fun c i => SMap.set d c (base + i) (val i)) m) a =
        if a - base ∈ xs ∧ base ≤ a then val (a - base) else SMap.get d m a
  | [], _, _ => by simp
  | x :: xs, m, hn => by
    have hn' := List.nodup_cons.1 hn
    rw [List.foldl_cons, get_foldl_set d base val a xs _ hn'.2]
    by_cases hx : a = base + x
    · subst hx
      have e : base + x - base = x := by omega
      simp only [e, hn'.1, false_and, if_false, List.mem_cons, true_or, Nat.le_add_right, and_self, if_true]
      exact get_set_same d _ _ _
    · rw [get_set_other d _ hx]
      have e : (a - base ∈ x :: xs ∧ base ≤ a) ↔ (a - base ∈ xs ∧ base ≤ a) := by
        constructor
        · rintro ⟨h1, h2⟩
          refine ⟨?_, h2⟩
          rcases List.mem_cons.1 h1 with h3 | h3
          · omega
          · exact h3
        · rintro ⟨h1, h2⟩
          exact ⟨List.mem_cons_of_mem _ h1, h2⟩
      simp only [e]

/-- After a line is stored, its bytes read as the data and every other byte reads as before. -/
theorem Mem.byte_setLine (m : Mem) (line a : Nat) (data : BitVec 1024) (poison : Bool) (tag : Nat) :
    (m.setLine line data poison tag).byte a =
      if a / 128 = line then data.extractLsb' (8 * (a % 128)) 8 else m.byte a := by
  have key := get_foldl_set (0 : BitVec 8) (line * 128) (fun i => data.extractLsb' (8 * i) 8) a (List.range 128) m.cells List.nodup_range
  unfold Mem.byte Mem.setLine
  refine key.trans ?_
  by_cases hl : a / 128 = line
  · have h1 : a - line * 128 ∈ List.range 128 ∧ line * 128 ≤ a := by
      rw [List.mem_range]; omega
    have h2 : a - line * 128 = a % 128 := by omega
    rw [if_pos h1, if_pos hl, h2]
  · have h1 : ¬ (a - line * 128 ∈ List.range 128 ∧ line * 128 ≤ a) := by
      rw [List.mem_range]; omega
    rw [if_neg h1, if_neg hl]

end Sys2Proof.Machine
end

