-- ==== Sys2Proof/Laws/Words.lean ====
section
/-! SUPPORT. What every word does around its own effect: once issued it runs its body, and the unit that issued it is the one that
changes. -/

namespace Sys2Proof.Machine

variable {s : State} {c : IssueCtx}

/-! ## The issuing unit -/

theorem issuing_parts (h : s.issuing = some c) :
    s.frame? c.fid = some c.fr ∧ c.fr.unit? c.ui = some c.u ∧ c.e ∈ c.u.frontier := by
  unfold State.issuing at h
  split at h <;> try cases h
  split at h <;> try cases h
  split at h <;> try cases h
  split at h <;> try cases h
  exact ⟨by assumption, by assumption, List.mem_of_find?_eq_some (by assumption)⟩

theorem unit?_of_issuing (h : s.issuing = some c) : s.unit? c.fid c.ui = some c.u := by
  obtain ⟨h1, h2, _⟩ := issuing_parts h
  simp [State.unit?, h1, h2]

@[simp] theorem frame?_modUnit (k i j : Nat) (g : RodUnit → RodUnit) :
    (s.modUnit k i g).frame? j = if j = k then (s.frame? j).map (·.modUnit i g) else s.frame? j := by
  simp [State.frame?]

theorem unit?_modUnit_same (k i : Nat) (g : RodUnit → RodUnit) : (s.modUnit k i g).unit? k i = (s.unit? k i).map g := by
  unfold State.unit?
  rw [frame?_modUnit]
  cases h : s.frame? k with
  | none => simp
  | some fr => simp [Frame.unit?, Frame.modUnit]

theorem unit?_modUnit_other {k i k' i' : Nat} (g : RodUnit → RodUnit) (h : (k', i') ≠ (k, i)) :
    (s.modUnit k i g).unit? k' i' = s.unit? k' i' := by
  unfold State.unit?
  rw [frame?_modUnit]
  by_cases hk : k' = k
  · subst hk
    have hi : i ≠ i' := fun e => h (by simp [e])
    cases hf : s.frame? k' with
    | none => simp
    | some fr => simp [Frame.unit?, Frame.modUnit, hi]
  · simp [hk]

@[simp] theorem frame?_count (b n k j : Nat) : (s.count b n k).frame? j = s.frame? j := rfl
@[simp] theorem unit?_count (b n k j i : Nat) : (s.count b n k).unit? j i = s.unit? j i := rfl

/-! ## A word that issues -/

/-- Once a word issues, its meaning is its body. -/
theorem withWord_issues {fm : Form} {f : SFields} (h : s.wordIssues c fm f) (body : IssueCtx → Issue → State → Out) :
    withWord fm f body s = body c (c.issue fm f) s := by
  obtain ⟨h1, h2, h3, h4⟩ := h
  simp only [withWord, h1, h2, h3, h4]

/-- The unit of a word that moves on. -/
theorem unit?_finish (h : s.issuing = some c) (g : RodUnit → RodUnit) :
    (s.finish c g).unit? c.fid c.ui = some (c.passed (g c.u)) := by
  simp only [State.finish, State.issued, unit?_count, unit?_modUnit_same, unit?_of_issuing h, Option.map_some]
  rfl

/-- The unit of a word that says itself where its lanes go. -/
theorem unit?_issued (h : s.issuing = some c) (g : RodUnit → RodUnit) :
    (s.issued c g).unit? c.fid c.ui = some ((g c.u).used) := by
  simp only [State.issued, unit?_count, unit?_modUnit_same, unit?_of_issuing h, Option.map_some]

theorem issued_sameBut (g : RodUnit → RodUnit) : s.sameBut (s.issued c g) c := by
  refine ⟨rfl, rfl, rfl, rfl, rfl, rfl, rfl, rfl, rfl, rfl, rfl, rfl, rfl, rfl, ?_, ?_⟩
  · intro k hk
    simp only [State.issued, frame?_count, frame?_modUnit, if_neg hk]
  · intro k i hk
    simp only [State.issued, unit?_count]
    exact unit?_modUnit_other _ hk

theorem finish_sameBut (g : RodUnit → RodUnit) : s.sameBut (s.finish c g) c := issued_sameBut _

/-- The rest of the frame of a word that has issued. -/
theorem frame?_issued (h : s.issuing = some c) (g : RodUnit → RodUnit) :
    (s.issued c g).frame? c.fid = some (c.fr.modUnit c.ui (fun u => (g u).used)) := by
  simp only [State.issued, frame?_count, frame?_modUnit, if_true, (issuing_parts h).1, Option.map_some]

theorem execNow_issues {fm : Form} {f : SFields} (h : s.wordIssues c fm f) (g : Issue → Effect) :
    execNow fm g f s =
      .next (s.finish c (fun u => (u.apply (g (c.issue fm f))).bumpSeeds (seedRods fm (c.issue fm f)))) := by
  rw [execNow, withWord_issues h]

theorem execChecked_issues {fm : Form} {f : SFields} (h : s.wordIssues c fm f) {g : Issue → Except TrapInfo Effect} {eff : Effect}
    (hg : g (c.issue fm f) = .ok eff) :
    execChecked fm g f s =
      .next (s.finish c (fun u => (u.apply eff).bumpSeeds (seedRods fm (c.issue fm f)))) := by
  rw [execChecked, withWord_issues h, hg]

/-! ## Overrides -/

theorem checks_payload {k : CheckCtx} {fm : Form} {t : Option Transom} {f : SFields} (h : checkWord k fm t f = none) :
    payloadCause fm t f = none := by
  unfold checkWord at h
  split at h
  · cases h
  split at h
  · cases h
  split at h
  · cases h
  split at h
  · cases h
  split at h
  · cases h
  split at h
  · cases h
  · assumption

theorem regroup12 (m : BitVec 12) :
    m.extractLsb' 8 4 ++ m.extractLsb' 4 4 ++ m.extractLsb' 3 1 ++ m.extractLsb' 0 3 = m := by
  apply BitVec.eq_of_getLsbD_eq
  intro i hi
  simp only [BitVec.getLsbD_append, BitVec.getLsbD_extractLsb']
  rcases (by omega : i < 3 ∨ i = 3 ∨ (4 ≤ i ∧ i < 8) ∨ (8 ≤ i ∧ i < 12)) with h | h | h | h
  · simp [h]
  · simp [h]
  · have a1 : ¬ i < 3 := by omega
    have a2 : ¬ i - 3 < 1 := by omega
    have a3 : i - 3 - 1 < 4 := by omega
    have a4 : 4 + (i - 3 - 1) = i := by omega
    simp [a1, a2, a3, a4]
  · have a1 : ¬ i < 3 := by omega
    have a2 : ¬ i - 3 < 1 := by omega
    have a3 : ¬ i - 3 - 1 < 4 := by omega
    have a4 : i - 3 - 1 - 4 < 4 := by omega
    have a5 : 8 + (i - 3 - 1 - 4) = i := by omega
    simp [a1, a2, a3, a4, a5]

/-- A word that takes no override keeps its fields (R131). -/
theorem fields_kept {fm : Form} {f : SFields} (h : s.wordIssues c fm f) (h1 : fm.takesRm f = false) (h2 : fm.takesSat f = false)
    (h3 : fm.takesFa = false) (h4 : fm.takesFd = false) : (c.issue fm f).f = f := by
  have hp := checks_payload h.2.1
  show withOverride c.u.transom f = f
  unfold payloadCause at hp
  unfold withOverride
  cases ht : c.u.transom with
  | none => rfl
  | some t =>
    rw [ht] at hp
    obtain ⟨pc, kind, p⟩ := t
    cases kind with
    | lit => rfl
    | lbr => rfl
    | ovr =>
      simp only [h1, h2, h3, h4, Bool.not_false, Bool.and_true, Bool.false_or, Bool.or_self] at hp
      cases q1 : ovrRmv p <;> cases q2 : ovrSatv p <;> cases q3 : ovrFav p <;> cases q4 : ovrFdv p <;>
        simp only [q1, q2, q3, q4] at hp ⊢ <;> first
          | (split at hp <;> (try split at hp) <;> simp_all; done)
          | (simp only [Bool.false_eq_true, if_false, regroup12])

/-! ## The registers that moving on leaves -/

@[simp] theorem passed_vec (u : RodUnit) (r l : Nat) : (c.passed u).vec r l = u.vec r l := rfl
@[simp] theorem passed_vecPair (u : RodUnit) (r l : Nat) : (c.passed u).vecPair r l = u.vecPair r l := rfl
@[simp] theorem passed_laneVal (u : RodUnit) (w : Bool) (r l : Nat) : (c.passed u).laneVal w r l = u.laneVal w r l := rfl
@[simp] theorem passed_vecPoisoned (u : RodUnit) (r l : Nat) : (c.passed u).vecPoisoned r l = u.vecPoisoned r l := rfl
@[simp] theorem passed_pred (u : RodUnit) (p : Nat) : (c.passed u).pred p = u.pred p := rfl
@[simp] theorem passed_predPoisoned (u : RodUnit) (p l : Nat) : (c.passed u).predPoisoned p l = u.predPoisoned p l := rfl
@[simp] theorem passed_rod (u : RodUnit) (i : Nat) : (c.passed u).rod i = u.rod i := rfl
@[simp] theorem passed_rods (u : RodUnit) : (c.passed u).rods = u.rods := rfl
@[simp] theorem passed_vEmpty (u : RodUnit) : (c.passed u).vEmpty = u.vEmpty := rfl
@[simp] theorem passed_pEmpty (u : RodUnit) : (c.passed u).pEmpty = u.pEmpty := rfl
@[simp] theorem passed_transom (u : RodUnit) : (c.passed u).transom = none := rfl

end Sys2Proof.Machine
end

