-- ==== Sys2Proof/Laws/Effects.lean ====
section
/-! SUPPORT. What the registers hold after an effect: each register reads the last write made to it, or what it held before. -/

namespace Sys2Proof.Machine

/-! ## The last write decides -/

/-- After a run of steps, an observation reads the last value a step gave it, or what it read before. -/
theorem foldl_last {α β γ : Type} (step : γ → α → γ) (obs : γ → β) (hit : α → Option β)
    (h : ∀ g a, obs (step g a) = (hit a).getD (obs g)) :
    ∀ (ws : List α) (g : γ), obs (ws.foldl step g) = ((ws.filterMap hit).getLast?).getD (obs g)
  | [], g => by simp
  | w :: ws, g => by
    rw [List.foldl_cons, foldl_last step obs hit h ws (step g w), h]
    cases hw : hit w with
    | none => simp [hw]
    | some v =>
      rw [List.filterMap_cons_some hw, List.getLast?_cons]
      cases (List.filterMap hit ws).getLast? <;> simp

/-- When every value given is the same and one is given, that is what is read. -/
theorem getLast?_const {β : Type} (v b : β) (xs : List β) (hall : ∀ x ∈ xs, x = v) (hne : xs ≠ []) : (xs.getLast?).getD b = v := by
  rw [List.getLast?_eq_some_getLast hne, Option.getD_some]
  exact hall _ (List.getLast_mem hne)

/-- When every step that touches the observation gives it `v`, and one does, it reads `v`. -/
theorem foldl_hits {α β γ : Type} (step : γ → α → γ) (obs : γ → β) (hit : α → Option β)
    (h : ∀ g a, obs (step g a) = (hit a).getD (obs g)) (ws : List α) (g : γ) (v : β)
    (hall : ∀ w ∈ ws, hit w = none ∨ hit w = some v) (hex : ∃ w ∈ ws, hit w = some v) : obs (ws.foldl step g) = v := by
  rw [foldl_last step obs hit h]
  apply getLast?_const
  · intro x hx
    obtain ⟨w, hw, hx⟩ := List.mem_filterMap.1 hx
    rcases hall w hw with h1 | h1
    · rw [h1] at hx; cases hx
    · rw [h1] at hx; exact (Option.some.inj hx).symm
  · obtain ⟨w, hw, hx⟩ := hex
    intro hn
    have : v ∈ ws.filterMap hit := List.mem_filterMap.2 ⟨w, hw, hx⟩
    rw [hn] at this
    cases this

/-- When no step touches the observation, it reads what it read before. -/
theorem foldl_misses {α β γ : Type} (step : γ → α → γ) (obs : γ → β) (hit : α → Option β)
    (h : ∀ g a, obs (step g a) = (hit a).getD (obs g)) (ws : List α) (g : γ)
    (hall : ∀ w ∈ ws, hit w = none) : obs (ws.foldl step g) = obs g := by
  rw [foldl_last step obs hit h]
  have : ws.filterMap hit = [] := List.filterMap_eq_nil_iff.2 hall
  rw [this]; rfl

/-! ## Bits of a lane set -/

theorem getLsbD_setBit (x : BitVec 64) (i j : Nat) (b : Bool) (hi : i < 64) :
    (setBit x i b).getLsbD j = if j = i then b else x.getLsbD j := by
  by_cases hj : j < 64
  · have e : (BitVec.ofNat 64 (2 ^ i)).getLsbD j = decide (j = i) := by
      rw [BitVec.getLsbD_ofNat, Nat.testBit_two_pow]
      simp [hj, eq_comm]
    unfold setBit
    cases b
    · simp only [Bool.false_eq_true, if_false, BitVec.getLsbD_and, BitVec.getLsbD_not, e, hj, decide_true, Bool.true_and]
      by_cases h : j = i <;> simp [h]
    · simp only [if_true, BitVec.getLsbD_or, e]
      by_cases h : j = i <;> simp [h]
  · have h1 : ¬ j = i := by omega
    rw [if_neg h1, BitVec.getLsbD_of_ge _ _ (by omega), BitVec.getLsbD_of_ge _ _ (by omega)]

theorem getLsbD_laneSet (ls : List Nat) (j : Nat) (hj : j < 64) : (laneSet ls).getLsbD j = decide (j ∈ ls) := by
  induction ls with
  | nil => simp [laneSet]
  | cons l ls ih =>
    have e : (BitVec.ofNat 64 (2 ^ l)).getLsbD j = decide (j = l) := by
      rw [BitVec.getLsbD_ofNat, Nat.testBit_two_pow]
      simp [hj, eq_comm]
    rw [laneSet, BitVec.getLsbD_or, ih, e, Bool.eq_iff_iff]
    simp [or_comm]

/-- The lanes in which a word acts: those of the entry that are in EXM and pass the guard (R147). -/
theorem mem_activeLanes (width : Nat) (u : RodUnit) (f : SFields) (lanes : BitVec 64) (l : Nat) :
    l ∈ lanesOf (activeLanes width u f lanes) ↔
      (l < 64 ∧ lanes.getLsbD l = true) ∧
      (u.rod (rodOfLane width l)).exm.getLsbD (logicalLane width l) = true ∧ guardPasses u f l = true := by
  have key : ∀ (ls : List Nat), (∀ x ∈ ls, x < 64) → (l ∈ lanesOf (laneSet ls) ↔ l ∈ ls) := by
    intro ls hls
    rw [mem_lanesOf]
    constructor
    · rintro ⟨h1, h2⟩
      rw [getLsbD_laneSet _ _ h1] at h2
      simpa using h2
    · intro h
      refine ⟨hls l h, ?_⟩
      rw [getLsbD_laneSet _ _ (hls l h)]
      simpa using h
  have b1 : ∀ x ∈ (lanesOf lanes).filter (fun l => (u.rod (rodOfLane width l)).exm.getLsbD (logicalLane width l)), x < 64 := by
    intro x hx
    exact ((mem_lanesOf _ _).1 (List.mem_filter.1 hx).1).1
  have b2 : ∀ x ∈ (lanesOf (takingSet width u lanes)).filter (guardPasses u f), x < 64 := by
    intro x hx
    exact ((mem_lanesOf _ _).1 (List.mem_filter.1 hx).1).1
  unfold activeLanes
  rw [key _ b2, List.mem_filter]
  have : l ∈ lanesOf (takingSet width u lanes) ↔ l ∈ (lanesOf lanes).filter
      (fun l => (u.rod (rodOfLane width l)).exm.getLsbD (logicalLane width l)) := key _ b1
  rw [this, List.mem_filter, mem_lanesOf]
  exact ⟨fun h => ⟨h.1.1, h.1.2, h.2⟩, fun h => ⟨⟨h.1, h.2.1⟩, h.2.2⟩⟩

/-! ## Rods of a unit -/

theorem rod_setRod (u : RodUnit) (i j : Nat) (g : LRod → LRod) :
    (u.setRod i g).rod j = if i = j ∧ j < u.rods.length then g (u.rod j) else u.rod j := by
  unfold RodUnit.setRod RodUnit.rod
  simp only [List.getElem?_modify]
  by_cases hj : j < u.rods.length
  · by_cases hi : i = j <;> simp [hi, hj]
  · have : u.rods[j]? = none := List.getElem?_eq_none (by omega)
    simp [hj]

@[simp] theorem setRod_vregs (u : RodUnit) (i : Nat) (g : LRod → LRod) : (u.setRod i g).vregs = u.vregs := rfl
@[simp] theorem setRod_vec (u : RodUnit) (i : Nat) (g : LRod → LRod) (r l : Nat) : (u.setRod i g).vec r l = u.vec r l := rfl
@[simp] theorem setRod_vPoison (u : RodUnit) (i : Nat) (g : LRod → LRod) : (u.setRod i g).vPoison = u.vPoison := rfl
@[simp] theorem setRod_preds (u : RodUnit) (i : Nat) (g : LRod → LRod) : (u.setRod i g).preds = u.preds := rfl
@[simp] theorem setRod_pred (u : RodUnit) (i : Nat) (g : LRod → LRod) (p : Nat) : (u.setRod i g).pred p = u.pred p := rfl
@[simp] theorem setRod_pPoison (u : RodUnit) (i : Nat) (g : LRod → LRod) : (u.setRod i g).pPoison = u.pPoison := rfl
@[simp] theorem setRod_length (u : RodUnit) (i : Nat) (g : LRod → LRod) : (u.setRod i g).rods.length = u.rods.length := by
  simp [RodUnit.setRod]
@[simp] theorem setRod_frontier (u : RodUnit) (i : Nat) (g : LRod → LRod) : (u.setRod i g).frontier = u.frontier := rfl
@[simp] theorem setRod_vEmpty (u : RodUnit) (i : Nat) (g : LRod → LRod) : (u.setRod i g).vEmpty = u.vEmpty := rfl
@[simp] theorem setRod_pEmpty (u : RodUnit) (i : Nat) (g : LRod → LRod) : (u.setRod i g).pEmpty = u.pEmpty := rfl

/-! ## One write -/

/-- The value a write gives a vector lane. -/
def RegWrite.vecHit (r l : Nat) : RegWrite → Option (BitVec 32)
  | .vec reg lane v _ => if r * 64 + l = reg * 64 + lane then some v else none
  | _ => none

theorem vec_applyWrite (r l : Nat) (u : RodUnit) (w : RegWrite) :
    (u.applyWrite w).vec r l = (w.vecHit r l).getD (u.vec r l) := by
  cases w with
  | vec reg lane v p =>
    simp only [RodUnit.applyWrite, RodUnit.vec, RegWrite.vecHit, get_set]
    split <;> rfl
  | scl rod reg v p => simp only [RodUnit.applyWrite, RegWrite.vecHit]; split <;> rfl
  | prd p l v q => simp only [RodUnit.applyWrite, RegWrite.vecHit]; split <;> rfl
  | special rod n v => rfl

/-- The value a write gives a predicate lane. -/
def RegWrite.prdHit (p l : Nat) : RegWrite → Option Bool
  | .prd q lane v _ => if p = q ∧ p ≠ 0 ∧ l = lane ∧ lane < 64 then some v else none
  | _ => none

/-- Predicate lanes are below 64. -/
def RegWrite.laneOk : RegWrite → Bool
  | .prd _ lane _ _ => decide (lane < 64)
  | _ => true

theorem pred_applyWrite (p l : Nat) (u : RodUnit) (w : RegWrite) (hw : w.laneOk = true) :
    ((u.applyWrite w).pred p).getLsbD l = (w.prdHit p l).getD ((u.pred p).getLsbD l) := by
  cases w with
  | vec reg lane v q => rfl
  | scl rod reg v q => simp only [RodUnit.applyWrite, RegWrite.prdHit]; split <;> rfl
  | prd q lane v z =>
    have hl : lane < 64 := by simpa [RegWrite.laneOk] using hw
    simp only [RodUnit.applyWrite, RegWrite.prdHit]
    by_cases hq : q = 0
    · subst hq
      by_cases hp : p = 0
      · simp [hp]
      · simp [hp]
    · simp only [hq, if_false]
      by_cases hp : p = 0
      · subst hp; simp [RodUnit.pred, Ne.symm hq]
      · by_cases e : p = q
        · subst e
          simp only [RodUnit.pred, hq, if_false, get_set_same, getLsbD_setBit _ _ _ _ hl]
          by_cases hll : l = lane <;> simp [hll, hl, hp]
        · simp only [RodUnit.pred, hp, if_false, get_set, e, false_and, Option.getD_none]
  | special rod n v => rfl

/-- The value a write gives a scalar. -/
def RegWrite.sclHit (i n : Nat) : RegWrite → Option (BitVec 64)
  | .scl rod reg v _ => if rod = i ∧ reg = n ∧ n ≠ 0 then some v else none
  | _ => none

theorem scl_applyWrite (i n : Nat) (u : RodUnit) (hi : i < u.rods.length) (w : RegWrite) :
    ((u.applyWrite w).rod i).scl n = (w.sclHit i n).getD ((u.rod i).scl n) := by
  cases w with
  | vec reg lane v q => rfl
  | prd q lane v z => simp only [RodUnit.applyWrite, RegWrite.sclHit]; split <;> rfl
  | special rod k v =>
    simp only [RodUnit.applyWrite, RegWrite.sclHit, rod_setRod, Option.getD_none]
    split
    · unfold LRod.setSpecial; split <;> rfl
    · rfl
  | scl rod reg v q =>
    simp only [RodUnit.applyWrite, RegWrite.sclHit]
    by_cases hr : reg = 0
    · subst hr
      simp only [if_true]
      split
      · rename_i h; omega
      · rfl
    · simp only [hr, if_false, rod_setRod]
      by_cases hri : rod = i
      · subst hri
        simp only [hi, true_and, and_self, if_true]
        by_cases hn : n = 0
        · subst hn; simp [LRod.scl]
        · simp only [LRod.scl, hn, if_false, get_set]
          by_cases e : reg = n
          · subst e; simp [hr]
          · simp [e, Ne.symm e]
      · simp [hri]

@[simp] theorem length_applyWrite (u : RodUnit) (w : RegWrite) : (u.applyWrite w).rods.length = u.rods.length := by
  cases w <;> simp only [RodUnit.applyWrite] <;> (try split) <;> simp

@[simp] theorem length_applyWrites : ∀ (ws : List RegWrite) (u : RodUnit), (ws.foldl RodUnit.applyWrite u).rods.length = u.rods.length
  | [], _ => rfl
  | w :: ws, u => by rw [List.foldl_cons, length_applyWrites ws, length_applyWrite]

/-! ## Flags and seeds leave the registers -/

@[simp] theorem vec_mergeFlags (u : RodUnit) (a : FlagAdd) (r l : Nat) : (u.mergeFlags a).vec r l = u.vec r l := rfl
@[simp] theorem pred_mergeFlags (u : RodUnit) (a : FlagAdd) (p : Nat) : (u.mergeFlags a).pred p = u.pred p := rfl
@[simp] theorem length_mergeFlags (u : RodUnit) (a : FlagAdd) : (u.mergeFlags a).rods.length = u.rods.length := by
  simp [RodUnit.mergeFlags]
theorem scl_mergeFlags (u : RodUnit) (a : FlagAdd) (i n : Nat) : ((u.mergeFlags a).rod i).scl n = (u.rod i).scl n := by
  simp only [RodUnit.mergeFlags, rod_setRod]; split <;> rfl

theorem vec_mergeAll (r l : Nat) : ∀ (fs : List FlagAdd) (u : RodUnit), (fs.foldl RodUnit.mergeFlags u).vec r l = u.vec r l
  | [], _ => rfl
  | a :: fs, u => by rw [List.foldl_cons, vec_mergeAll r l fs]; rfl
theorem pred_mergeAll (p : Nat) : ∀ (fs : List FlagAdd) (u : RodUnit), (fs.foldl RodUnit.mergeFlags u).pred p = u.pred p
  | [], _ => rfl
  | a :: fs, u => by rw [List.foldl_cons, pred_mergeAll p fs]; rfl
theorem scl_mergeAll (i n : Nat) : ∀ (fs : List FlagAdd) (u : RodUnit),
    ((fs.foldl RodUnit.mergeFlags u).rod i).scl n = (u.rod i).scl n
  | [], _ => rfl
  | a :: fs, u => by rw [List.foldl_cons, scl_mergeAll i n fs, scl_mergeFlags]

theorem vec_bumpSeeds (r l : Nat) : ∀ (is : List Nat) (u : RodUnit), (u.bumpSeeds is).vec r l = u.vec r l
  | [], _ => rfl
  | i :: is, u => by
    have := vec_bumpSeeds r l is (u.setRod i (fun r => { r with srseed := r.srseed + 1 }))
    simpa [RodUnit.bumpSeeds] using this
theorem pred_bumpSeeds (p : Nat) : ∀ (is : List Nat) (u : RodUnit), (u.bumpSeeds is).pred p = u.pred p
  | [], _ => rfl
  | i :: is, u => by
    have := pred_bumpSeeds p is (u.setRod i (fun r => { r with srseed := r.srseed + 1 }))
    simpa [RodUnit.bumpSeeds] using this
theorem scl_bumpSeeds (j n : Nat) : ∀ (is : List Nat) (u : RodUnit), ((u.bumpSeeds is).rod j).scl n = (u.rod j).scl n
  | [], _ => rfl
  | i :: is, u => by
    have h := scl_bumpSeeds j n is (u.setRod i (fun r => { r with srseed := r.srseed + 1 }))
    have h2 : ((u.setRod i (fun r => { r with srseed := r.srseed + 1 })).rod j).scl n = (u.rod j).scl n := by
      rw [rod_setRod]; split <;> rfl
    rw [h2] at h
    simpa [RodUnit.bumpSeeds] using h

/-! ## An effect -/

theorem vec_apply (u : RodUnit) (eff : Effect) (r l : Nat) :
    (u.apply eff).vec r l = (eff.writes.foldl RodUnit.applyWrite u).vec r l := by
  rw [RodUnit.apply, vec_mergeAll]

theorem pred_apply (u : RodUnit) (eff : Effect) (p : Nat) :
    (u.apply eff).pred p = (eff.writes.foldl RodUnit.applyWrite u).pred p := by
  rw [RodUnit.apply, pred_mergeAll]

theorem scl_apply (u : RodUnit) (eff : Effect) (i n : Nat) :
    ((u.apply eff).rod i).scl n = ((eff.writes.foldl RodUnit.applyWrite u).rod i).scl n := by
  rw [RodUnit.apply, scl_mergeAll]

/-- A vector lane to which an effect writes one value holds it afterwards. -/
theorem vec_apply_hit (u : RodUnit) (eff : Effect) (r l : Nat) (v : BitVec 32)
    (hall : ∀ w ∈ eff.writes, w.vecHit r l = none ∨ w.vecHit r l = some v) (hex : ∃ w ∈ eff.writes, w.vecHit r l = some v) :
    (u.apply eff).vec r l = v := by
  rw [vec_apply]
  exact foldl_hits RodUnit.applyWrite (fun u => u.vec r l) (RegWrite.vecHit r l) (vec_applyWrite r l) _ _ v hall hex

/-- A vector lane that an effect does not write keeps its value. -/
theorem vec_apply_miss (u : RodUnit) (eff : Effect) (r l : Nat) (hall : ∀ w ∈ eff.writes, w.vecHit r l = none) :
    (u.apply eff).vec r l = u.vec r l := by
  rw [vec_apply]
  exact foldl_misses RodUnit.applyWrite (fun u => u.vec r l) (RegWrite.vecHit r l) (vec_applyWrite r l) _ _ hall

theorem scl_foldl (i n : Nat) : ∀ (ws : List RegWrite) (u : RodUnit), i < u.rods.length →
    ((ws.foldl RodUnit.applyWrite u).rod i).scl n = ((ws.filterMap (RegWrite.sclHit i n)).getLast?).getD ((u.rod i).scl n)
  | [], u, _ => by simp
  | w :: ws, u, hi => by
    rw [List.foldl_cons, scl_foldl i n ws _ (by simpa using hi), scl_applyWrite i n u hi]
    cases hw : w.sclHit i n with
    | none => simp [hw]
    | some v =>
      rw [List.filterMap_cons_some hw, List.getLast?_cons]
      cases (List.filterMap (RegWrite.sclHit i n) ws).getLast? <;> simp

/-- A scalar to which an effect writes one value holds it afterwards. -/
theorem scl_apply_hit (u : RodUnit) (eff : Effect) (i n : Nat) (hi : i < u.rods.length) (v : BitVec 64)
    (hall : ∀ w ∈ eff.writes, w.sclHit i n = none ∨ w.sclHit i n = some v) (hex : ∃ w ∈ eff.writes, w.sclHit i n = some v) :
    ((u.apply eff).rod i).scl n = v := by
  rw [scl_apply, scl_foldl i n _ _ hi]
  apply getLast?_const
  · intro x hx
    obtain ⟨w, hw, hx⟩ := List.mem_filterMap.1 hx
    rcases hall w hw with h1 | h1
    · rw [h1] at hx; cases hx
    · rw [h1] at hx; exact (Option.some.inj hx).symm
  · obtain ⟨w, hw, hx⟩ := hex
    intro hn
    have : v ∈ eff.writes.filterMap (RegWrite.sclHit i n) := List.mem_filterMap.2 ⟨w, hw, hx⟩
    rw [hn] at this
    cases this

/-- A scalar that an effect does not write keeps its value. -/
theorem scl_apply_miss (u : RodUnit) (eff : Effect) (i n : Nat) (hi : i < u.rods.length)
    (hall : ∀ w ∈ eff.writes, w.sclHit i n = none) : ((u.apply eff).rod i).scl n = (u.rod i).scl n := by
  rw [scl_apply, scl_foldl i n _ _ hi]
  have : eff.writes.filterMap (RegWrite.sclHit i n) = [] := List.filterMap_eq_nil_iff.2 hall
  rw [this]; rfl

theorem pred_foldl (p l : Nat) : ∀ (ws : List RegWrite) (u : RodUnit), (∀ w ∈ ws, w.laneOk = true) →
    ((ws.foldl RodUnit.applyWrite u).pred p).getLsbD l =
      ((ws.filterMap (RegWrite.prdHit p l)).getLast?).getD ((u.pred p).getLsbD l)
  | [], u, _ => by simp
  | w :: ws, u, h => by
    rw [List.foldl_cons, pred_foldl p l ws _ (fun w hw => h w (List.mem_cons_of_mem _ hw)),
      pred_applyWrite p l u w (h w List.mem_cons_self)]
    cases hw : w.prdHit p l with
    | none => simp [hw]
    | some v =>
      rw [List.filterMap_cons_some hw, List.getLast?_cons]
      cases (List.filterMap (RegWrite.prdHit p l) ws).getLast? <;> simp

/-- A predicate lane to which an effect writes one value holds it afterwards. -/
theorem pred_apply_hit (u : RodUnit) (eff : Effect) (p l : Nat) (hok : ∀ w ∈ eff.writes, w.laneOk = true) (v : Bool)
    (hall : ∀ w ∈ eff.writes, w.prdHit p l = none ∨ w.prdHit p l = some v) (hex : ∃ w ∈ eff.writes, w.prdHit p l = some v) :
    ((u.apply eff).pred p).getLsbD l = v := by
  rw [pred_apply, pred_foldl p l _ _ hok]
  apply getLast?_const
  · intro x hx
    obtain ⟨w, hw, hx⟩ := List.mem_filterMap.1 hx
    rcases hall w hw with h1 | h1
    · rw [h1] at hx; cases hx
    · rw [h1] at hx; exact (Option.some.inj hx).symm
  · obtain ⟨w, hw, hx⟩ := hex
    intro hn
    have : v ∈ eff.writes.filterMap (RegWrite.prdHit p l) := List.mem_filterMap.2 ⟨w, hw, hx⟩
    rw [hn] at this
    cases this

/-- A predicate lane that an effect does not write keeps its value. -/
theorem pred_apply_miss (u : RodUnit) (eff : Effect) (p l : Nat) (hok : ∀ w ∈ eff.writes, w.laneOk = true)
    (hall : ∀ w ∈ eff.writes, w.prdHit p l = none) : ((u.apply eff).pred p).getLsbD l = (u.pred p).getLsbD l := by
  rw [pred_apply, pred_foldl p l _ _ hok]
  have : eff.writes.filterMap (RegWrite.prdHit p l) = [] := List.filterMap_eq_nil_iff.2 hall
  rw [this]; rfl

/-! ## The three forms of a result -/

theorem key_eq {r l reg lane : Nat} (hl : l < 64) (hlane : lane < 64) :
    r * 64 + l = reg * 64 + lane ↔ r = reg ∧ l = lane := by omega

theorem vecHit_vecWrites {wide : Bool} {r l reg lane : Nat} {q : LaneRes} (hl : l < 64) (hlane : lane < 64) (w : RegWrite)
    (hw : w ∈ vecWrites wide reg lane q) :
    w.vecHit r l = if l = lane ∧ r = reg ∧ w = .vec reg lane (BitVec.ofNat 32 q.val) q.poison then some (BitVec.ofNat 32 q.val)
      else if l = lane ∧ r = reg + 1 ∧ w = .vec (reg + 1) lane (BitVec.ofNat 32 (q.val / 2 ^ 32)) q.poison then
        some (BitVec.ofNat 32 (q.val / 2 ^ 32)) else none := by
  unfold vecWrites at hw
  cases wide
  · simp only [Bool.false_eq_true, if_false, List.mem_singleton] at hw
    subst hw
    simp only [RegWrite.vecHit, key_eq hl hlane]
    by_cases h1 : r = reg <;> by_cases h2 : l = lane <;> simp [h1, h2]
  · simp only [if_true, List.mem_cons, List.not_mem_nil, or_false] at hw
    rcases hw with hw | hw <;> subst hw
    · simp only [RegWrite.vecHit, key_eq hl hlane]
      by_cases h1 : r = reg <;> by_cases h2 : l = lane <;> simp [h1, h2]
    · simp only [RegWrite.vecHit, key_eq hl hlane]
      by_cases h1 : r = reg + 1 <;> by_cases h2 : l = lane <;> simp [h1, h2]

/-- After a vector form, each active lane of the destination holds its result. -/
theorem laneVal_vecForm (u : RodUnit) (x : Issue) (wide : Bool) (g : Nat → LaneRes) (l : Nat) (hl : l ∈ x.lanes) :
    (u.apply (x.vecForm wide g)).laneVal wide x.f.dst.toNat l = (g l).val % 2 ^ (if wide then 64 else 32) := by
  have h64 : ∀ k ∈ x.lanes, k < 64 := fun k hk => ((mem_lanesOf _ _).1 hk).1
  have mem : ∀ w ∈ (x.vecForm wide g).writes, ∃ k ∈ x.lanes, w ∈ vecWrites wide x.f.dst.toNat k (g k) := by
    intro w hw
    simp only [Issue.vecForm, List.mem_flatMap, List.mem_map] at hw
    obtain ⟨p, ⟨k, hk, rfl⟩, hw⟩ := hw
    exact ⟨k, hk, hw⟩
  have low : (u.apply (x.vecForm wide g)).vec x.f.dst.toNat l = BitVec.ofNat 32 (g l).val := by
    apply vec_apply_hit
    · intro w hw
      obtain ⟨k, hk, hw⟩ := mem w hw
      rw [vecHit_vecWrites (h64 l hl) (h64 k hk) w hw]
      by_cases e : l = k
      · subst e
        split
        · exact .inr rfl
        · rw [if_neg (by omega)]; exact .inl rfl
      · simp [e]
    · refine ⟨.vec x.f.dst.toNat l (BitVec.ofNat 32 (g l).val) (g l).poison, ?_, by simp [RegWrite.vecHit]⟩
      simp only [Issue.vecForm, List.mem_flatMap, List.mem_map]
      exact ⟨_, ⟨l, hl, rfl⟩, by unfold vecWrites; split <;> simp⟩
  cases wide
  · simp only [RodUnit.laneVal, Bool.false_eq_true, if_false, low, BitVec.toNat_ofNat]
  · have high : (u.apply (x.vecForm true g)).vec (x.f.dst.toNat + 1) l = BitVec.ofNat 32 ((g l).val / 2 ^ 32) := by
      apply vec_apply_hit
      · intro w hw
        obtain ⟨k, hk, hw⟩ := mem w hw
        rw [vecHit_vecWrites (h64 l hl) (h64 k hk) w hw]
        by_cases e : l = k
        · subst e
          rw [if_neg (by omega)]
          split
          · exact .inr rfl
          · exact .inl rfl
        · simp [e]
      · refine ⟨.vec (x.f.dst.toNat + 1) l (BitVec.ofNat 32 ((g l).val / 2 ^ 32)) (g l).poison, ?_, by simp [RegWrite.vecHit]⟩
        simp only [Issue.vecForm, List.mem_flatMap, List.mem_map]
        exact ⟨_, ⟨l, hl, rfl⟩, by simp [vecWrites]⟩
    simp only [RodUnit.laneVal, if_true, RodUnit.vecPair, low, high, BitVec.toNat_append, BitVec.toNat_ofNat]
    rw [← Nat.shiftLeft_add_eq_or_of_lt (Nat.mod_lt _ (by decide)), Nat.shiftLeft_eq]
    omega

/-- A vector lane that a vector form does not name keeps its value. -/
theorem vec_vecForm_other (u : RodUnit) (x : Issue) (wide : Bool) (g : Nat → LaneRes) (r l : Nat) (hl : l < 64)
    (h : l ∉ x.lanes ∨ (r ≠ x.f.dst.toNat ∧ (wide = true → r ≠ x.f.dst.toNat + 1))) :
    (u.apply (x.vecForm wide g)).vec r l = u.vec r l := by
  apply vec_apply_miss
  intro w hw
  simp only [Issue.vecForm, List.mem_flatMap, List.mem_map] at hw
  obtain ⟨p, ⟨k, hk, rfl⟩, hw⟩ := hw
  rw [vecHit_vecWrites hl ((mem_lanesOf _ _).1 hk).1 w hw]
  have h1 : ¬ (l = k ∧ r = x.f.dst.toNat ∧ w = .vec x.f.dst.toNat k (BitVec.ofNat 32 (g k).val) (g k).poison) := by
    rintro ⟨rfl, h2, _⟩
    rcases h with h | h
    · exact h hk
    · exact h.1 h2
  have h2 : ¬ (l = k ∧ r = x.f.dst.toNat + 1 ∧
      w = .vec (x.f.dst.toNat + 1) k (BitVec.ofNat 32 ((g k).val / 2 ^ 32)) (g k).poison) := by
    rintro ⟨rfl, h2, h3⟩
    rcases h with h | h
    · exact h hk
    · cases wide
      · simp [vecWrites] at hw; rw [hw] at h3; injection h3; omega
      · exact h.2 rfl h2
  rw [if_neg h1, if_neg h2]

/-- After a scalar form, the destination of each logical rod that takes the effect holds its result. -/
theorem scl_sclForm (u : RodUnit) (x : Issue) (g : Nat → LaneRes) (i : Nat) (hi : i ∈ x.rods) (hlen : i < u.rods.length)
    (hd : x.f.dst ≠ 0) :
    ((u.apply (x.sclForm g)).rod i).scl x.f.dst.toNat = BitVec.ofNat 64 (g (x.laneOfRod i)).val := by
  have hn : x.f.dst.toNat ≠ 0 := fun h => hd (BitVec.eq_of_toNat_eq (by simpa using h))
  apply scl_apply_hit _ _ _ _ hlen
  · intro w hw
    simp only [Issue.sclForm, List.mem_map] at hw
    obtain ⟨p, ⟨k, hk, rfl⟩, rfl⟩ := hw
    by_cases e : k = i
    · subst e; simp [RegWrite.sclHit, hn]
    · simp [RegWrite.sclHit, e]
  · refine ⟨.scl i x.f.dst.toNat (BitVec.ofNat 64 (g (x.laneOfRod i)).val) (g (x.laneOfRod i)).poison, ?_, ?_⟩
    · simp only [Issue.sclForm, List.mem_map]
      exact ⟨_, ⟨i, hi, rfl⟩, rfl⟩
    · simp [RegWrite.sclHit, hn]

/-- After a predicate form, each active lane of the destination holds its bit. -/
theorem pred_prdForm (u : RodUnit) (x : Issue) (g : Nat → Bool × Bool) (l : Nat) (hl : l ∈ x.lanes) (hd : x.f.dst ≠ 0) :
    ((u.apply (x.prdForm g)).pred x.f.dst.toNat).getLsbD l = (g l).1 := by
  have hn : x.f.dst.toNat ≠ 0 := fun h => hd (BitVec.eq_of_toNat_eq (by simpa using h))
  have h64 : ∀ k ∈ x.lanes, k < 64 := fun k hk => ((mem_lanesOf _ _).1 hk).1
  apply pred_apply_hit
  · intro w hw
    simp only [Issue.prdForm, List.mem_map] at hw
    obtain ⟨k, hk, rfl⟩ := hw
    simpa [RegWrite.laneOk] using h64 k hk
  · intro w hw
    simp only [Issue.prdForm, List.mem_map] at hw
    obtain ⟨k, hk, rfl⟩ := hw
    by_cases e : l = k
    · subst e; simp [RegWrite.prdHit, hn, h64 l hl]
    · simp [RegWrite.prdHit, e]
  · refine ⟨.prd x.f.dst.toNat l (g l).1 (g l).2, ?_, ?_⟩
    · simp only [Issue.prdForm, List.mem_map]
      exact ⟨l, hl, rfl⟩
    · simp [RegWrite.prdHit, hn, h64 l hl]

/-- The logical rods that take a scalar effect are rods of the unit. -/
theorem rods_lt (c : IssueCtx) (fm : Form) (f : SFields) (i : Nat) (h : i ∈ (c.issue fm f).rods) : i < c.u.rods.length := by
  unfold IssueCtx.issue at h
  simp only at h
  split at h
  · simp only [uniformRods, rodsInEntry, List.mem_filter, List.mem_range] at h; exact h.1.1
  · simp only [rodsActive, List.mem_filter, List.mem_range] at h; exact h.1

end Sys2Proof.Machine
end

