-- ==== Sys2Proof/Laws/Frontier.lean ====
section
/-! SUPPORT. Where lanes stand after a word has moved them (R140 to R142, R150 to R153). -/

namespace Sys2Proof.Machine

theorem mem_insertEntry (e x : Entry) (fr : List Entry) : x ∈ insertEntry e fr ↔ x = e ∨ x ∈ fr := by
  induction fr with
  | nil => simp [insertEntry]
  | cons y ys ih =>
    simp only [insertEntry]
    split
    · simp
    · simp only [List.mem_cons, ih]
      constructor
      · rintro (h | h | h)
        · exact .inr (.inl h)
        · exact .inl h
        · exact .inr (.inr h)
      · rintro (h | h | h)
        · exact .inr (.inl h)
        · exact .inl h
        · exact .inr (.inr h)

theorem insertEntry_pcs (e : Entry) (fr : List Entry) (h : oneEntryPerWord fr) (hn : ∀ x ∈ fr, x.pc ≠ e.pc) :
    oneEntryPerWord (insertEntry e fr) := by
  induction fr with
  | nil => simp [insertEntry, oneEntryPerWord]
  | cons y ys ih =>
    simp only [insertEntry]
    have h' := List.nodup_cons.1 (h : (y.pc :: ys.map (·.pc)).Nodup)
    split
    · exact List.nodup_cons.2 ⟨fun hm => by
        rcases List.mem_cons.1 hm with hm | hm
        · exact hn y (by simp) hm.symm
        · obtain ⟨x, hx, hm⟩ := List.mem_map.1 hm
          exact hn x (by simp [hx]) hm, h⟩
    · refine List.nodup_cons.2 ⟨fun hm => ?_, ih h'.2 (fun x hx => hn x (by simp [hx]))⟩
      obtain ⟨x, hx, he⟩ := List.mem_map.1 hm
      rcases (mem_insertEntry _ _ _).1 hx with rfl | hx
      · exact hn y (by simp) he.symm
      · exact h'.1 (List.mem_map.2 ⟨x, hx, he⟩)

theorem standsAt_leave (fr : List Entry) (pc l p : Nat) : standsAt (leave fr pc) l p ↔ p ≠ pc ∧ standsAt fr l p := by
  simp only [standsAt, leave, List.mem_filter, bne_iff_ne]
  constructor
  · rintro ⟨e, ⟨h1, h2⟩, rfl, h3⟩
    exact ⟨h2, e, h1, rfl, h3⟩
  · rintro ⟨h1, e, h2, rfl, h3⟩
    exact ⟨e, ⟨h2, h1⟩, rfl, h3⟩

theorem oneEntry_filter (q : Entry → Bool) (fr : List Entry) (h : oneEntryPerWord fr) : oneEntryPerWord (fr.filter q) := by
  unfold oneEntryPerWord at *
  exact (List.filter_sublist.map _).nodup h

theorem leave_pcs (fr : List Entry) (pc : Nat) (h : oneEntryPerWord fr) : oneEntryPerWord (leave fr pc) := oneEntry_filter _ _ h

/-- With one entry at each word, the entry at a word is the only one there. -/
theorem only_entry {fr : List Entry} (h : oneEntryPerWord fr) {x y : Entry} (hx : x ∈ fr) (hy : y ∈ fr) (e : x.pc = y.pc) : x = y := by
  induction fr with
  | nil => cases hx
  | cons z zs ih =>
    have h' := List.nodup_cons.1 (by simpa [oneEntryPerWord] using h : (z.pc :: zs.map (·.pc)).Nodup)
    rcases List.mem_cons.1 hx with rfl | hx' <;> rcases List.mem_cons.1 hy with rfl | hy'
    · rfl
    · exact absurd (List.mem_map.2 ⟨y, hy', e.symm⟩) h'.1
    · exact absurd (List.mem_map.2 ⟨x, hx', e⟩) h'.1
    · exact ih h'.2 hx' hy'

theorem arrive_pcs (fr : List Entry) (pc : Nat) (pri : BitVec 8) (m : BitVec 64) (h : oneEntryPerWord fr) :
    oneEntryPerWord (arrive fr pc pri m) := by
  unfold arrive
  split
  · exact h
  · split
    · apply insertEntry_pcs _ _ (oneEntry_filter _ _ h)
      intro x hx
      simpa using (List.mem_filter.1 hx).2
    · rename_i hf
      apply insertEntry_pcs _ _ h
      intro x hx
      have := List.find?_eq_none.1 hf x hx
      simpa using this

theorem standsAt_arrive (fr : List Entry) (pc : Nat) (pri : BitVec 8) (m : BitVec 64) (h : oneEntryPerWord fr) (l p : Nat) :
    standsAt (arrive fr pc pri m) l p ↔ (p = pc ∧ m.getLsbD l = true) ∨ standsAt fr l p := by
  unfold arrive
  split
  · rename_i hm
    subst hm
    simp
  · split
    · rename_i x hf
      have hx := List.mem_of_find?_eq_some hf
      have hp : x.pc = pc := by simpa using List.find?_some hf
      constructor
      · rintro ⟨e, he, rfl, hb⟩
        rcases (mem_insertEntry _ _ _).1 he with rfl | he
        · simp only [BitVec.getLsbD_or, Bool.or_eq_true] at hb
          rcases hb with hb | hb
          · exact .inr ⟨x, hx, hp, hb⟩
          · exact .inl ⟨rfl, hb⟩
        · exact .inr ⟨e, (List.mem_filter.1 he).1, rfl, hb⟩
      · rintro (⟨rfl, hb⟩ | ⟨e, he, rfl, hb⟩)
        · exact ⟨_, (mem_insertEntry _ _ _).2 (.inl rfl), rfl, by simp [hb]⟩
        · by_cases hq : e.pc = pc
          · have := only_entry h he hx (hq.trans hp.symm)
            subst this
            exact ⟨_, (mem_insertEntry _ _ _).2 (.inl rfl), hp.symm, by simp [hb]⟩
          · exact ⟨e, (mem_insertEntry _ _ _).2 (.inr (List.mem_filter.2 ⟨he, by simpa using hq⟩)), rfl, hb⟩
    · constructor
      · rintro ⟨e, he, rfl, hb⟩
        rcases (mem_insertEntry _ _ _).1 he with rfl | he
        · exact .inl ⟨rfl, hb⟩
        · exact .inr ⟨e, he, rfl, hb⟩
      · rintro (⟨rfl, hb⟩ | ⟨e, he, rfl, hb⟩)
        · exact ⟨_, (mem_insertEntry _ _ _).2 (.inl rfl), rfl, hb⟩
        · exact ⟨e, (mem_insertEntry _ _ _).2 (.inr he), rfl, hb⟩

theorem getLsbD_onelane (l j : Nat) : (BitVec.ofNat 64 (2 ^ l)).getLsbD j = (decide (j < 64) && decide (j = l)) := by
  rw [BitVec.getLsbD_ofNat, Nat.testBit_two_pow]
  by_cases h : j = l
  · subst h; simp
  · simp [h, Ne.symm h]

theorem standsAt_moves (ms : List (Nat × Nat × BitVec 8)) (fr : List Entry) (h : oneEntryPerWord fr) (l p : Nat) :
    oneEntryPerWord (ms.foldl (fun fr m => arrive fr m.2.1 m.2.2 (BitVec.ofNat 64 (2 ^ m.1))) fr) ∧
    (standsAt (ms.foldl (fun fr m => arrive fr m.2.1 m.2.2 (BitVec.ofNat 64 (2 ^ m.1))) fr) l p ↔
      (∃ m ∈ ms, m.1 = l ∧ l < 64 ∧ m.2.1 = p) ∨ standsAt fr l p) := by
  induction ms generalizing fr with
  | nil => simp [h]
  | cons m ms ih =>
    obtain ⟨h1, h2⟩ := ih (arrive fr m.2.1 m.2.2 (BitVec.ofNat 64 (2 ^ m.1))) (arrive_pcs _ _ _ _ h)
    refine ⟨h1, ?_⟩
    simp only [List.foldl_cons]
    rw [h2, standsAt_arrive _ _ _ _ h, getLsbD_onelane]
    simp only [List.mem_cons, Bool.and_eq_true, decide_eq_true_eq]
    constructor
    · rintro (⟨m', hm, h⟩ | ⟨rfl, h, rfl⟩ | h)
      · exact .inl ⟨m', .inr hm, h⟩
      · exact .inl ⟨m, .inl rfl, rfl, h, rfl⟩
      · exact .inr h
    · rintro (⟨m', rfl | hm, h, h', h''⟩ | h)
      · exact .inr (.inl ⟨h''.symm, h', h.symm⟩)
      · exact .inl ⟨m', hm, h, h', h''⟩
      · exact .inr (.inr h)

/-- Where every lane stands after the active ones have moved: to their targets, the rest of the entry to the next word, all others
where they were. -/
theorem standsAt_moveTo (u : RodUnit) (e : Entry) (taken : BitVec 64) (ms : List (Nat × Nat × BitVec 8))
    (h : oneEntryPerWord u.frontier) (l p : Nat) :
    standsAt (u.moveTo e taken ms).frontier l p ↔
      (∃ m ∈ ms, m.1 = l ∧ l < 64 ∧ m.2.1 = p) ∨
      (e.lanes.getLsbD l = true ∧ taken.getLsbD l = false ∧ p = e.pc + 1) ∨ (p ≠ e.pc ∧ standsAt u.frontier l p) := by
  unfold RodUnit.moveTo
  rw [(standsAt_moves ms _ (arrive_pcs _ _ _ _ (leave_pcs _ _ h)) l p).2, standsAt_arrive _ _ _ _ (leave_pcs _ _ h), standsAt_leave]
  apply or_congr Iff.rfl
  apply or_congr ?_ Iff.rfl
  rw [BitVec.getLsbD_and, BitVec.getLsbD_not]
  constructor
  · rintro ⟨h1, h2⟩
    simp only [Bool.and_eq_true, Bool.not_eq_true', decide_eq_true_eq] at h2
    exact ⟨h2.1, h2.2.2, h1⟩
  · rintro ⟨h1, h2, h3⟩
    have : l < 64 := by
      have := BitVec.lt_of_getLsbD h1
      omega
    subst h3
    simp only [true_and]
    rw [h1, h2]
    simp [this]

/-- Where every lane stands after the whole entry has moved to the next word. -/
theorem standsAt_advance (u : RodUnit) (e : Entry) (h : oneEntryPerWord u.frontier) (l p : Nat) :
    standsAt (u.advance e).frontier l p ↔
      (e.lanes.getLsbD l = true ∧ p = e.pc + 1) ∨ (p ≠ e.pc ∧ standsAt u.frontier l p) := by
  unfold RodUnit.advance
  rw [standsAt_arrive _ _ _ _ (leave_pcs _ _ h), standsAt_leave]
  exact or_congr (and_comm) Iff.rfl

end Sys2Proof.Machine
end

