-- ==== Sys2Proof/Laws/Integer.lean ====
section
/-! SUPPORT. Integer words element by element: what element `i` of a result is, in the vector and in the scalar form. -/

namespace Sys2Proof.Machine

theorem field_eq (x lo w : Nat) : field x lo w = x / 2 ^ lo % 2 ^ w := by rw [field, Nat.shiftRight_eq_div_pow]

theorem elemAt_eq (e i v : Nat) : elemAt e i v = BitVec.ofNat e (field v (e * i) e) := by
  unfold elemAt field
  apply BitVec.eq_of_toNat_eq
  simp

theorem toNat_elemAt (e i v : Nat) : (elemAt e i v).toNat = field v (e * i) e := by
  unfold elemAt field
  simp

theorem field_lt (x lo w : Nat) : field x lo w < 2 ^ w := Nat.mod_lt _ (Nat.two_pow_pos w)

theorem elementwise_succ (op : ElemOp) (e n a b d : Nat) :
    (elementwise op e (n + 1) a b d).1 = (elementwise op e n a b d).1 +
      (op e (field a (e * n) e) (field b (e * n) e) (field d (e * n) e)).1 % 2 ^ e * 2 ^ (e * n) := by
  simp [elementwise, List.range_succ]

theorem elementwise_lt (op : ElemOp) (e a b d : Nat) : ∀ n, (elementwise op e n a b d).1 < 2 ^ (e * n)
  | 0 => by simp [elementwise]
  | n + 1 => by
    rw [elementwise_succ]
    have h1 := elementwise_lt op e a b d n
    have h2 : (op e (field a (e * n) e) (field b (e * n) e) (field d (e * n) e)).1 % 2 ^ e + 1 ≤ 2 ^ e :=
      Nat.mod_lt _ (Nat.two_pow_pos e)
    have h3 : 2 ^ (e * (n + 1)) = 2 ^ e * 2 ^ (e * n) := by rw [Nat.mul_succ, Nat.pow_add, Nat.mul_comm]
    have h4 := Nat.mul_le_mul_right (2 ^ (e * n)) h2
    rw [Nat.add_mul, Nat.one_mul] at h4
    omega

/-- Element `i` of a result is the operation on the elements `i` (R171, R194). -/
theorem elemAt_elementwise (op : ElemOp) (e a b d : Nat) : ∀ (n i : Nat), i < n →
    elemAt e i (elementwise op e n a b d).1 =
      BitVec.ofNat e (op e (field a (e * i) e) (field b (e * i) e) (field d (e * i) e)).1
  | 0, i, h => by omega
  | n + 1, i, h => by
    have hlt := elementwise_lt op e a b d n
    apply BitVec.eq_of_toNat_eq
    rw [toNat_elemAt, elementwise_succ, BitVec.toNat_ofNat, field_eq]
    generalize hr : (op e (field a (e * n) e) (field b (e * n) e) (field d (e * n) e)).1 = r
    by_cases hi : i = n
    · subst hi
      rw [hr, Nat.add_mul_div_right _ _ (Nat.two_pow_pos _), Nat.div_eq_of_lt hlt, Nat.zero_add, Nat.mod_mod]
    · have hin : i < n := by omega
      have ih := congrArg BitVec.toNat (elemAt_elementwise op e a b d n i hin)
      rw [toNat_elemAt, BitVec.toNat_ofNat, field_eq] at ih
      rw [← ih]
      have e1 : 2 ^ (e * n) = 2 ^ (e * i) * (2 ^ e * 2 ^ (e * (n - i - 1))) := by
        rw [← Nat.pow_add, ← Nat.pow_add]
        congr 1
        have : n = i + 1 + (n - i - 1) := by omega
        generalize n - i - 1 = k at this
        subst this
        simp [Nat.mul_add, Nat.add_assoc]
      have e2 : r % 2 ^ e * 2 ^ (e * n) = 2 ^ (e * i) * (2 ^ e * (r % 2 ^ e * 2 ^ (e * (n - i - 1)))) := by
        rw [e1]
        simp only [Nat.mul_left_comm]
      rw [e2, Nat.add_mul_div_left _ _ (Nat.two_pow_pos _), Nat.add_mul_mod_self_left]

/-- The shapes of R192. -/
theorem ewShape_cases (ew : Nat) : ewShape ew = (8, 4) ∨ ewShape ew = (16, 2) ∨ ewShape ew = (64, 1) ∨ ewShape ew = (32, 1) := by
  unfold ewShape; split <;> simp

theorem ewShape_wide (f : SFields) : (ewShape f.ew).1 * (ewShape f.ew).2 = if f.isD then 64 else 32 := by
  unfold SFields.isD
  have h : f.ew < 4 := by unfold SFields.ew SFields.m field; omega
  rcases (by omega : f.ew = 0 ∨ f.ew = 1 ∨ f.ew = 2 ∨ f.ew = 3) with h | h | h | h <;> rw [h] <;> rfl

theorem elemAt_mod (e i k v : Nat) (h : e * (i + 1) ≤ k) : elemAt e i (v % 2 ^ k) = elemAt e i v := by
  apply BitVec.eq_of_getLsbD_eq
  intro j hj
  have : e * i + j < k := by
    rw [Nat.mul_succ] at h; omega
  simp [elemAt, BitVec.getLsbD_ofNat, Nat.testBit_shiftRight, Nat.testBit_mod_two_pow, this]

/-- An integer word does what its relation says, when the relation holds of its operation on elements. -/
theorem IntRow.does_of_op (row : IntRow) (op : ElemOp) (useA useB useD : Bool)
    (hex : ∀ f s, exec (row.word f) s = execNow row.form (intWord op useA useB useD) f s)
    (hov : ∀ (s : State) (c : IssueCtx) (f : SFields), s.wordIssues c row.form f → (c.issue row.form f).f = f)
    (h : ∀ e ∈ [8, 16, 32, 64], ∀ a < 2 ^ e, ∀ b < 2 ^ e, ∀ d < 2 ^ e,
      row.rel e (BitVec.ofNat e a) (BitVec.ofNat e b) (BitVec.ofNat e d)
        (BitVec.ofNat e (op e (if useA then a else 0) (if useB then b else 0) (if useD then d else 0)).1)) :
    row.does := by
  intro s c f hw x e n w
  have hx : x.f = f := hov s c f hw
  refine ⟨_, _, by rw [hex, execNow_issues hw], unit?_finish hw.1 _, finish_sameBut _, ?_, ?_⟩
  · intro hdc l hl i hi
    have hd : (f.dc == OpClass.scl) = false := by cases hq : f.dc <;> simp_all
    have hsh : SFields.shape f = ewShape f.ew := by simp [SFields.shape, hd]
    have hwd : w = if f.isD then 64 else 32 := by
      have := ewShape_wide f; rw [← hsh] at this; exact this
    have hmem : e ∈ [8, 16, 32, 64] := by
      show (SFields.shape f).1 ∈ _
      rw [hsh]; rcases ewShape_cases f.ew with h | h | h | h <;> rw [h] <;> simp
    have hform : intWord op useA useB useD x = x.vecForm f.isD (fun l =>
        let r := elementwise op e n (if useA then x.srcA w l else (0, false)).1
          (if useB then x.srcB w (immLane e n f) l else (0, false)).1 (if useD then x.srcD w l else (0, false)).1
        { val := r.1, poison := (if useA then x.srcA w l else (0, false)).2 ||
            (if useB then x.srcB w (immLane e n f) l else (0, false)).2 || (if useD then x.srcD w l else (0, false)).2,
          flags := r.2 }) := by
      simp only [intWord, hx, hd, Bool.false_eq_true, if_false]
      rw [← hsh]
    have key : ∀ v : Nat, elemAt e i (v % 2 ^ (if f.isD then 64 else 32)) = elemAt e i v := by
      intro v
      apply elemAt_mod
      rw [← hwd]
      exact Nat.mul_le_mul_left e hi
    have hlv := laneVal_vecForm c.u x f.isD (fun l =>
        let r := elementwise op e n (if useA then x.srcA w l else (0, false)).1
          (if useB then x.srcB w (immLane e n f) l else (0, false)).1 (if useD then x.srcD w l else (0, false)).1
        { val := r.1, poison := (if useA then x.srcA w l else (0, false)).2 ||
            (if useB then x.srcB w (immLane e n f) l else (0, false)).2 || (if useD then x.srcD w l else (0, false)).2,
          flags := r.2 }) l hl
    have hbump : ∀ (v : RodUnit) (is : List Nat) wd rg, (v.bumpSeeds is).laneVal wd rg l = v.laneVal wd rg l := by
      intro v is wd rg
      simp only [RodUnit.laneVal, RodUnit.vecPair, vec_bumpSeeds]
    rw [hbump, show c.issue row.form f = x from rfl, hform]
    rw [hx] at hlv
    rw [hlv, key]
    simp only
    rw [elemAt_elementwise _ _ _ _ _ _ _ hi]
    have := h e hmem (field (x.srcA w l).1 (e * i) e) (field_lt _ _ _) (field (x.srcB w (immLane e n f) l).1 (e * i) e)
      (field_lt _ _ _) (field (x.srcD w l).1 (e * i) e) (field_lt _ _ _)
    rw [elemAt_eq, elemAt_eq, elemAt_eq]
    have z : field 0 (e * i) e = 0 := by simp [field]
    have z0 : field 0 0 64 = 0 := by simp [field]
    cases useA <;> cases useB <;> cases useD <;> simpa [z, z0] using this
  · intro hdc hd0 r hr
    have hd : (f.dc == OpClass.scl) = true := by simp [hdc]
    have hsh : SFields.shape f = (64, 1) := by simp [SFields.shape, hd]
    have he : e = 64 := by show (SFields.shape f).1 = 64; rw [hsh]
    have hn : n = 1 := by show (SFields.shape f).2 = 1; rw [hsh]
    have hw64 : w = 64 := by show e * n = 64; rw [he, hn]
    have hform : intWord op useA useB useD x = x.sclForm (fun l =>
        let q := elementwise op 64 1 (if useA then x.srcA 64 l else (0, false)).1
          (if useB then x.srcB 64 (immLane 64 1 f) l else (0, false)).1 (if useD then x.srcD 64 l else (0, false)).1
        { val := q.1, poison := (if useA then x.srcA 64 l else (0, false)).2 ||
            (if useB then x.srcB 64 (immLane 64 1 f) l else (0, false)).2 || (if useD then x.srcD 64 l else (0, false)).2,
          flags := q.2 }) := by
      simp only [intWord, hx, hd, if_true]
    have hlt : r < c.u.rods.length := rods_lt c row.form f r hr
    have hv := scl_sclForm c.u x (fun l =>
        let q := elementwise op 64 1 (if useA then x.srcA 64 l else (0, false)).1
          (if useB then x.srcB 64 (immLane 64 1 f) l else (0, false)).1 (if useD then x.srcD 64 l else (0, false)).1
        { val := q.1, poison := (if useA then x.srcA 64 l else (0, false)).2 ||
            (if useB then x.srcB 64 (immLane 64 1 f) l else (0, false)).2 || (if useD then x.srcD 64 l else (0, false)).2,
          flags := q.2 }) r hr hlt (by rw [hx]; exact hd0)
    rw [hx] at hv
    rw [scl_bumpSeeds, show c.issue row.form f = x from rfl, hform, hv]
    have e1 : ∀ v : Nat, BitVec.ofNat 64 v = elemAt 64 0 v := by intro v; simp [elemAt]
    simp only
    rw [e1, elemAt_elementwise _ _ _ _ _ _ _ (by omega : 0 < 1)]
    have := h 64 (by simp) (field (x.srcA 64 (x.laneOfRod r)).1 (64 * 0) 64) (field_lt _ _ _)
      (field (x.srcB 64 (immLane 64 1 f) (x.laneOfRod r)).1 (64 * 0) 64)
      (field_lt _ _ _) (field (x.srcD 64 (x.laneOfRod r)).1 (64 * 0) 64) (field_lt _ _ _)
    rw [elemAt_eq, elemAt_eq, elemAt_eq]
    have z : field 0 (64 * 0) 64 = 0 := by simp [field]
    have z0 : field 0 0 64 = 0 := by simp [field]
    cases useA <;> cases useB <;> cases useD <;> simpa [z, z0] using this

end Sys2Proof.Machine
end

