-- ==== Sys2Proof/Laws/Scrub.lean ====
section
/-! SUPPORT. The scrub of HBM and the marks of stored sills keep the canonical form of memory. -/

namespace Sys2Proof.Machine

/-- The mark of a line's stored sill keeps the form. -/
theorem State.markPois_wf {s : State} (h : Memory.wf s.mem = true) (line : Nat) (p : Bool) : Memory.wf (s.markPois line p).mem = true := by
  unfold State.markPois
  dsimp only
  split
  · exact h
  · exact State.setSill_wf h _ _

/-- The scrub keeps the form: what it leaves listed of HBM is nothing, and the tier's lines stay as they were. -/
theorem State.scrubHbm_wf {s : State} (h : Memory.wf s.mem = true) : Memory.wf s.scrubHbm.mem = true := by
  rw [wf_parts] at h ⊢
  refine ⟨wf_filter _ h.1, wf_filter _ h.2.1, rfl, risingNums_filter _ h.2.2.2.1, ?_⟩
  have ht := h.2.2.2.2
  unfold Mem.tagsBare at ht ⊢
  rw [List.all_eq_true] at ht ⊢
  intro p hp
  obtain ⟨hm, hl⟩ := List.mem_filter.1 hp
  have hl : ¬ p.1 < hbmBytes / 128 := Nat.not_lt.2 (of_decide_eq_true hl)
  have := ht p hm
  unfold Mem.bareTag at this ⊢
  rw [if_neg hl] at this ⊢
  exact this

/-- After the scrub every byte of HBM reads zero, and every byte of the tier as before (R28, R358). -/
theorem State.scrubHbm_byte (s : State) (a : Nat) :
    s.scrubHbm.mem.byte a = if a < hbmBytes then 0 else s.mem.byte a := by
  have key : ∀ m : SMap (BitVec 8), SMap.get 0 (m.filter fun p => decide (hbmBytes ≤ p.1)) a = if a < hbmBytes then 0 else SMap.get 0 m a := by
    intro m
    induction m with
    | nil => simp [SMap.get]
    | cons p m ih =>
      obtain ⟨k, v⟩ := p
      simp only [List.filter]
      by_cases hk : hbmBytes ≤ k
      · simp only [decide_eq_true hk, SMap.get]
        by_cases ha : a = k
        · have : ¬ a < hbmBytes := by omega
          simp [ha, Nat.not_lt.2 hk]
        · simp only [if_neg ha, ih]
      · simp only [decide_eq_false hk, ih, SMap.get]
        by_cases ha : a = k
        · have : a < hbmBytes := by omega
          simp [this]
        · simp only [if_neg ha]
  exact key _

end Sys2Proof.Machine
end

