-- ==== Sys2Proof/Tests/Slice0.lean ====
section
/-! SUPPORT. Tests: words written out bit by bit from the encodings of chapter 6, ill-formed terms, single steps on small states, and for
every statement with hypotheses a state and operands that meet them. Expected values come from the rules cited. -/

namespace Sys2Proof.Tests
open Sys2Proof Sys2Proof.Machine
set_option Elab.async false

/-! ## Words written out from the spec's encodings (R119, R126, R130, R134, R135) -/

/-- All fields zero: vector operands v0. -/
def z : SFields := ⟨false, 0, .vec, 0, .vec, 0, .vec, 0, false, false, 0, 0, 0⟩

/-- A single or system word field by field, in the order of R119. -/
def word (cls : BitVec 2) (opcode : BitVec 8) (gs : BitVec 1) (guard : BitVec 4) (dc : BitVec 2) (dst : BitVec 11) (ac : BitVec 2) (a : BitVec 11)
    (bc : BitVec 2) (b : BitVec 11) (ae be : BitVec 1) (md : BitVec 12) (hints : BitVec 6) (imm : BitVec 22) : InstrWord :=
  cls ++ opcode ++ gs ++ guard ++ dc ++ dst ++ ac ++ a ++ bc ++ b ++ ae ++ be ++ md ++ hints ++ imm

/-- R119: IADD under p3 in the inverted sense, scalars, immediate −2. -/
theorem test_decode_iadd : decodeWord (word 0 0x01 1 3 1 7 1 4 3 0 0 0 0 0 0x3FFFFE) =
    .iadd { z with gs := true, guard := 3, dc := .scl, dst := 7, ac := .scl, a := 4, bc := .imm, imm := 0x3FFFFE } := by decide +kernel
/-- R166's example: FADD v10, v8.nb, v9 differs from the plain form in bit 41 alone. -/
theorem test_decode_fadd_nb : decodeWord (word 0 0x40 0 0 0 10 0 8 0 9 1 0 0 0 0) = .fadd { z with dst := 10, a := 8, b := 9, ae := true } ∧
    word 0 0x40 0 0 0 10 0 8 0 9 1 0 0 0 0 = word 0 0x40 0 0 0 10 0 8 0 9 0 0 0 0 0 ||| (1#96 <<< 41) := by decide +kernel
/-- R231. -/
theorem test_decode_shflx : decodeWord (word 0 0x63 0 0 0 5 0 6 3 0 0 0 0 0 1) = .shflx { z with dst := 5, a := 6, bc := .imm, imm := 1 } := by
  decide +kernel
/-- R274, R278. -/
theorem test_decode_st : decodeWord (word 0 0x81 0 0 0 4 1 2 3 0 0 0 0x004 0 16) =
    .st { z with dst := 4, ac := .scl, a := 2, bc := .imm, mod := 4, imm := 16 } := by decide +kernel
/-- R314. -/
theorem test_decode_mma : decodeWord (word 0 0xA0 0 0 0 0 1 2 1 3 0 0 0x230 0 5) =
    .mma { z with ac := .scl, a := 2, bc := .scl, b := 3, mod := 0x230, imm := 5 } := by decide +kernel
/-- R317, R318, R348: one opcode, two words by a modifier bit. -/
theorem test_decode_variants : decodeWord (word 0 0xA5 0 0 0 8 0 0 0 0 0 0 0x040 0 0) = .amovTob { z with dst := 8, mod := 0x40 } ∧
    decodeWord (word 0 0xB5 0 0 0 0 1 3 0 0 0 0 0x040 0 0) = .lregD { z with ac := .scl, a := 3, mod := 0x40 } := by decide +kernel
/-- R326. -/
theorem test_decode_gather : decodeWord (word 0 0xB1 0 0 0 0 1 9 0 0 0 0 0 0 0) = .gather { z with ac := .scl, a := 9 } := by decide +kernel
/-- R150. -/
theorem test_decode_bra : decodeWord (word 0 0xC0 0 1 0 0 0 0 0 0 0 0 0x0FF 0 0x3FFFF0) =
    .bra { z with guard := 1, mod := 0x0FF, imm := 0x3FFFF0 } := by decide +kernel
/-- R213. -/
theorem test_decode_capq : decodeWord (word 0 0xE0 0 0 1 5 0 0 3 0 0 0 0 0 1) = .capq { z with dc := .scl, dst := 5, bc := .imm, imm := 1 } := by
  decide +kernel
/-- R126: FMA v9, v2, v3 beside FADD v12, v4, v5 with the second source of the second half read with empty behaviour 1. -/
theorem test_decode_pair : decodeWord (1#2 ++ 0x04#5 ++ 0#4 ++ 9#11 ++ 2#11 ++ 3#11 ++ 0#5 ++ 0x01#5 ++ 2#4 ++ 12#11 ++ 4#11 ++ 5#11 ++ 0x08#5) =
    .pairWord { op := .fma, guard := 0, dst := 9, a := 2, b := 3, mod := 0 } { op := .fadd, guard := 2, dst := 12, a := 4, b := 5, mod := 8 } := by
  decide +kernel
/-- R130. -/
theorem test_decode_lbr : decodeWord (2#2 ++ 1#2 ++ 0#28 ++ 0#32 ++ 0x80#8 ++ 0x000123#24) = .lbr 0 0x80000123 := by decide +kernel
/-- R134: OWNSET s3, s4, s5, #0x3005, as the number its fields make. -/
theorem test_decode_ownset : decodeWord 0xC30080340220140000003005 =
    .ownset { z with dc := .scl, dst := 3, ac := .scl, a := 4, bc := .scl, b := 5, imm := 0x3005 } := by decide +kernel
/-- R118: opcode 0x00, and an opcode without a row. -/
theorem test_decode_undefined : decodeWord 0 = .undefinedEncoding 0 ∧
    decodeWord (word 0 0x38 0 0 0 0 0 0 0 0 0 0 0 0 0) = .undefinedEncoding (word 0 0x38 0 0 0 0 0 0 0 0 0 0 0 0 0) := by decide +kernel
/-- R6, R33: the bytes of a word stand in memory lowest first; fewer than 12 are no word. -/
theorem test_decode_bytes : (decode [0x05, 0x30, 0x00, 0x00, 0x00, 0x14, 0x20, 0x02, 0x34, 0x80, 0x00, 0xC3, 0xAA]).toOption =
      some (.ownset { z with dc := .scl, dst := 3, ac := .scl, a := 4, bc := .scl, b := 5, imm := 0x3005 }, [0xAA]) ∧
    (decode [1, 2, 3]).toOption = none := by decide +kernel
/-- The table's rows read back from their words. -/
theorem test_encode_agrees : [Instr.iadd { z with dst := 3 }, .fma { z with a := 9, mod := 4 }, .preempt { z with dc := .scl, ac := .scl }, .lit 0 7,
    .lregD { z with mod := 0x40 }].all (fun i => (encode i).map decodeWord == some i) = true := by decide +kernel

/-! ## Ill-formed terms: one for each check of R136 that needs no context -/

theorem test_wellformed : [Instr.iadd { z with dst := 3, a := 1, b := 2 }, .pairWord ⟨.iadd, 0, 1, 2, 3, 0⟩ ⟨.xor, 0, 4, 5, 6, 0⟩, .lit 0 5,
    .nop z, .undefinedEncoding 0, .coldReset].all WellFormed = true := by decide +kernel
/-- Checks 1 to 3: a word that names an instruction is no undefined encoding. -/
theorem test_illformed_undefined : WellFormed (.undefinedEncoding (word 0 0x01 0 0 0 0 0 0 0 0 0 0 0 0 0)) = false := by decide +kernel
/-- Check 3: an OVR without a valid field. -/
theorem test_illformed_ovr : WellFormed (.ovr 0 0) = false := by decide +kernel
/-- Check 4: a reserved hint bit, a reserved bit of a transom, a modifier bit that IADD does not define. -/
theorem test_illformed_reserved : WellFormed (.iadd { z with hints := 1 }) = false ∧ WellFormed (.lit 1 0) = false ∧
    WellFormed (.iadd { z with mod := 0x400 }) = false := by decide +kernel
/-- Check 5: rounding code 0b101, in a single word and in a half. -/
theorem test_illformed_rounding : WellFormed (.fadd { z with mod := 5 }) = false ∧
    WellFormed (.pairWord ⟨.fadd, 0, 1, 2, 3, 5⟩ ⟨.xor, 0, 4, 5, 6, 0⟩) = false := by decide +kernel
/-- Check 6: a destination class 0b11, a predicate source of IADD. -/
theorem test_illformed_class : WellFormed (.iadd { z with dc := .imm }) = false ∧ WellFormed (.iadd { z with ac := .prd }) = false := by
  decide +kernel
/-- Check 10: two halves that write one register, and two registers of one bank. -/
theorem test_illformed_pair : WellFormed (.pairWord ⟨.iadd, 0, 1, 2, 3, 0⟩ ⟨.xor, 0, 1, 5, 6, 0⟩) = false ∧
    WellFormed (.pairWord ⟨.fadd, 0, 1, 8, 16, 0⟩ ⟨.fmul, 0, 2, 3, 4, 0⟩) = false ∧
    WellFormed (.pairWord ⟨.fadd, 0, 1, 8, 9, 0⟩ ⟨.fmul, 0, 2, 8, 4, 0⟩) = true := by decide +kernel
/-- Check 11: scalar 256, and an odd register of a 64-bit pair. -/
theorem test_illformed_number : WellFormed (.iadd { z with dc := .scl, ac := .scl, bc := .scl, dst := 256 }) = false ∧
    WellFormed (.iadd { z with mod := 0x30, dst := 3 }) = false := by decide +kernel
/-- Check 12: a special register where only p0 to p15 stand. -/
theorem test_illformed_special : WellFormed (.plop { z with dc := .prd, ac := .prd, bc := .prd, dst := 0x10 }) = false := by decide +kernel
/-- The modifier bit that tells two words of one opcode apart. -/
theorem test_illformed_variant : WellFormed (.lregD { z with ac := .scl, a := 3 }) = false := by decide +kernel

/-! ## Small states -/

/-- A word placed at the start of a frame's code, and its turn noted: the state in which its meaning runs. -/
def here (i : Instr) : State :=
  { State.reset.withFetchWord 96 (((encode i).getD 0).toNat) with cur := some { frame := 0, unit := 0, pc := 0 } }

/-- The issuing unit of a state meets a condition. -/
def ctx (s : State) (p : IssueCtx → Bool) : Bool :=
  match s.issuing with
  | some c => p c
  | none => false

/-- The issuing unit changed. -/
def withUnit (s : State) (g : RodUnit → RodUnit) : State := s.modUnit 0 0 g

/-- The frame changed. -/
def withFrame (s : State) (g : Frame → Frame) : State := s.modFrame 0 g

/-- A single or system word issues in a state. -/
def issues (s : State) (fm : Form) (f : SFields) : Bool := ctx s (fun c => decide (s.wordIssues c fm f))

/-- The next state of an instruction. -/
def after (i : Instr) (s : State) : Option State :=
  match exec i s with
  | .next t => some t
  | _ => none

/-- The cause with which the frame of a state ended. -/
def ended (s : State) : Option Nat := (s.frame? 0).bind (·.term)

/-! ## Steps and words that do not issue -/

/-- The placed word is what the next step runs: v3 := 7 in lane 31. -/
theorem test_step_mov : (match step (State.reset.withFetchWord 96 (word 0 0x2C 0 0 0 3 0 0 3 0 0 0 0 0 7).toNat) with
    | .next t => (t.unit? 0 0).map (fun u => (u.vec 3 31, u.vec 2 31, u.frontier.map (·.pc)))
    | _ => none) = some (7, 0, [1]) := by decide +kernel
/-- O: a step runs the decoded word, by the agenda. -/
theorem witness_step_agenda :
    (let s := State.reset.withFetchWord 96 (word 0 0x2C 0 0 0 3 0 0 3 0 0 0 0 0 7).toNat
     let s1 := { s with now := s.now + 1, cur := none, agenda := [] }
     s.agenda == [.issue 0 0] && !s.chip.boot.halt && (match s1.standing 0 0 with
       | some c => mayIssue c && c.u.late.isEmpty && !c.fr.haltReq && (match s1.before c c.e.pc with | .clear => true | _ => false) &&
         (match s1.select c with | .word pc bs _ => pc == 0 && (decode bs).toOption.isSome | _ => false)
       | none => false)) = true := by decide +kernel

/-! ## Words between registers -/

/-- Fields that some word between registers accepts. -/
def shapes : List SFields := [
  { z with dst := 4, a := 2, b := 6 }, { z with dst := 4, a := 2, b := 6, mod := 0x40 }, { z with dst := 4, a := 2 }, { z with dst := 4, bc := .imm, imm := 7 },
  { z with dc := .scl, dst := 4, ac := .scl, a := 2, bc := .scl, b := 6 }, { z with dc := .scl, dst := 4, ac := .scl, a := 2 },
  { z with dc := .scl, dst := 4, bc := .imm, imm := 5 },
  { z with dc := .prd, dst := 1, a := 2, b := 6 }, { z with dc := .prd, dst := 1, ac := .prd, a := 2, bc := .prd, b := 3 },
  { z with dc := .prd, dst := 1, a := 2 }, { z with ac := .prd, dst := 4, a := 2 }, { z with dc := .prd, dst := 1, ac := .prd, a := 2 },
  { z with dc := .prd, dst := 1 }, { z with dst := 4, a := 2, imm := 0x308 }, { z with ac := .prd, dst := 4, a := 0x10 },
  { z with dc := .prd, dst := 0x1B, bc := .imm, imm := 1 }]

/-- Every word between registers issues with some fields. -/
theorem witness_short_rows : shortRows.all (fun row => shapes.any (fun f => issues (here (.nop z)) row.form f)) = true := by decide +kernel
theorem witness_long_rows : (longRows State.reset).all (fun row => shapes.any (fun f => issues (here (.nop z)) row.form f)) = true := by
  decide +kernel
theorem witness_movs_write : issues (here (.nop z)) formMovsWrite { z with dc := .prd, dst := 0x1B, bc := .imm, imm := 1 } = true := by
  decide +kernel
/-- What some of these words need beyond issuing: no poisoned predicate, bound slots, no flags awaited. -/
theorem witness_short_rows_conditions :
    (let s := here (.nop z)
     let v : SFields := { z with dst := 4, a := 2, b := 6, mod := 0x40 }
     ctx s (fun c =>
      (let x := c.issue formCarry v; decide (s.wordIssues c formCarry v) && x.lanes.all (fun l => !x.u.predPoisoned (predField x.f) l)) &&
      (let x := c.issue formSel v; decide (s.wordIssues c formSel v) && (selLanes x).all (fun l => !x.u.predPoisoned (predField x.f) l)) &&
      (let f : SFields := { z with dc := .prd, dst := 1, ac := .prd, a := 2 }
       let x := c.issue formVote f; decide (s.wordIssues c formVote f) && x.lanes.all (fun l => !x.u.predPoisoned x.f.a.toNat l)) &&
      (let f : SFields := { z with dst := 4, a := 2, mod := 0x010 }
       let x := c.issue formCvt f
       decide (s.wordIssues c formCvt f) && slotCause x.fr [cvtFa x.f, cvtFd x.f] (cvtFd x.f) (x.f.m 0 3) == none && !x.lanes.isEmpty) &&
      (let f : SFields := { z with dc := .prd, dst := 0x1B, bc := .imm, imm := 1 }
       let x := c.issue formMovsWrite f; !s.flagsInFlight c x.rods && x.rods == [0]))) = true := by decide +kernel
/-- O: an effect of R165's producers and the shapes of the flag statement: signed and unsigned, vector and scalar. -/
theorem witness_flags : issues (here (.nop z)) formInt2 { z with dst := 4, a := 2, b := 6 } = true ∧
    issues (here (.nop z)) formInt2 { z with dc := .scl, dst := 4, ac := .scl, a := 2, bc := .scl, b := 6 } = true ∧
    issues (here (.nop z)) formFp2 { z with dst := 4, a := 2, b := 6 } = true ∧
    ctx (here (.nop z)) (fun c => let f : SFields := { z with dst := 4, a := 2, b := 6 }
      decide ((here (.nop z)).wordIssues c formIdiv f) && takesEffect formIdiv f (c.issue formIdiv f)) = true := by decide +kernel
/-- A unit whose registers v2 and v6 hold the given values in every lane. -/
def vals (a b : BitVec 32) (s : State) : State :=
  withUnit s (fun u => { u with vregs := (List.range 32).map (fun l => (128 + l, a)) ++ (List.range 32).map (fun l => (384 + l, b)) })
/-- The unit after an instruction. -/
def unitAfter (i : Instr) (s : State) : Option RodUnit := (after i s).bind (·.unit? 0 0)
/-- R195, R170: 0x7FFFFFFF + 1 clamps and raises SAT, bit 5 of FPX, without counting; R195: the plain sum wraps. -/
theorem test_iadds_clamps : (unitAfter (.iadds { z with dst := 4, a := 2, b := 6 }) (vals 0x7FFFFFFF 1 (here (.nop z)))).map
    (fun u => (u.vec 4 7, (u.rod 0).fpx, (u.rod 0).satcnt)) = some (0x7FFFFFFF, 0x20, 0) := by decide +kernel
theorem test_iadd_wraps : (unitAfter (.iadd { z with dst := 4, a := 2, b := 6 }) (vals 0xFFFFFFFF 2 (here (.nop z)))).map
    (fun u => (u.vec 4 7, (u.rod 0).fpx)) = some (1, 0) := by decide +kernel
/-- R173: −7 / 2 truncates to −3, and the producer writes it when it completes. -/
theorem test_idiv : (after (.idiv { z with dst := 4, a := 2, b := 6 }) (vals 0xFFFFFFF9 2 (here (.nop z)))).map
    (fun t => (t.producers.map (fun p => ((t.unit? 0 0).map
    (fun u => (u.vec 4 3, (u.apply p.2.effect).vec 4 3))))))
    = some [some (0, 0xFFFFFFFD)] := by decide +kernel
/-- R178: 1.0 + (−1.0) is +0, and −0 under RD (mode code 2). -/
theorem test_fadd_zero : [(0, (0x00000000 : BitVec 32)), (2, 0x80000000)].all (fun p =>
    (unitAfter (.fadd { z with dst := 4, a := 2, b := 6, mod := p.1 }) (vals 0x3F800000 0xBF800000 (here (.nop z)))).map
    (fun u => u.vec 4 0) ==
      some p.2) = true := by decide +kernel
/-- R202: BFXS of a 32-bit element with pos 28 and len 8 returns a[31:28], zero-extended. -/
theorem test_bfxs : (unitAfter (.bfxs { z with dst := 4, a := 2, b := 6 }) (vals 0xF2345678 0x081C (here (.nop z)))).map
    (fun u => u.vec 4 31) = some 0xF := by decide +kernel
/-- R121: a write to s0 is discarded. -/
theorem test_s0 : (unitAfter (.mov { z with dc := .scl, dst := 0, bc := .imm, imm := 9 }) (here (.nop z))).map
    (fun u => (u.rod 0).scl 0) = some 0 := by decide +kernel
/-- R233: BALLOT of p0 sets the bits of all 32 lanes. -/
theorem test_ballot : (unitAfter (.vote { z with dc := .scl, dst := 4, ac := .prd, mod := 0xC0 }) (here (.nop z))).map
    (fun u => (u.rod 0).scl 4) = some 0xFFFFFFFF := by decide +kernel

/-! ## Witnesses of the control words' statements -/

/-- Lines of the tables, of the code and of data behind it stand in their slice. -/
def warm (s : State) : State :=
  { s with cache := { s.cache with lines := [0x200, 0x201, 0x202, 0x203, 0x2000, 0x2020, 0x2040].map (fun l => (l,
    { slice := 0, set := 0, way := l % 16, data := s.mem.line l, poison := false, dirty := false, guest := none, key := 1, bay := 0, pins := [],
      decl := false, cls := .dead, clm := 0, stamp := 0, wts := 0, rts := 0 })) } }

/-- A scalar of the logical rod takes a value. -/
def scalar (n : Nat) (v : BitVec 64) (s : State) : State :=
  withUnit s (fun u => u.setRod 0 (fun r => { r with sregs := r.sregs.put n v }))

/-- The look at the word before a target finds no transom. -/
def clear (s : State) (c : IssueCtx) (n : Nat) : Bool :=
  match s.before c n with
  | .clear => true
  | _ => false

/-- One entry stands at each word. -/
def spread (fr : List Entry) : Bool := decide ((fr.map (·.pc)).Nodup)

theorem witness_branches :
    (let f : SFields := { z with imm := 2 }
     let s := here (.bra f)
     ctx s (fun c => decide (s.wordIssues c formBra f) && spread c.u.frontier && (c.issue formBra f).act != 0 && (c.issue formBra f).lbr.isNone &&
       decide ((c.e.pc : Int) + f.imm.toInt = 2) && decide (2 < c.codeWords) && decide (s.clearBefore c 2))) = true ∧
    (let f : SFields := z
     let s := withUnit (here (.call f)) (fun u => { u with transom := some { pc := 7, kind := .lbr, payload := 0x80000003 } })
     ctx s (fun c => decide (s.wordIssues c formCall f) && (c.issue formCall f).lbr == some 0x80000003 && decide (s.clearBefore c 3))) = true := by decide +kernel

theorem witness_callt :
    (let f : SFields := { z with a := 2, bc := .imm, imm := 5 }
     let s0 := warm ((withFrame (here (.callt f)) (fun fr => { fr with ftab := 0x10080, ftlen := 4 })).pokeBytes 0x10080
       (toBytes 8 (2 ^ 63) ++ toBytes 8 (5 * 2 ^ 32 + 3 * 2 ^ 8 + 9)))
     ctx s0 (fun c =>
       let x := c.issue formCallt f
       decide (s0.wordIssues c formCallt f) && spread c.u.frontier && s0.allDone c 2 && (s0.calltTouch c x).unit? 0 0 == some c.u &&
       x.lanes.length == 32 && x.lanes.all (fun l => !(tableIndex x l).2 && c.fr.ftab != 0 && decide ((tableIndex x l).1 < c.fr.ftlen) &&
        (match s0.bulkRead (s0.unitReader c false) ((c.fr.ftab.toNat + 16 * (tableIndex x l).1) % 2 ^ 64) 16 with
         | .value bs false _ => (word64 bs 0).getLsbD 63 && (word64 bs 0).extractLsb' 32 31 == 0 &&
           ((word64 bs 1).extractLsb' 32 32).toNat == (x.srcB 32 f.zimm l).1 && ((word64 bs 1).extractLsb' 8 24).toNat == 3
         | _ => false)) && clear s0 c 3)) = true := by decide +kernel

theorem witness_ret_exit :
    (let s := here (.ret { z with a := 2 })
     ctx s (fun c => let f : SFields := { z with a := 2 }
       let x := c.issue formRet f
       decide (s.wordIssues c formRet f) && spread c.u.frontier && x.lanes.all (fun l => !(x.srcA 32 l).2 && decide ((x.srcA 32 l).1 % 2 ^ 24 < c.codeWords)
         && decide (s.clearBefore c ((x.srcA 32 l).1 % 2 ^ 24))) && !x.lanes.isEmpty)) = true ∧
    ctx (here (.exit z)) (fun c => decide ((here (.exit z)).wordIssues c formBare z) && spread c.u.frontier) = true := by decide +kernel

/-- Word 1 of the code is a transom word, as the instruction cache holds it. -/
def transomNext (s : State) : State := { s with cache := { s.cache with icache := s.cache.icache.map (fun q => (q.1, (q.2.1 ||| (1#1024 <<< 191), q.2.2))) } }
/-- Every lane of v2 holds a link. -/
def linked (v : BitVec 32) (i : Instr) : State := withUnit (here i) (fun u => { u with vregs := (List.range 32).map (fun l => (128 + l, v)) })

/-- R150, R152: targets just outside the code, and behind a transom word. -/
theorem witness_transfer_traps :
    [(0x3FFFFF, 0x081), (4096, 0x081), (2, 0x007)].all (fun (q : Nat × Nat) =>
      let f : SFields := { z with imm := BitVec.ofNat 22 q.1 }
      let s := transomNext (here (.bra f))
      issues s formBra f && (q.2 == 0x081 || ctx s (fun c => decide (s.transomBefore c 2))) && ((after (.bra f) s).bind ended == some q.2) && issues (transomNext (here (.call f))) formCall f &&
        ((after (.call f) (transomNext (here (.call f)))).bind ended == some q.2)) = true ∧
    [(4096, 0x086), (2, 0x007)].all (fun (q : Nat × Nat) =>
      let f : SFields := { z with a := 2 }
      let s := transomNext (linked (BitVec.ofNat 32 q.1) (.ret f))
      issues s formRet f && (q.2 == 0x086 || ctx s (fun c => decide (s.transomBefore c 2))) && ((after (.ret f) s).bind ended == some q.2)) = true := by decide +kernel
/-- R122, R152: RET from an empty register. -/
theorem witness_ret_empty : [true, false].all (fun nb =>
    let f : SFields := { z with a := 2, ae := nb }
    let s := withUnit (here (.ret f)) (fun u => { u with vEmpty := [2] })
    ctx s (fun c => (checkWord (s.checkCtx c) formRet c.u.transom f).isNone && c.u.isEmpty [] .vec 2) &&
      ((after (.ret f) s).bind ended == (if nb then some 0x110 else none))) = true := by decide +kernel
/-- R142: lanes that meet at a word take the larger of the two priorities. -/
theorem test_bra_priority : (unitAfter (.bra { z with guard := 1, mod := 9, imm := 1 })
    (withUnit (here (.nop z)) (fun u => { u with preds := [(1, 0xF)] }))).map (fun u => u.frontier.map (fun e => (e.pc, e.pri, e.lanes))) =
    some [(1, 9, 0xFFFFFFFF)] := by decide +kernel

theorem witness_pause_nop : issues (here (.nop z)) formBare z = true ∧
    (let f : SFields := { z with bc := .imm, imm := 3 }
     ctx (here (.pause f)) (fun c => decide ((here (.pause f)).wordIssues c formPause f) &&
       (c.issue formPause f).rods.all (fun i => !((c.issue formPause f).srcB 64 f.zimm ((c.issue formPause f).laneOfRod i)).2))) = true := by decide +kernel

theorem witness_trap : ctx (here (.trap { z with imm := 5 })) (fun c => let f : SFields := { z with imm := 5 }
      decide ((here (.trap f)).wordIssues c formTrap f) && (c.issue formTrap f).act != 0) = true ∧
    ctx (here (.trap { z with gs := true, imm := 5 })) (fun c => let f : SFields := { z with gs := true, imm := 5 }
      decide ((here (.trap f)).wordIssues c formTrap f) && (c.issue formTrap f).act == 0) = true := by decide +kernel

theorem witness_launch :
    (let f : SFields := { z with dc := .prd, dst := 1, ac := .scl, a := 2 }
     let s := scalar 2 0x10100 (warm (here (.launch f)))
     ctx s (fun c => let x := c.issue formLaunch f
       decide (s.wordIssues c formLaunch f) && x.act != 0 && s.allDone c 2 && decide (c.fr.bay < s.bays.length) &&
       (match launchAddrs x x.lanes with
        | .ok as => (match s.launchRecords c as with
          | .got rs s1 => s1.unit? 0 0 == some c.u && rs.length == x.lanes.length
          | _ => false)
        | _ => false))) = true := by decide +kernel

theorem witness_transoms : ctx (here (.lit 0 5)) (fun c => c.u.transom.isNone) = true ∧
    (let p : BitVec 64 := BitVec.ofNat 64 (2 ^ 47 + 4 * 2 ^ 44)
     (p.extractLsb' 48 16 == 0 && p.extractLsb' 0 32 == 0 && p.getLsbD 47 && decide ((p.extractLsb' 44 3).toNat ≤ 4)) = true) := by decide +kernel

theorem witness_undefined : ctx (here (.undefinedEncoding 0)) (fun _ => true) = true := by decide +kernel

/-- R155: TRAP of a cause that may not be raised ends a frame that has no handler with 0x087. -/
theorem test_trap_refused : (after (.trap { z with imm := 0x3F0 }) (here (.nop z))).bind ended = some 0x087 := by decide +kernel
/-- R155. -/
theorem test_trap_cause : (after (.trap { z with imm := 0x3EF }) (here (.nop z))).bind ended = some 0x3EF := by decide +kernel
/-- R142, R150: the lanes whose guard fails stand at the next word, the others at the target. -/
theorem test_bra : (unitAfter (.bra { z with guard := 1, imm := 2 })
    (withUnit (here (.nop z)) (fun u => { u with preds := [(1, 0xF)] }))).map (fun u => u.frontier.map (fun e => (e.pc, e.lanes))) =
    some [(1, 0xFFFFFFF0), (2, 0xF)] := by decide +kernel
/-- R118, R388: the all-zero word ends a frame without a handler with 0x001. -/
theorem test_zero_word : (after (.undefinedEncoding 0) (here (.nop z))).bind ended = some 0x001 := by decide +kernel

/-! ## Pair words -/

theorem witness_pair : ctx (here (.nop z)) (fun c => @decide ((here (.nop z)).pairIssues c ⟨.fma, 0, 1, 2, 3, 0⟩ ⟨.fexp2, 0, 4, 5, 0, 0⟩)
    (by unfold State.pairIssues; infer_instance) && (c.half ⟨.fexp2, 0, 4, 5, 0, 0⟩ 2048).act != 0) = true := by decide +kernel
/-- R126 to R128: both halves read the registers as they stood before the word. -/
theorem test_pair_reads_first : (unitAfter (.pairWord ⟨.mov, 0, 3, 6, 0, 0⟩ ⟨.xor, 0, 6, 2, 7, 0⟩) (vals 5 9 (here (.nop z)))).map
    (fun u => (u.vec 3 0, u.vec 6 0)) = some (9, 5) := by decide +kernel

/-! ## Witnesses of the memory words' statements -/

/-- Global bases in s2, a vector index of zeros in v6, 4 bytes. -/
def memShapes : List SFields := [
  { z with dst := 4, ac := .scl, a := 2, b := 6, mod := 0x10 },
  { z with ac := .scl, a := 2, b := 6, mod := 0 }]

theorem witness_memory_words : memRows.all (fun row => memShapes.any (fun f =>
    let s := scalar 2 0x10100 (warm (here (row.word f)))
    ctx s (fun c => decide (s.wordIssues c row.form f) && !s.memWaits c && (row.ready s c f).unit? c.fid c.ui == some c.u &&
      (row.ready s c f).nextId == s.nextId && !(row.lanes c f).isEmpty &&
      (s.openLines c.fr.bay (s.walkLines c.fr.bay (wordPages (c.issue row.form f) row.elem row.index (row.bytes f) (row.width f) (row.lanes c f)))).isNone &&
      (match row.accesses s c f with
        | .ok as => as.all (fun a => !a.pane)
        | _ => false)))) = true := by decide +kernel

/-- Only lane 0 passes the guard p1. -/
def oneLane (s : State) : State := withUnit s (fun u => { u with preds := [(1, 1)] })
/-- The first memory operation of a state. -/
def firstOp (s : State) : Option (Nat × MemOp) := s.ops.head?

/-- No lane: the guard p1 is clear. -/
theorem witness_memory_words_pass : memRows.all (fun row => memShapes.any (fun f0 =>
    let f := { f0 with guard := 1 }
    let s := scalar 2 0x10100 (warm (here (row.word f)))
    ctx s (fun c => decide (s.wordIssues c row.form f) && !s.memWaits c && (row.ready s c f).unit? c.fid c.ui == some c.u &&
      (row.ready s c f).nextId == s.nextId && (row.lanes c f).isEmpty &&
      (s.openLines c.fr.bay (s.walkLines c.fr.bay (wordPages (c.issue row.form f) row.elem row.index (row.bytes f) (row.width f) (row.lanes c f)))).isNone))) = true := by
  decide +kernel
theorem witness_pane_store :
    (let f : SFields := { z with guard := 1, dst := 4, ac := .scl, a := 2, b := 6, mod := 0x11 }
     let s := oneLane (here (.st f))
     memRows.any (fun row => row.kind == .store && ctx s (fun c => decide (s.wordIssues c row.form f) && !s.memWaits c &&
      (row.ready s c f).unit? c.fid c.ui == some c.u && (row.ready s c f).nextId == s.nextId && !(row.lanes c f).isEmpty &&
      (s.openLines c.fr.bay (s.walkLines c.fr.bay (wordPages (c.issue row.form f) row.elem row.index (row.bytes f) (row.width f) (row.lanes c f)))).isNone &&
      f.space == 1 && f.order == 0 && s.ops.isEmpty && c.u.observed.isEmpty &&
      (match row.accesses s c f with
        | .ok as => as.length == 1
        | _ => false)))) = true := by decide +kernel
theorem witness_hints :
    (let f : SFields := { z with ac := .scl, a := 2, b := 6, mod := 0x80 }
     let s := scalar 2 0x10100 (warm (here (.pf f)))
     ctx s (fun c => let x := c.issue formPf f
       let ls := memLanes formPf f x
       let pages := wordPages x false true 1 0 (ls.filter (fun l => !addrPoisoned x true l))
       decide (s.wordIssues c formPf f) && !s.memWaits c && (s.openLines c.fr.bay (s.walkLines c.fr.bay pages)).isNone &&
       (s.walkedAll c.fr.bay c.core pages).unit? c.fid c.ui == some c.u && !ls.isEmpty && f.dist != 0 && !(s.prefetchAccesses c x ls).isEmpty)) = true ∧
    [false, true].all (fun l1 =>
      let f : SFields := { z with ac := .scl, a := 2, b := 6, mod := if l1 then 8 else 0 }
      let s := scalar 2 0x10100 (warm (here (.cctlIinv f)))
      ctx s (fun c => let x := c.issue formCctl f
       let ls := memLanes formCctl f x
       let pages := wordPages x false true 1 0 ls
       decide (s.wordIssues c formCctl f) && !s.memWaits c && (s.openLines c.fr.bay (s.walkLines c.fr.bay pages)).isNone &&
       (match s.wordAccesses c x (if l1 then .read else .inval) false true 1 0 (noData x) ls with
        | .ok as => !as.isEmpty && as.all (·.ok)
        | _ => false) &&
       (s.walkedAll c.fr.bay c.core pages).unit? c.fid c.ui == some c.u && !ls.isEmpty)) = true := by decide +kernel
theorem witness_fence :
    (let f : SFields := { z with imm := 0x20000 }
     let s := here (.fence f)
     ctx s (fun c => decide (s.wordIssues c formFence f) && !s.memBlocked c.fid c.ui c.e.lanes &&
       (uniformRods c.fr.width c.u f c.e.lanes).filter (fun i => (takingSet c.fr.width c.u c.e.lanes &&& rodLanes c.fr.width i) != 0) == [0] &&
       (match s.delivery c [0] with | .clear => true | _ => false))) = true := by decide +kernel

/-- ST and LD of 4 bytes at 0x10100 have entered the queue, and every lease is past. -/
def queued (store : Bool) : State :=
  let f : SFields := { z with guard := 1, dst := 4, ac := .scl, a := 2, b := 6, mod := 0x10 }
  let i : Instr := if store then .st f else .ld f
  let s := withUnit (scalar 2 0x10100 (warm (here i))) (fun u => { u with preds := [(1, 1)], vregs := [(256, 0x12345678)] })
  { (after i s).getD s with now := 100 }
/-- Line 0x202 holds 0x81 in its first byte. -/
def marked (s : State) : State :=
  { s with cache := { s.cache with lines := s.cache.lines.map (fun p => if p.1 == 0x202 then (p.1, { p.2 with data := 0x81 }) else p) } }

theorem witness_home : [true, false].all (fun w =>
    let s := queued w
 s.ops.any (fun p => (s.l2? 0x202).any (fun l =>
      (s.pieces p.2)[0]? == some (0x202 + 1) && p.2.writes == w && !(s.mineOf p.2 0x202).isEmpty && s.mayPerform p.1 p.2 &&
      (s.openLine 0x202 w).isNone && l.guest.isNone && l.way != transientWay && !s.homeWriteWaits l && sillSt (s.sill 0x202) != 1 && !s.together p.2 &&
      (w || (p.2.kind == .load && p.2.producer.isSome))))) = true := by decide +kernel
/-- R252, R278: the store's bytes stand in the line, little-endian (R240). -/
theorem test_home_write : ((firstOp (queued true)).bind (fun p => after (.homeWrite p.1 0) (queued true))).bind (fun t =>
    (t.l2? 0x202).map (fun l => (l.data.extractLsb' 0 40, l.dirty))) = some (0x12345678, true) := by decide +kernel
/-- R278: LD.B32 takes 4 bytes; its destination is written by the producer. -/
theorem test_home_read : ((firstOp (queued false)).bind (fun p => (after (.homeRead p.1 0) (marked (queued false))).bind (fun t =>
    (after (.longLatencyComplete p.1) t).bind (·.unit? 0 0)))).map (fun u => (u.vec 4 0, memb 4 u.vEmpty)) = some (0x81, false) := by decide +kernel
theorem witness_producer :
    (let s0 := queued false
     match firstOp s0 with
      | some p => (match after (.homeRead p.1 0) (marked s0) with
        | some s => (match SMap.find s.producers p.1, SMap.find s.ops p.1 with
          | some q, some o => q.ready && !q.faulted && (s.unit? q.frame q.unit).isSome && s.producers.length == 1 && !o.unperformed &&
            o.kind == .load && o.dst == some (.vec, 4) && o.size == 4 && o.acc.length == 1 &&
            o.acc.all (fun a => a.part == 0 && !a.gotPoison && decide (a.lane < 64))
          | _, _ => false)
        | none => false)
      | none => false) = true := by decide +kernel

/-! ## Witnesses of the latch words' statements -/

/-- The latch at 0x100 of the pane, named by s2, with a value in s3. -/
def latched (i : Instr) (x : LatchVal) (v : Nat) : State :=
  withFrame (scalar 3 (BitVec.ofNat 64 v) (scalar 2 0x80000100 (here i))) (fun fr => fr.putLatch 0x100 x)
/-- A latch of one thread with `n` arrivals left, `s` sectors, one registered thread of which `o` observed. -/
def aLatch (n s o : Nat) : LatchVal := { sec := s, arr := n, rld := 2, reg := 1, obs := o, rsv := 0, ph := 5 }
/-- The latch the tests use is at hand. -/
def atHand (s : State) (fm : Form) (f : SFields) : Bool :=
  ctx s (fun c => let x := c.issue fm f
    decide (s.wordIssues c fm f) && x.rods == [0] && s.allDone c 0 && !c.fr.panePoisoned 0x100 16 && decide (0 < c.u.rods.length) &&
    c.fr.term.isNone && !s.memBlocked c.fid c.ui c.e.lanes && !s.latchBusy c 0x100 && (match s.delivery c [0] with | .clear => true | _ => false) &&
    (match latchRef c x 0 with
      | .ok key => key == 0x100
      | _ => false))
/-- The latch after an instruction, and whether lanes went on, and the scalar s5. -/
def latchAfter (i : Instr) (s : State) : Option (LatchVal × List Nat × Nat × Nat) := (after i s).bind (fun t => (t.frame? 0).bind (fun fr =>
  (fr.unit? 0).map (fun u => (fr.latchAt 0x100, u.frontier.map (·.pc), u.waits.length, ((u.rod 0).scl 5).toNat))))

theorem witness_latch_setup :
    (let f : SFields := { z with ac := .scl, a := 2, bc := .scl, b := 3 }
     let s := latched (.linit f) (aLatch 0 0 0) (2 ^ 20 + 1)
     atHand s formLinit f && ctx s (fun c => !((c.issue formLinit f).srcB 64 0 ((c.issue formLinit f).laneOfRod 0)).2 &&
       ((c.issue formLinit f).srcB 64 0 ((c.issue formLinit f).laneOfRod 0)).1 == 2 ^ 20 + 1)) = true ∧
    [false, true].all (fun w =>
      let f : SFields := { z with ac := .scl, a := 2, mod := if w then 0x40 else 0 }
      atHand (latched (.lreg f) (aLatch 1 0 1) 0) formLreg f) = true := by decide +kernel
/-- R346: LINIT sets the expected arrivals, their reload, the sectors and the phase. -/
theorem test_linit : (let f : SFields := { z with ac := .scl, a := 2, bc := .scl, b := 3 }
    latchAfter (.linit f) (latched (.linit f) (aLatch 0 0 0) (7 * 2 ^ 52 + 9 * 2 ^ 20 + 3))) =
    some ({ sec := 9, arr := 3, rld := 3, reg := 0, obs := 0, rsv := 0, ph := 7 }, [1], 0, 0) := by decide +kernel
/-- R348. -/
theorem test_lreg : [(false, (2, 2)), (true, (0, 0))].all (fun p => let f : SFields := { z with ac := .scl, a := 2, mod := if p.1 then 0x40 else 0 }
    ((latchAfter (if p.1 then .lregD f else .lreg f) (latched (.lreg f) (aLatch 1 0 1) 0)).map (fun q => (q.1.reg, q.1.obs)) == some p.2)) = true := by
  decide +kernel

/-- The states of the update: an observer missing, an arrival too many, the last arrival, one of two. -/
def updates : List LatchVal := [aLatch 1 0 0, aLatch 0 0 1, aLatch 1 0 1, aLatch 2 0 1]
theorem witness_latch_updates : updates.all (fun l => [false, true].all (fun e =>
    let f : SFields := { z with dc := .prd, dst := 1, ac := .scl, a := 2, bc := .imm, imm := 1 }
    let s := latched (.larr f) l 0
    atHand s formLarr f && ctx s (fun c => let x := c.issue formLarr f
      x.srcB 64 (if e then f.simm else f.zimm) (x.laneOfRod 0) == (1, false)))) = true := by decide +kernel
/-- R343, R347: the last arrival ends the phase: the arrivals are reloaded and no thread has observed. -/
theorem test_larr : (let f : SFields := { z with dc := .prd, dst := 1, ac := .scl, a := 2, bc := .imm, imm := 1 }
    updates.map (fun l => (latchAfter (.larr f) (latched (.larr f) l 0)).map (fun q => (q.1.arr, q.1.obs, q.1.ph)))) =
    [some (1, 0, 5), some (0, 1, 5), some (2, 0, 6), some (1, 1, 5)] := by decide +kernel
/-- R347: LEXP of −1 after 1 sector, with no arrival left, ends the phase. -/
theorem test_lexp : (let f : SFields := { z with dc := .prd, dst := 1, ac := .scl, a := 2, bc := .imm, imm := 0x3FFFFF }
    (latchAfter (.lexp f) (latched (.lexp f) (aLatch 0 1 1) 0)).map (fun q => (q.1.sec, q.1.arr, q.1.ph))) = some (0, 2, 6) := by decide +kernel

/-- An earlier store of the unit is unperformed: the word issues and its update waits. -/
theorem witness_latch_deferred : latchRows.all (fun row =>
    [({ z with ac := .scl, a := 2, bc := .scl, b := 3 } : SFields), { z with dc := .prd, dst := 1, ac := .scl, a := 2, bc := .imm, imm := 1 },
      { z with ac := .scl, a := 2 }, { z with ac := .scl, a := 2, mod := 0x40 }].any (fun f =>
    let s := { latched (row.word f) (aLatch 2 0 1) 3 with ops := (queued true).ops.map (fun p => (1, p.2)) }
    ctx s (fun c => let x := c.issue row.form f
      decide (s.wordIssues c row.form f) && x.rods == [0] && !s.memBlocked c.fid c.ui c.e.lanes && !s.allDone c 0 &&
      (match latchTodo row.act c x 0 with | .ok q => q.1 == 0x100 | _ => false)))) = true := by decide +kernel

/-- LWAIT.R of the phase in the immediate, into s5. -/
def waitFor (q : BitVec 22) : SFields := { z with dc := .scl, dst := 5, ac := .scl, a := 2, bc := .imm, imm := q, mod := 0x40 }
theorem witness_lwait : [5, 4].all (fun q => let f := waitFor q
    let s := latched (.lwait f) (aLatch 1 0 0) 0
    atHand s formLwait f && ctx s (fun c => (c.issue formLwait f).srcB 64 f.zimm ((c.issue formLwait f).laneOfRod 0) == (q.toNat, false))) = true := by
  decide +kernel
/-- A unit that waits for phase 5 to be left, at a latch whose phase has moved on. -/
def waiter (bar : Bool) (l : LatchVal) : State :=
  let f := waitFor 5
  withFrame ((after (if bar then .bar { f with bc := .vec, imm := 0 } else .lwait f) (latched (.lwait f) (aLatch 1 0 0) 0)).getD State.reset)
    (fun fr => fr.putLatch 0x100 l)
theorem witness_lwait_wake :
    (let s := waiter false { aLatch 1 0 0 with ph := 6 }
     match s.waiting 0 0 with
      | some c => c.fid == 0 && c.ui == 0 && c.fr.term.isNone && !s.memBlocked 0 0 c.e.lanes && !s.latchBusy c 0x100 && !c.fr.panePoisoned 0x100 16 &&
        (match s.delivery c [0] with | .clear => true | _ => false) &&
        (match c.u.waits with
          | [w] => !w.bar && w.q == some 5 && decide (w.rod < c.u.rods.length) && w.latch == 0x100
          | _ => false)
      | none => false) = true := by decide +kernel
/-- R349: at once, waiting, and woken. -/
theorem test_lwait : (latchAfter (.lwait (waitFor 4)) (latched (.lwait (waitFor 4)) (aLatch 1 0 0) 0)) = some (aLatch 1 0 1, [1], 0, 5) ∧
    (latchAfter (.lwait (waitFor 5)) (latched (.lwait (waitFor 5)) (aLatch 1 0 0) 0)).map (fun q => q.2) = some ([0], 1, 0) ∧
    latchAfter (.lwaitWake 0 0) (waiter false { aLatch 1 0 0 with ph := 6 }) = some ({ aLatch 1 0 1 with ph := 6 }, [1], 0, 6) := by decide +kernel

theorem witness_bar : [aLatch 2 0 1, aLatch 1 0 1].all (fun l =>
    let f : SFields := { waitFor 0 with bc := .vec }
    let s := latched (.bar f) l 0
    atHand s formBar f && (match l.update 1 0 with | .accepted l' => (l'.ph == l.ph) == (l.arr == 2) | _ => false)) = true ∧
    (let s := waiter true (aLatch 2 0 1)
     match s.waiting 0 0 with
      | some c => c.fr.term.isNone && !s.latchBusy c 0x100 && !c.fr.panePoisoned 0x100 16 &&
        (match (c.fr.latchAt 0x100).update 1 0 with | .accepted _ => true | _ => false) &&
        (match c.u.waits with
          | [w] => w.bar && w.q == none && w.latch == 0x100
          | _ => false)
      | none => false) = true := by decide +kernel
/-- R350: an arrival that waits, and one that ends the phase and observes it. -/
theorem test_bar : (let f : SFields := { waitFor 0 with bc := .vec }
    [aLatch 2 0 1, aLatch 1 0 1].map (fun l => (latchAfter (.bar f) (latched (.bar f) l 0)))) =
    [some (aLatch 1 0 1, [0], 1, 0), some ({ aLatch 2 0 1 with ph := 6 }, [1], 0, 6)] := by decide +kernel

/-! ## Witnesses of the matrix words' and the jobs' statements -/

/-- Operands of the matrix words: references to the pane's blocks, latches that are none, rows 128 bytes apart, and s4 zero. -/
def tiled (i : Instr) : State := scalar 3 128 (scalar 2 0 (here i))
/-- Fields that some word of row 0xA accepts. -/
def matShapes : List SFields := [
  { z with dc := .scl, dst := 4, ac := .scl, a := 2, bc := .scl, b := 4, mod := 0x110 },
  { z with dc := .scl, dst := 4, ac := .scl, a := 2, bc := .scl, b := 4, mod := 0x100 },
  { z with bc := .scl, b := 4, mod := 3 },
  { z with dc := .scl, dst := 4, ac := .scl, a := 2, bc := .scl, b := 3, mod := 0x800 },
  { z with dst := 4 }, { z with a := 4, mod := 0x40 }]
theorem witness_matrix_words : matRows.all (fun row => matShapes.any (fun f =>
    let s := tiled (row.word f)
    ctx s (fun c => let x := c.issue row.form f
      decide (s.wordIssues c row.form f) && collectiveOk c x && !s.engineStopped c.core && x.rods == [0] &&
      (s.openLines c.fr.bay (s.walkLines c.fr.bay (x.rods.flatMap (row.pages x)))).isNone &&
      s.queueRoom c.core x.rods.length && s.shutterRoom c.core x.rods.length &&
      (match issueRods (row.part c x) s x.rods with
        | .ok s' => (s'.walkedAll c.fr.bay c.core (x.rods.flatMap (row.pages x))).unit? c.fid c.ui == s'.unit? c.fid c.ui
        | _ => false)))) = true := by decide +kernel
theorem witness_tfetch :
    (let f : SFields := { z with ac := .scl, a := 2, bc := .scl, b := 3 }
     let s := scalar 3 128 (scalar 2 0x10000 (warm (here (.tfetch f))))
     ctx s (fun c => let x := c.issue formTfetch f
      let ps := x.rods.flatMap (stridePages (fun _ => 64) x)
      decide (s.wordIssues c formTfetch f) && collectiveOk c x && !s.engineStopped c.core && x.rods == [0] &&
      (s.openLines c.fr.bay (s.walkLines c.fr.bay ps)).isNone && s.queueRoom c.core x.rods.length &&
      (match issueRods (tfetchRod c x) s x.rods with
        | .ok s' => decide (s'.holdsOf c.core ≤ 16) && (s'.walkedAll c.fr.bay c.core ps).unit? c.fid c.ui == s'.unit? c.fid c.ui
        | _ => false))) = true := by decide +kernel
/-- The part of the statement that asks only about state and operands: each word has a shape it completes with. -/
def matReady (row : MatRow) (f : SFields) (s : State) (c : IssueCtx) : Prop :=
  let x := c.issue row.form f
  s.wordIssues c row.form f ∧ x.rods = [0] ∧ collectiveOk c x = true ∧ s.engineStopped c.core = false ∧ row.pages x 0 = [] ∧
  row.tile x < c.fr.board ∧ s.queueRoom c.core 1 = true ∧ s.shutterRoom c.core 1 = true
/-- A word whose operands pass the checks its row lists. -/
def completes (word : SFields → Instr) (fm : Form) (p : State → IssueCtx → Issue → Nat → Bool) : Bool := matShapes.any (fun f =>
  let s := tiled (word f)
  ctx s (fun c => matRows.any (fun row => row.word f == word f && @decide (matReady row f s c) (by unfold matReady; infer_instance)) &&
    p s c (c.issue fm f) 0))
set_option synthInstance.maxSize 1000 in
theorem witness_matrix_words_complete :
    completes .mma formMma (fun s c x i => @decide (mmaSound s c x i) (by show Decidable (_ ∧ _); infer_instance)) = true ∧ completes .sumsR formSums (fun s c x i => @decide (sumsSound s c x i) (by show Decidable (_ ∧ _); infer_instance)) = true ∧
    completes .sumsC formSums (fun s c x i => @decide (sumsSound s c x i) (by show Decidable (_ ∧ _); infer_instance)) = true ∧ completes .aclr formAclr (fun _ _ _ _ => true) = true ∧
    completes .ald formAld (fun s c x i => @decide (aldSound s c x i) (by show Decidable (_ ∧ _); infer_instance)) = true ∧
    completes .drain formDrain (fun s c x i => @decide (drainSound s c x i) (by show Decidable (_ ∧ _); infer_instance)) = true ∧
    completes .amovTov (formAmov false) (fun s c x i => decide (amovSound (fun x => x.f.dst.toNat) s c x i)) = true ∧
    completes .amovTob (formAmov true) (fun s c x i => decide (amovSound (fun x => x.f.a.toNat) s c x i)) = true := by decide +kernel
/-- No page, no walk; and the bring-up map is walked without a read. -/
theorem witness_no_walks (s : State) (b core : Nat) : s.walksKeep b core [] := fun _ _ _ _ _ _ _ => rfl
theorem walked_bringup (s : State) (b core : Nat) (va : BitVec 64) (h : (s.bay b).root = bringupRoot) :
    (s.walked b core va).frames = s.frames ∧ (s.walked b core va).bays = s.bays := by
  have hw : s.walk b va = { leaf := bringupLeaf s.pkgNum va.toNat, lines := [] } := by
    unfold State.walk; simp only [h]; rfl
  unfold State.walked
  simp only [hw, List.foldl_nil]
  split
  · exact ⟨rfl, rfl⟩
  · split <;> simp
theorem walks_keep_bringup (s : State) (b core : Nat) (ps : List Nat) (h : (s.bay b).root = bringupRoot) : s.walksKeep b core ps := by
  intro s1 _ _ _ hb fid ui
  have key : ∀ (l : List Nat) (s2 : State), s2.bays = s.bays →
      (l.foldl (fun s va => if 2 ^ 57 ≤ va then s else s.walked b core (BitVec.ofNat 64 va)) s2).frames = s2.frames := by
    intro l
    induction l with
    | nil => intros; rfl
    | cons v l ih =>
      intro s2 h2
      simp only [List.foldl_cons]
      by_cases hv : 2 ^ 57 ≤ v
      · rw [if_pos hv]; exact ih s2 h2
      · rw [if_neg hv]
        have hr : (s2.bay b).root = bringupRoot := by unfold State.bay at h ⊢; rw [h2]; exact h
        obtain ⟨hf, hb⟩ := walked_bringup s2 b core (BitVec.ofNat 64 v) hr
        rw [ih _ (hb.trans h2), hf]
  unfold State.unit? State.frame? State.walkedAll
  rw [show ∀ x : State, ({ x with free := x.free + 1 } : State).frames = x.frames from fun _ => rfl, key ps s1 hb]
theorem witness_tfetch_completes :
    (let f : SFields := { z with ac := .scl, a := 2, bc := .scl, b := 3 }
     let s := (scalar 3 128 (scalar 2 0x100100000010000 (here (.tfetch f)))).modBay 0 (fun y => { y with root := bringupRoot })
     ctx s (fun c => let x := c.issue formTfetch f
      let base := x.srcA 64 (x.laneOfRod 0)
      let stride := x.srcB 64 0 (x.laneOfRod 0)
      decide (s.wordIssues c formTfetch f) && x.rods == [0] && collectiveOk c x && !s.engineStopped c.core &&
      (s.openLines c.fr.bay (s.walkLines c.fr.bay (stridePages (fun _ => 64) x 0))).isNone && (s.bay c.fr.bay).root == bringupRoot &&
      !base.2 && !stride.2 && base.1 % 64 == 0 && stride.1 == 128 && decide (s.rowsReach c false [.read] base.1 stride.1 64) &&
      s.queueRoom c.core 1 && decide (s.holdsOf c.core < 16))) = true := by decide +kernel

/-- A word of row 0xA has issued and its operation has started. -/
def engaged (i : Instr) (s : State) : State := ((after i s).bind (after (.matrixOpStart 0))).getD s
/-- ACLR of tile 3 to s3, AMOV to and from tile 2, and the integer MMA of .Z into tile 1. -/
def aclrOp : State := engaged (.aclr { z with bc := .scl, b := 3, mod := 3 }) (tiled (.aclr z))
def tobOp : State := let f : SFields := { z with a := 4, mod := 0x40, imm := 2 }
  engaged (.amovTob f) (withUnit (tiled (.amovTob f)) (fun u => { u with vregs := [(256, 7), (64 * 5 + 31, 9)] }))
def tovOp : State := let f : SFields := { z with dst := 4, imm := 2 }
  engaged (.amovTov f) (withFrame (tiled (.amovTov f)) (fun fr => { fr with tiles := [(2048 + 33, 5)] }))
def mmaOp : State := let f : SFields := { z with dc := .scl, dst := 4, ac := .scl, a := 2, bc := .scl, b := 4, mod := 0x110, imm := 1 }
  engaged (.mma f) (withFrame (tiled (.mma f)) (fun fr => { fr with paneMem := [(0, 3), (64, 0xFE), (65, 0xFF), (66, 0xFF), (67, 0xFF)] }))
/-- The started head of core 0's queue meets a condition, with its frame. -/
def headIs (s : State) (p : Nat → MatOp → Frame → Bool) : Bool :=
  match s.matHead 0 with
  | some (id, o) => match s.frame? o.frame with
    | some fr => o.started && p id o fr
    | none => false
  | none => false
theorem witness_matrix_start :
    (match after (.aclr { z with bc := .scl, b := 3, mod := 3 }) (tiled (.aclr z)) with
      | some s => (match s.matHead 0 with
        | some (_, o) => o.job.isNone && o.holds.isEmpty
        | none => false)
      | none => false) = true := by decide +kernel
theorem witness_matrix_operations :
    headIs aclrOp (fun _ o _ => o.job.isNone && (match o.kind with | .aclr _ _ => true | _ => false)) = true ∧
    headIs tobOp (fun _ o _ => o.job.isNone && (match o.kind with | .amovTob vs => vs.length == 1024 | _ => false)) = true ∧
    headIs tovOp (fun _ o fr => o.job.isNone && (match o.kind with
      | .amovTov n _ _ => (match SMap.find tovOp.producers n with
        | some p => p.frame == o.frame && p.unit == o.unit && !p.faulted && (fr.unit? o.unit).isSome && fr.width == 32 && o.rod == 0
        | none => false)
      | _ => false)) = true ∧
    headIs mmaOp (fun _ o fr => (match o.kind with
      | .mma a b fa fb _ => a.hold.isNone && b.hold.isNone && a.scl.isNone && b.scl.isNone && intPath fa fb && decide (o.tile < 64)
      | _ => false) && fr.width == 32) = true := by decide +kernel
/-- R318: element e of the tile goes to and from register e / 32, lane e mod 32. -/
theorem test_amov : ((after (.matrixOpComplete 0) tobOp).bind (fun t => t.frame? 0)).map (fun fr => (fr.tileElem 0 2 0, fr.tileElem 0 2 63)) =
      some ((7, false), (9, false)) ∧
    ((after (.matrixOpComplete 0) tovOp).bind (fun t => t.unit? 0 0)).map (fun u => (u.vec 5 1, u.vec 4 1)) = some (5, 0) := by decide +kernel
/-- R184, R309: rows of A and of B from the same block: 3 · 3, 3 · −2 and −2 · −2, exactly. -/
theorem test_mma_int :
    (let rows := mmaOp.blockRows 0 { pane := some 0, hold := none, scl := none, koff := false } []
     let row (i : Nat) : List XVal := (rowVals .int32 ((rows[i]?).getD ([], [])).1 [] false (.fin false 1 1 0) 16).1
     [(cell true 0 (row 0) (row 0)).1, (cell true 0 (row 0) (row 1)).1, (cell true 0 (row 1) (row 1)).1]) = [9, 0xFFFFFFFA, 4] := by decide +kernel

/-- A job descriptor at the start of the pane: word 0, the latch, and windows of the pane at places 0, 1 and 4. -/
def described (i : Instr) (j0 latch : Nat) (r0 r1 w0 : Nat × Nat) : State :=
  let win (p : Nat × Nat) : List (BitVec 8) := if p.2 = 0 then toBytes 16 0 else toBytes 8 (2 ^ 63 + 2 ^ 61 + p.1) ++ toBytes 8 p.2
  withFrame (scalar 2 0 (here i)) (fun fr => { fr with paneMem := ((toBytes 8 j0 ++ toBytes 8 latch ++ win r0 ++ win r1 ++
    toBytes 32 0 ++ win w0 ++ toBytes 32 0).zipIdx.map (fun (p : Byte × Nat) => (p.2, p.1)) ++ [(0x1000, 0x11), (0x1005, 0x22)]).filter (fun p => p.2 != 0) })
/-- The job words with descriptors they accept. -/
def jobCases : List (JobWord × (SFields → Instr) × Nat × (Nat × Nat) × (Nat × Nat) × (Nat × Nat)) := [
  (.copy, .copy, 0, (0x1000, 16), (0, 0), (0x2000, 16)), (.gather, .gather, 2 ^ 37, (0x1000, 16), (0x3000, 32), (0x2000, 16)),
  (.scatter, .scatter, 2 ^ 37, (0x1000, 16), (0x3000, 16), (0x2000, 32))]
theorem witness_job_words : jobCases.all (fun q =>
    let f : SFields := { z with ac := .scl, a := 2 }
    let s := described (q.2.1 f) q.2.2.1 0x80000100 q.2.2.2.1 q.2.2.2.2.1 q.2.2.2.2.2
    ctx s (fun c => let x := c.issue formJob f
      decide (s.wordIssues c formJob f) && x.rods == [0] && !s.paneBusy c (c.u.side * 2 ^ 20) 128 && s.shutterRoom c.core 1 &&
      (match s.jobPlans q.1 c x x.rods with
        | .ok ps => ps.length == 1
        | _ => false))) = true := by decide +kernel
theorem witness_job_words_pass : jobCases.all (fun q =>
    let f : SFields := { z with ac := .scl, a := 2, guard := 1 }
    let s := here (q.2.1 f)
    ctx s (fun c => decide (s.wordIssues c formJob f) && (c.issue formJob f).rods.isEmpty)) = true := by decide +kernel
/-- COPY of 16 bytes of the pane has issued. -/
def copying : State := (after (.copy { z with ac := .scl, a := 2 }) (described (.copy z) 0 0 (0x1000, 16) (0, 0) (0x2000, 16))).getD State.reset
/-- Its job changed. -/
def withJob (s : State) (g : Job → Job) : State := { s with jobs := s.jobs.map (fun p => (p.1, g p.2)) }
/-- A job of a state meets a condition. -/
def jobIs (s : State) (p : Nat → Job → Bool) : Bool := s.jobs.any (fun q => p q.1 q.2)
theorem witness_jobs : jobIs copying (fun id j => j.kind != .matrix && copying.jobFree id j) = true ∧
    jobIs (withJob copying (fun j => { j with started := true })) (fun _ j => j.started && !j.finished && j.kind == .copyPlain && j.prog == {} &&
      (copying.frame? j.frame).isSome && (match j.reads, j.writes with
        | [r], [w] => r.pane && w.pane && r.len != 0 && w.len != 0 && r.bytes == w.bytes && !w.meets j.side j.side r &&
          (List.range 16).all (fun m => w.byteAt m == 0x2000 + m && r.byteAt m == 0x1000 + m) && w.bytes == 16
        | _, _ => false)) = true ∧
    [({ aLatch 1 0 0 with reg := 0 } : LatchVal), aLatch 1 0 0].all (fun l => jobIs (withJob copying (fun j => { j with finished := true, latch := some 0x100 }))
      (fun _ j => j.finished && (match (withFrame copying (fun fr => fr.putLatch 0x100 l)).frame? j.frame with
        | some fr => !fr.panePoisoned 0x100 16 && (match (fr.latchAt 0x100).update 1 j.sectors with
          | .accepted _ => l.reg == 0
          | .refused => l.reg == 1
          | _ => false)
        | none => false))) = true := by decide +kernel
/-- R334. -/
theorem test_copy : ((copying.jobs.head?).bind (fun p => (after (.jobComplete p.1) (withJob copying (fun j => { j with started := true }))).bind
    (fun t => t.frame? 0))).map (fun fr => (SMap.get 0 fr.paneMem 0x2000, SMap.get 0 fr.paneMem 0x2005, SMap.get 0 fr.paneMem 0x2006)) =
    some (0x11, 0x22, 0) := by decide +kernel

/-! ## Witnesses of the system words' statements -/

/-- The staging area's lines stand in their slices; the block there begins with BAYCFG's words for pair 0 and key 1. -/
def staged (s : State) : State :=
  { s with cache := { s.cache with lines := (List.range 28).map (fun n => (0x2FFF80020 + n,
    { slice := 0, set := n, way := 1, data := if n = 0 then BitVec.ofNat 1024 (1 + 16 * 2 ^ 128 + 2 * 2 ^ 256) else 0, poison := false, dirty := false, guest := none, key := 0,
      bay := 12, pins := [], decl := false, cls := .dead, clm := 0, stamp := 0, wts := 0, rts := 0 })) } }
/-- The operands of a system word: s2 and s3. -/
def operands (a b : Nat) (i : Instr) : State := scalar 3 (BitVec.ofNat 64 b) (scalar 2 (BitVec.ofNat 64 a) (staged (here i)))
/-- Every word that returns a status or a value. -/
def sysRows : List SysRow := levelOneRows ++ bayRows ++ packageRows ++ retireRows
/-- Fields that some system word accepts. -/
def sysShapes : List SFields :=
  let d : SFields := { z with dc := .scl, dst := 4 }
  let a : SFields := { d with ac := .scl, a := 2 }
  let b : SFields := { a with bc := .scl, b := 3 }
  [a, { a with mod := 0x40 }, { a with mod := 0x80 }, d, { d with mod := 0x40 }, b, { b with mod := 0x40 }, { a with imm := 0x100000 },
    { a with imm := 0x100000, mod := 0x40 }, { d with imm := 0x100000, mod := 0x40 }, { b with imm := 0x100000 }]
/-- Nothing that a system word could wait for is under way. -/
def idle (s : State) : Bool :=
  !s.bayAccesses 0 && !s.bayAccesses 12 && !(s.bay 0).ctl.importBit && !(s.bay 0).saving && s.ops.isEmpty && s.jobs.isEmpty && s.cache.txns.isEmpty
theorem witness_system_words : sysRows.all (fun row => sysShapes.any (fun f =>
    let s := operands 0 0x1000 (row.word f)
    idle s && ctx s (fun c => let x := c.issue row.form f
      decide (s.wordIssues c row.form f) && x.rods == [0] && s.allDone c 2 && (poisonedRod row.form x).isNone &&
      !(row.bay c x 0).any (s.wordsPending row.resets) &&
      (match row.block x 0 s with
        | none => true
        | some (va, n) => (match s.bulkRead (s.unitReader c true) va n with
          | .value _ p s1 => !p && (row.reply c x 0 [] s1).2.unit? c.fid c.ui == some c.u
          | _ => false)) &&
      (row.reply c x 0 [] s).2.unit? c.fid c.ui == some c.u))) = true := by decide +kernel
/-- An earlier store of the unit is unperformed; no logical rod acts. -/
theorem witness_system_words_wait : sysRows.all (fun row => sysShapes.any (fun f =>
    let s := { operands 0 0x1000 (row.word f) with ops := (queued true).ops.map (fun p => (1, p.2)) }
    ctx s (fun c => decide (s.wordIssues c row.form f) && (c.issue row.form f).rods == [0] && !s.allDone c 2))) = true ∧
    sysRows.all (fun row => sysShapes.any (fun g =>
    let f := { g with guard := 1 }
    let s := operands 0 0 (row.word f)
    ctx s (fun c => decide (s.wordIssues c row.form f) && (c.issue row.form f).rods.isEmpty))) = true := by decide +kernel
/-- An image is being loaded for bay 0, which the word acts on. -/
theorem witness_system_words_pending : sysRows.all (fun row => sysShapes.any (fun f =>
    let s := { operands 0 0x1000 (row.word f) with loads := [(9, { bay := 0, bytes := [], poison := false, producer := 9 })] }
    ctx s (fun c => let x := c.issue row.form f
      decide (s.wordIssues c row.form f) && x.rods == [0] && (poisonedRod row.form x).isNone &&
      ((row.bay c x 0).isNone || (row.bay c x 0).any (s.wordsPending row.resets))))) = true := by decide +kernel
/-- The value a word's producer will write into s4. -/
def replied (i : Instr) (s : State) : Option (State × Nat) := (after i s).bind (fun t => (t.producers.getLast?).bind (fun p =>
  (t.unit? 0 0).map (fun u => (t, (((u.apply p.2.effect).rod 0).scl 4).toNat))))
/-- R94, R400: BAYCFG of a block for pair 0 and key 1. -/
theorem test_baycfg : (let f : SFields := { z with dc := .scl, dst := 4, ac := .scl, a := 2, bc := .scl, b := 3 }
    (replied (.baycfg f) (operands 5 0x1000 (.baycfg f))).map (fun p => ((p.1.bay 5).state, (p.1.bay 5).block, p.2))) =
    some (.configured, [1, 0, 16, 0, 2, 0, 0, 0], 0) := by decide +kernel
/-- R396: a bay number above 11 is out of range. -/
theorem test_bayrst_range : (let f : SFields := { z with dc := .scl, dst := 4, ac := .scl, a := 2 }
    (replied (.bayrst f) (operands 12 0 (.bayrst f))).map (·.2)) = some 0x3C9 := by decide +kernel
/-- R248, R402: OWNSET of bay 3 and key 5 over two granules. -/
theorem test_ownset : (let f : SFields := { z with dc := .scl, dst := 4, ac := .scl, a := 2, bc := .scl, b := 3, imm := 0x3005 }
    (replied (.ownset f) (operands 0x40000 2 (.ownset f))).map (fun p => (p.2, p.1.ownerEntry 0x4FFFF, p.1.ownerEntry 0x5FFFF, p.1.ownerEntry 0x60000))) =
    some (0, 0x3005, 0x3005, 0xF000) := by decide +kernel

theorem witness_bay_states : State.reset.bays.length = 13 ∧ 0x10000 % 65536 = 0 ∧ State.reset.cache.lines = [] := by decide +kernel

/-- A handler that holds the unit's lanes aside at word 2. -/
def aHandler : Handler := ⟨[{ pc := 2, pri := 0, lanes := 0xFFFFFFFF }], [0xFFFFFFFF], 0x100000002, 0xF, 0, 16⟩
def inHandler (s : State) : State := withUnit s (fun u => { u with handler := some aHandler })
theorem witness_tret :
    (let s := here (.tret z)
     ctx s (fun c => decide (s.wordIssues c formTret z) && !(c.issue formTret z).rods.isEmpty && s.allDone c 2 && c.u.handler.isNone)) = true ∧
    (let s := inHandler (here (.tret z))
     ctx s (fun c => decide (s.wordIssues c formTret z) && !(c.issue formTret z).rods.isEmpty && s.allDone c 2 && (match c.u.handler with
       | some h => spread h.held && h.heldExm.length == c.u.rods.length && decide (2 < c.codeWords) &&
         (h.tpc.extractLsb' 0 24).toNat == 2 && (match s.before { c with u := { c.u with handler := none } } 2 with | .clear => true | _ => false)
       | none => false))) = true := by decide +kernel
/-- R386: outside a handler TRET traps with 0x3C3. -/
theorem test_tret_outside : (after (.tret z) (here (.tret z))).bind ended = some 0x3C3 := by decide +kernel

theorem witness_movp :
    [0x00, 0x01, 0x02, 0x03, 0x04, 0x05, 0x10, 0x100008, 0x100009, 0x10000A].all (fun n =>
      let f : SFields := { z with dc := .scl, dst := 4, imm := n }
      let s := here (.movpRead f)
      ctx s (fun c => decide (s.wordIssues c formMovpRead f) && (c.issue formMovpRead f).rods == [0] && s.allDone c 2 && decide (0 < c.u.rods.length))) = true ∧
    [0x100, 0x102, 0x104, 0x105, 0x110, 0x100108, 0x100109, 0x10010A].all (fun n =>
      let f : SFields := { z with bc := .scl, b := 3, imm := n }
      let s := here (.movpWrite f)
      ctx s (fun c => let x := c.issue s.movpForm f
        decide (s.wordIssues c s.movpForm f) && x.rods == [0] && s.allDone c 2 && (poisonedRod formMovpWrite x).isNone && decide (0 < c.u.rods.length) &&
        (n.getLsbD 20 == (namedBay c x).isSome) && decide (0 < s.bays.length))) = true := by decide +kernel
/-- R384: the reserved bits of THCTL are not written. -/
theorem test_movp_thctl : (let f : SFields := { z with bc := .scl, b := 3, imm := 0x100109 }
    (after (.movpWrite f) (scalar 3 (BitVec.allOnes 64) (here (.movpWrite f)))).map (fun t => (t.bay 0).thctl)) = some 0xFFFFFFFF00FFFFFF := by
  decide +kernel

theorem witness_images :
    (let f : SFields := { z with dc := .scl, dst := 4, ac := .scl, a := 2, bc := .scl, b := 3, imm := 0x100000 }
     let s := operands 0x1000 3374 (.imgsub f)
     ctx s (fun c => let x := c.issue formSelAB f
      decide (s.wordIssues c formSelAB f) && x.rods == [0] && s.allDone c 2 && (poisonedRod formSelAB x).isNone && namedBay c x == some 0 &&
      x.opB 0 == 3374 && (match s.bulkRead (s.unitReader c true) (x.opA 0) (x.opB 0) with
        | .value _ _ s1 => s1.unit? c.fid c.ui == some c.u
        | _ => false))) = true ∧
    (let s := { State.reset with loads := [(1, { bay := 0, bytes := [], poison := false, producer := 2 })] }
     (SMap.find s.loads 1).any (fun l => decide (l.bay < s.bays.length))) = true := by decide +kernel

theorem witness_preempt : [(12, BayState.free), (0, .free), (0, .reserved)].all (fun p =>
    let f : SFields := { z with dc := .scl, dst := 4, ac := .scl, a := 2 }
    let s := (operands p.1 0 (.preempt f)).modBay 0 (fun y => { y with state := p.2 })
    ctx s (fun c => let x := c.issue formStewFlag f
      decide (s.wordIssues c formStewFlag f) && x.rods == [0] && s.allDone c 2 && (poisonedRod formStewFlag x).isNone && s.bays.length == 13 && x.opA 0 == p.1)) = true := by
  decide +kernel

/-! ## Witnesses of the happenings' statements -/

/-- The part at the end of bring-up, and that with a bay changed; reset with the package's registers changed. -/
def base : State := State.reset.modChip (fun c => { c with boot := { c.boot with stage := 7, ready := true } })
def withBay (b : Nat) (g : Bay → Bay) : State := base.modBay b g
def withChip (g : Chip → Chip) : State := State.reset.modChip g
/-- A bay that is RESERVED and runs, with pair 0, key 1 and 16 nodes. -/
def reservedBay (y : Bay) : Bay := { y with state := .reserved, running := true, block := [1, 0, 16, 16 * 2 ^ 48 + 2 ^ 20, 2, 0, 0, 0] }

theorem witness_resets : (withChip (fun c => { c with boot := { c.boot with halt := true } })).chip.boot.halt = true ∧
    State.reset.chip.boot.halt = false ∧ ({ State.reset with agenda := [.event .packageReset] } : State).agenda = [.event .packageReset] ∧
    (let s := base.modChip (fun c => { c with vfbind := [(3, 2)] })
     s.vfOpen && SMap.find s.chip.vfbind 3 == some 2 && s.bays.length == 13) = true := by decide +kernel
/-- R23: BOOTST alone reads in a halted part: stage 7, HALT and READY. -/
theorem test_halted_read : (let s := base.modChip (fun c => { c with boot := { c.boot with halt := true } })
    (s.barRead 0 0, s.barRead 0 0x2000)) = (some 0x07000006, some 0) := by decide +kernel
/-- R23, R27: a package reset begins at stage 0x01. -/
theorem test_package_reset : (after .packageReset (withChip (fun c => { c with boot := { c.boot with ready := true, stage := 7 } }))).map
    (fun t => (t.chip.boot.stage, t.chip.boot.ready)) = some (1, false) := by decide +kernel
theorem witness_bring_up : [0, 1, 2, 3, 4, 5, 6].all (fun (n : BitVec 8) => (withChip (fun c => { c with boot := { c.boot with stage := n } })).chip.boot.stage == n) =
    true ∧ (5 : Nat) < 1024 ∧ 5 ∉ State.reset.lostChannels := by decide +kernel
/-- R28, R431. -/
theorem test_steward_bringup : (after .stewardBringup (withChip (fun c => { c with boot := { c.boot with stage := 6 } }))).map
    (fun t => (t.chip.boot.stage, t.chip.boot.ready, (t.bay 12).state)) =
    some (7, true, .reserved) := by decide +kernel
theorem witness_firmware : [false, true].all (fun r => (withChip (fun c => { c with boot := { c.boot with stage := 1, recov := r } })).chip.boot.recov == r) = true ∧
    (1 : BitVec 64).getLsbD 0 = true := by decide +kernel
/-- R26: in recovery, an empty window is refused and bring-up stays there. -/
theorem test_empty_flash : ((after .imageCheck (withChip (fun c => { c with boot := { c.boot with stage := 1 } }))).map
    (fun t => (t.chip.boot.stage, t.chip.boot.recov))) = some (0xF0, true) := by decide +kernel

theorem witness_queue_registers :
    (let s := withBay 0 (fun y => { y with state := .configured })
     s.queueLives 0 0 && ((s.bay 0).queue? (queueOf 0)).isSome && decide (0 < s.bays.length) && !s.bound 3 &&
     (s.bay 0).state != .reserved && s.chip.vfbind.isEmpty && s.barOpen && SMap.get 0 s.chip.vfBay 3 == 0) = true ∧
    (let s := (withBay 0 reservedBay).modChip (fun c => { c with vfbind := [(3, 0)] })
     s.barOpen && decide ((s.bay 0).hostq ≤ 7)) = true ∧
    (let s := (withBay 0 reservedBay).modBay 0 (fun y => { y with steward := { y.steward with en := true, log2n := 4 } })
     s.queueLives 0 0 && ((s.bay 0).queue? (queueOf 0)).any (fun k => k.en && decide (2 ^ k.log2n.toNat < ((17 : BitVec 16) - k.head).toNat))) = true := by
  decide +kernel
/-- R76: 17 records posted in a ring of 16 stop the queue with 0x3DD; 16 do not. -/
theorem test_queue_tail : [16, 17].map (fun n =>
    (after (.queueTailWrite 0 0 n) ((withBay 0 reservedBay).modBay 0 (fun y => { y with steward := { y.steward with en := true, log2n := 4 } }))).map
      (fun t => let k := (t.bay 0).steward
        (k.en, k.statValid, k.statCause))) = [some (true, false, 0), some (false, true, 0x3DD)] := by decide +kernel

/-- A record in the steward queue of bay 0, by the bytes of its word 0; an earlier node writes its read window's line. -/
def posted (kind : Nat) : State :=
  { (withBay 0 reservedBay).modBay 0 (fun y => { y with steward := { y.steward with en := true, log2n := 4, tail := 1 } }) with
    host := (((toBytes 8 (kind * 2 ^ 60)).zipIdx.map (fun (p : Byte × Nat) => (p.2, p.1))).filter (fun p => p.2 != 0)) }
theorem witness_records : [(2, none), (3, some 0x3D8)].all (fun q =>
    let s := posted q.1
    (s.bay 0).state == .reserved && (s.bay 0).taken.isNone && decide (0 < s.bays.length) && (s.bay 0).nextPlace 0 == some 0 && (s.recordAt 0 0).2 == none && recordCause (s.recordAt 0 0).1 == q.2 &&
    (q.2.isSome || (recKind (s.recordAt 0 0).1 != 0 && s.roomForNode 0 (s.predsOf 0 (rotationQueue 0) none (s.recordAt 0 0).1).length))) = true := by
  decide +kernel

/-- A node of bay 0 in a state, with a record of a kind. -/
def aNode (st : NodeState) (kind : Nat) : Node :=
  { bay := 0, queue := .steward, seq := 0, words := [BitVec.ofNat 64 (kind * 2 ^ 60), 0, BitVec.ofNat 64 (2 ^ 48 + 2 ^ 32 + 2 ^ 16)], state := st, preds := [], cls := 2, entered := 0, aged := 0,
    desc := none, bindings := [], nextFrame := 0, live := 0, cause := none, dispatch := none, launcher := none }
/-- Bay 0 with some nodes. -/
def withNodes (ns : List (Nat × Node)) : State := { withBay 0 reservedBay with nodes := ns, nextId := 50 }
/-- A copy node from one granule's start to another's, both bytes' lines at hand. -/
def copyNode : Node := { aNode .running 1 with words := [BitVec.ofNat 64 (2 ^ 60), 0, 0, 0, 0, 0, 0, 0, BitVec.ofNat 64 (2 ^ 63 + 0x10000), 4, 0, 0, 0, 0, 0, 0,
  BitVec.ofNat 64 (2 ^ 63 + 0x10100), 4] }
/-- The placed frame's bay with that copy under way. -/
def copyingNode (mapped : Bool) : State :=
  let s := warm (here (.nop z))
  { (if mapped then s else s.modBay 0 (fun y => { y with root := 0x200000 })) with nodes := [(40, copyNode)], nextId := 50 }

theorem witness_nodes :
    [0, 1].all (fun k => let s := withNodes [(3, aNode .ready k)]
      s.poolHead 0 == some (3, aNode .ready k) && (s.dispatching 0).isNone && s.placesNow 0 && (s.bay 0).saved.isEmpty && recKind (aNode .ready k).words == k && decide (0 < s.bays.length) &&
      decide (((s.bayNodes 0).filter (fun p => recKind p.2.words == 1 && (p.2.state == .running || p.2.state == .draining))).length < 8)) = true ∧
    (((withNodes [(3, aNode .ready 0)]).modBay 0 (fun y => { y with block := [1, 0, 16, 16 * 2 ^ 48 + 2 ^ 32, 2, 0, 0, 0] })).bay 0).age ≠ 0 ∧
    SMap.find (withNodes [(3, aNode .draining 0), (4, { aNode .waiting 0 with preds := [3] })]).nodes 3 = some (aNode .draining 0) ∧
    recWord (aNode .draining 0).words 4 = 0 := by decide +kernel
theorem witness_copy_node : recReads copyNode.words = [⟨false, 0x10000, 1, 4, 0⟩] ∧ recWrites copyNode.words = [⟨false, 0x10100, 1, 4, 0⟩] ∧
    [true, false].all (fun m =>
      let rd : Reader := { acceptReader 0 (queueLevel 0 .steward) with own := false, clm := 256 }
      match (copyingNode m).copyFrom rd ⟨false, 0x10000, 1, 4, 0⟩ ⟨false, 0x10100, 1, 4, 0⟩ 4 0 with
        | .done s' => m && (SMap.find s'.nodes 40 == some copyNode)
        | .stopped _ _ s' => !m && (SMap.find s'.nodes 40 == some copyNode)
        | _ => false) = true := by decide +kernel

/-- A descriptor of one rod of width 32, entering at word 9 with priority 5. -/
def aDesc : Descriptor :=
  { entry := 9, entryPri := 5, width := 32, span := false, rods := 1, vgran := 4, pane := 1, board := 2, codeBase := 0x10000,
    codeWords := 64, ftab := 0, ftlen := 0, ppt := 0, features := 0 }
/-- A grid of one frame being dispatched. -/
def dispatchingGrid : State := withNodes [(3, { aNode .dispatching 0 with desc := some aDesc })]
/-- The placed frame with a node, after its threads have exited. -/
def exitedFrame : State :=
  { withFrame (withUnit (here (.nop z)) (fun u => { u with frontier := [] })) (fun fr => { fr with node := 3 }) with nodes := [(3, { aNode .running 0 with live := 1 })] }
/-- Some image. -/
def anImage : Image := imageOf [] 7
theorem witness_frames :
    (let s := dispatchingGrid
     s.placesNow 0 && (s.bay 0).placing.isNone && (s.bay 0).saved.isEmpty && (s.dispatching 0).any (fun p => SMap.find s.nodes p.1 == some p.2 &&
       p.2.desc == some aDesc && (customImages p.2.bindings).isEmpty) &&
     (s.tries 0 false).head?.any (fun t => decide (s.allRoom 0 32 4 1 2 (sideRods false 1) t))) = true ∧
    -- the cores before are full
    (let s := { dispatchingGrid with frames := [(1, { placedFrame 9 0 0 0 64 1 1 0 with vgran := 256 })] }
     (match s.tries 0 false with
       | t :: t' :: _ => decide (¬ s.allRoom 0 32 4 1 2 (sideRods false 1) t) && decide (s.allRoom 0 32 4 1 2 (sideRods false 1) t')
       | _ => false)) = true ∧
    (SMap.find (withChip (fun c => { c with stripLoads := [(posKey 4 19, anImage)] })).chip.stripLoads (posKey 4 19)).isSome = true ∧
    (let s := exitedFrame
     match s.frame? 0 with
      | some fr => !fr.exited && fr.allExited && fr.arrivals.isEmpty && s.frameDrained 0 && s.paneFree 0 && (SMap.find s.nodes fr.node).isSome && !(s.bay fr.bay).saving
      | none => false) = true := by decide +kernel
/-- R107, R111, R140: the frame stands in core 0 with every thread at the entry word under the entry's priority. -/
theorem test_frame_place : (after (.framePlace 0) dispatchingGrid).map (fun t => t.frames.flatMap (fun p => p.2.units.flatMap (fun u => u.frontier.map
    (fun e => (e.pc, e.pri, e.lanes))))) = some [(9, 5, 0xFFFFFFFF)] := by decide +kernel
/-- R86, R153: the last frame of a dispatched grid drains its node. -/
theorem test_frame_exit : (after (.frameExit 0) exitedFrame).map (fun t => (t.frames.length, t.nodes.map (fun p => p.2.state == .draining))) = some (0, [true]) := by
  decide +kernel

/-- A point table of one entry for word 0 at VA 0x10100, in the placed frame. -/
def pointed : State :=
  let s := withFrame (here (.nop z)) (fun fr => { fr with ppt := 0x10100, haltReq := true })
  warm (s.pokeBytes 0x10100 [1])
/-- A save area of bay 0 over the granules from 16 MiB on. -/
def withArea (s : State) : State :=
  (s.modBay 0 (fun y => { y with ctl := { y.ctl with base := 0x1000000 } })).modChip
    (fun c => { c with owners := (List.range 128).map (fun i => (0x100 + i, (0xE000 : BitVec 16))) })
/-- A turn table of group 1 for bays 0 and 2. -/
def aGroup (t : Nat) : Group := { entries := [0x80000001, if t = 0 then 0x80000001 else 0x90000001, 0, 0, 0, 0, 0, 0], turn := 0, running := true }
/-- The header of an image without a body (R410): its magic and length, the features it needs, the digest of no bytes. -/
def emptyHeader (s : State) : List (BitVec 64) :=
  [0x000146534A48, 128, 0, (s.features 0).extractLsb' 0 64, (s.features 0).extractLsb' 64 64, 0, 0, 0] ++
    (List.range 4).map (fun i => (shake256 []).extractLsb' (64 * i) 64) ++ [0, 0, 0, 0]
/-- Such an image in the area's first region, published for a frame of one rod. -/
def resumable : State :=
  let s := withArea (withBay 0 reservedBay)
  let f : SavedFrame :=
    { addr := 0x1000080, header := emptyHeader s, frame := placedFrame 3 0 0 0 4 0 0 0x10000, frameNo := 8, made := true }
  let l : L2Line :=
    { slice := 0, set := 0, way := 1, data := BitVec.ofNat 1024 (ofBytes ((emptyHeader s).flatMap (fun w => toBytes 8 w.toNat))), poison := false,
      dirty := false, guest := none, key := 0, bay := 12, pins := [], decl := false, cls := .dead, clm := 0, stamp := 0, wts := 0, rts := 0 }
  { s.modBay 0 (fun y => { y with saved := [f] }) with cache := { s.cache with lines := [(0x20001, l)] } }
theorem witness_resume :
    (let s := resumable
     s.placesNow 0 && !s.chip.dom.mode && (match (s.bay 0).saved with
      | f :: _ => s.areaUsable 0 ((s.bay 0).region f.frame.regionCore) regionBytes && (customImages f.frame.bindings).isEmpty && f.made &&
        (match s.readImage 0 f.addr.toNat with
          | (img, _) => img.ok && recWord img.header 3 == (s.features 0).extractLsb' 0 64 && recWord img.header 4 == (s.features 0).extractLsb' 64 64 &&
            img.header == f.header && (s.bay 0).placing.isNone &&
            decide (s.allRoom 0 f.frame.width f.frame.vgran f.frame.pane f.frame.board (sideRods (f.frame.sides == 2) f.frame.rods) f.frame.bayCores))
      | [] => false)) = true := by decide +kernel
theorem witness_saves :
    (let s := pointed
     (s.standing 0 0).any (fun c => c.fid == 0 && c.ui == 0 && c.fr.haltReq && !c.u.halted && c.fr.term.isNone && c.u.late.isEmpty && c.u.haltWord == some 0 &&
       (match s.lookup c 0 with | .point _ s' => s'.frames == s.frames | _ => false))) = true ∧
    (let s := withFrame (here (.nop z)) (fun fr => { fr with haltReq := true })
     (s.frame? 0).any (fun fr => fr.haltReq && !fr.timedOut && !fr.exited && fr.term.isNone && !s.quiescent 0 fr)) = true ∧
    (let s := withArea (withUnit pointed (fun u => { u with halted := true }))
     (s.frame? 0).any (fun fr => fr.haltReq && !fr.exited && fr.term.isNone && s.quiescent 0 fr && !fr.allExited && decide (fr.bay < 12) && decide (fr.bay < s.bays.length) &&
       !s.chip.dom.mode && s.areaUsable fr.bay ((s.bay fr.bay).region fr.regionCore) regionBytes)) = true ∧
    (let s := { (withBay 0 (fun y => { reservedBay y with block := [1, 0, 16, 16 * 2 ^ 48, 2, 1, 0, 0] })) with groups := [aGroup 0] }
     (s.groups[1 - 1]?).any (fun x => x.running && x.nextEntry == some 1 && s.turnBay 1 { x with turn := 1 } == s.turnBay 1 x)) = true ∧
    (let s := { (withBay 0 (fun y => { reservedBay y with block := [1, 0, 16, 16 * 2 ^ 48, 2, 1, 0, 0] })) with groups := [aGroup 1] }
     (s.groups[1 - 1]?).any (fun x => x.running && x.nextEntry == some 1 && s.turnBay 1 x == some 0 && s.turnBay 1 { x with turn := 1 } != some 0 &&
       (s.bay 0).state == .reserved && decide (0 < s.bays.length))) = true := by decide +kernel

/-- A word whose fetch fails: it stands past the code's end. -/
def pastEnd : State := withFrame (withUnit (here (.nop z)) (fun u => { u with frontier := [{ pc := 0x8000, pri := 0, lanes := 1 }] })) (fun fr => { fr with codeWords := 0x8000 })
theorem witness_units :
    ((here (.nop z)).unit? 0 0).isSome = true ∧
    (let s := warm { here (.nop z) with cache := { Caches.blank with fetching := [(icKey 0 0x200, (0, 1))] } }
     SMap.find s.cache.fetching (icKey 0 0x200) == some (0, 1) && (s.l2? 0x200).any (fun l => !l.poison && l.way != transientWay) && (s.openLine 0x200 false).isNone) = true ∧
    (let s := withUnit (here (.nop z)) (fun u => { u with late := [{ cause := 0x3FD }] })
     (s.standing 0 0).any (fun c => c.fid == 0 && c.ui == 0 && mayIssue c && !c.u.late.isEmpty)) = true ∧
    (let s := pastEnd
     (s.standing 0 0).any (fun c => c.fid == 0 && c.ui == 0 && mayIssue c && c.u.late.isEmpty && (match s.select c with
       | .fault _ _ => true
       | _ => false))) = true := by decide +kernel

/-- A line of bay 0 with a claim of a class until a time. -/
def claimed (cls : LineClass) (due brc : Nat) : State :=
  { withBay 0 (fun y => { reservedBay y with brc := brc, epochDue := true }) with cache := { Caches.blank with lines := [(0x200,
    { slice := 0, set := 0, way := 1, data := 0, poison := false, dirty := true, guest := none, key := 1, bay := 0, pins := [], decl := true,
      cls := cls, clm := 0, stamp := due, wts := 0, rts := 0 })] } }
theorem witness_clocks :
    ((here (.nop z)).frame? 0).any (fun fr => !fr.exited && !(fr.units.all (·.stopped) && fr.units.any (·.halted))) = true ∧
    (let s := claimed .timed 7 7
     (s.bay 0).state == .reserved && s.clockRuns 0 && decide (0 < s.bays.length) && (s.bay 0).epochDue &&
     (s.l2? 0x200).any (fun l => l.cls == .timed && l.stamp == s.brcOf l.bay)) = true ∧
    (let s := claimed .due 7 80
     (s.l2? 0x200).any (fun l => l.cls == .due && decide (65 ≤ l.overdue (s.brcOf l.bay)))) = true := by decide +kernel
/-- R260: BRC wraps at 4096. -/
theorem test_brc : (after (.brcTick 0) (claimed .keep 0 4095)).map (fun t => ((t.bay 0).brc, (t.bay 0).epochDue)) = some (0, true) := by decide +kernel

theorem witness_lines :
    (let s := { queued false with cache := { (queued false).cache with lines := [], l1 := [] } }
     (s.refillFor 0x202).any (fun p => decide (0x202 < 2 ^ 43) && (s.l2? 0x202).isNone && (s.openLine 0x202 p.2.1.writes).isNone && !s.chip.dom.mode &&
       decide (s.lineRoom (s.lineBay 0x202) 0x202))) = true ∧
    (let s := queued true
     s.ops.any (fun p => (let o := { p.2 with order := 4, scope := 2 }
       o.ticket == none && !({ s with ops := [(p.1, o)] } : State).ticketBefore o.frame o.unit p.1))) = true ∧
    (let s := { warm (here (.nop z)) with holds := [(9, { core := 0, frame := 0, k := 0, rows := [], performed := true, waiting := [0x202], users := 0, released := false })] }
     (s.holds.find? (fun p => p.2.core == 0 && p.2.performed && !p.2.waiting.isEmpty)).any (fun p => p.2.waiting == [0x202] && (s.frame? p.2.frame).any (fun fr =>
       (s.deniedTo 0x202 fr.bay 0 false).isNone && (s.fetchOpen fr.bay p.2.k 0x202 0).isNone && p.2.rows.isEmpty && !p.2.released && (s.l2? 0x202).any (fun (l : L2Line) => l.way != transientWay)))) = true := by
  decide +kernel

/-- Bay 0 may be asked on channel 4; the granule of line 0x200 is its own, the line in its slice. -/
def served : State :=
  { claimed .dead 0 0 with chip := { Chip.blank with owners := [(1, 0x0001)] } }
theorem witness_other_packages :
    [false, true].all (fun own =>
      let s := served
      s.otherPkg 3 && isLocalLine 0x200 && (s.requestCause own 4 1 0x200).isNone && (s.requestCause own 4 2 0x200).isSome && !s.chip.dom.mode &&
      (SMap.find s.cache.txns 0x200).isNone && s.cache.held.isEmpty && s.sill 0x200 == mkSill 0 0 0 false && s.cache.homeTurn.isEmpty && s.ops.isEmpty &&
      (s.l2? 0x200).all (fun l => l.way != transientWay) && decide (s.lineRoom (s.lineBay 0x200) 0x200)) = true ∧
    (let s := { served with cache := { served.cache with txns := [(0x200, { kind := .rebuild, waits := [3, 4], dirty := none })] } }
     (SMap.find s.cache.txns 0x200).any (fun x => x.waits.contains 3 && !(x.waits.erase 3).isEmpty)) = true := by decide +kernel

/-- A guest line of package 3, line 0x200, under a permission; and an answer awaited for line 0x201 by an operation of the placed unit. -/
def guestLine (p : GuestPerm) : State :=
  let s := queued false
  let l : L2Line :=
    { slice := 0, set := 0, way := 1, data := 7, poison := false, dirty := false, guest := some p, key := 1, bay := 0, pins := [], decl := false,
      cls := .dead, clm := 0, stamp := 0, wts := 0, rts := 0 }
  { s with cache := { s.cache with lines := [(s.lineKey 3 0x200, l), (s.lineKey 3 0x201, l)], asks := [(s.lineKey 3 0x201, { own := false, op := (s.ops.map (·.1)).headD 0, piece := 0, bay := 0, key := 1 })] } }
theorem witness_guest_lines :
    [GuestPerm.s, .m].all (fun p => let s := (guestLine p).modBay 0 reservedBay
      s.otherPkg 3 && isLocalLine 0x200 && (s.bayOfChannel 4).isSome && ((s.l2? (s.lineKey 3 0x200)).any (fun l => l.guest == some p))) = true ∧
    (let s := guestLine .s
     (s.cache.asks.find? (fun p => p.2.op == (s.ops.map (·.1)).headD 0 && p.2.piece == 0)).any (fun p =>
       (s.l2? p.1).isSome && !s.chip.dom.mode && p.2.op != 0 && (SMap.find s.ops p.2.op).any (fun o => o.kind != .fetch && (s.unit? o.frame o.unit).isSome))) = true ∧
    (let s := { guestLine .s with cache := { (guestLine .s).cache with lines := [] } }
     (s.cache.asks.head?).any (fun p => (s.l2? p.1).isNone && decide (s.lineRoom p.2.bay p.1))) = true ∧
    State.reset.otherPkg 3 = true ∧ State.reset.cache.txns = [] ∧ State.reset.cache.asks = [] := by decide +kernel

theorem witness_control_registers :
    (base.modChip (fun c => { c with dom := { c.dom with busy := true } })).chip.dom.busy = true ∧ base.chip.dom.busy = false ∧ base.barOpen = true ∧
    (∃ y ∈ (withBay 0 reservedBay).bays.take 12, y.state ≠ .free) ∧ (∀ y ∈ base.bays.take 12, y.state = .free) ∧ (0 : BitVec 64).getLsbD 32 = false ∧
    base.cache.lines = [] ∧ base.chip.dom.mode = false ∧ ((withBay 0 reservedBay).bay 0).state = .reserved ∧ (base.bay 0).ctl.busy = false ∧
    (base.bay 0).state ≠ .reserved := by decide +kernel
/-- R404: a PTO of 9 is refused and nothing but it stays. -/
theorem test_pto : [9, 10].map (fun n => (after (.saveControlWrite 0 8 (n * 2 ^ 32)) base).map (fun t => ((t.bay 0).ctl.pto, (t.bay 0).ctl.err))) =
    [some (100, 1), some (10, 0)] := by decide +kernel

theorem witness_memory_errors : State.reset.inHbm (0x200 * 128) = true ∧ [true, false].all (fun d => let s := claimed .dead 0 0
    (({ s with cache := { s.cache with lines := s.cache.lines.map (fun p => (p.1, { p.2 with dirty := d })) } } : State).l2? 0x200).any
      (fun l => l.dirty == d && l.guest.isNone)) = true := by decide +kernel

/-! ## Witnesses of the statements about decoding, steps, traps and words that do not issue -/

theorem witness_round_trip : WellFormed (.lit 0 5) = true ∧ (encode (.lit 0 5)).isSome = true := by decide +kernel
theorem witness_invariant : State.Inv State.reset ∧ (match step State.reset with | .next _ => true | _ => false) = true := by
  constructor
  · unfold State.Inv; decide +kernel
  · decide +kernel
/-- A unit of a bay whose handler takes every class at word 4 of 16. -/
def handled : State := (here (.nop z)).modBay 0 (fun y => { y with thctl := 0x0000040900000010, tcls := 0x7FE, thbase := 0x40000 })
theorem witness_traps : (handled.frame? 0).any (fun fr => (fr.unit? 0).any (fun u => u.handler.isNone && fr.level == 0) && (handled.bay fr.bay).tcls.getLsbD 1 &&
    decide (((handled.bay fr.bay).thctl.extractLsb' 40 24).toNat < ((handled.bay fr.bay).thctl.extractLsb' 0 24).toNat)) = true ∧
    ((here (.nop z)).frame? 0).any (fun fr => (fr.unit? 0).any (fun u => u.handler.isNone) && !((here (.nop z)).bay fr.bay).tcls.getLsbD 1) = true := by decide +kernel
/-- R381, R384: TRAP 5 enters the handler at HENTRY under HPRI, its record naming the cause and the word; NXT 1. -/
theorem test_trap_handler : (unitAfter (.trap { z with imm := 5 }) handled).map (fun u =>
    (u.frontier.map (fun e => (e.pc, e.pri)), (u.rod 0).tcause.extractLsb' 0 10, (u.handler.map (·.tpc)).getD 0)) =
    some ([(4, 9)], 5, 0x100000000) := by decide +kernel

/-- A word checked in the placed unit, and what it needs not to issue. -/
def judged (s : State) (i : Instr) : Option (Form × SFields × IssueCtx) := (formOf i).bind (fun p => s.issuing.map (fun c => (p.1, p.2, c)))
/-- The check a word fails. -/
def failing (s : State) (i : Instr) : Option Nat := (judged s i).bind (fun q => (checkWord (s.checkCtx q.2.2) q.1 q.2.2.u.transom q.2.1).map (·.cause))
theorem witness_checks :
    failing (here (.nop z)) (.iadd { z with dc := .imm }) = some 0x004 ∧
    (judged (here (.nop z)) (.iadd { z with mod := 0x400 })).any (fun q => !q.1.ok4 q.2.2.level q.2.1) = true ∧
    (judged (here (.nop z)) (.fadd { z with mod := 5 })).any (fun q => q.1.ok4 q.2.2.level q.2.1 && q.1.rounds q.2.1) = true ∧
    (judged (here (.nop z)) (.tret z)).any (fun q => q.1.ok4 q.2.2.level q.2.1 && !q.1.rounds q.2.1 && q.1.ok6 (litOf q.2.2.u.transom).isSome q.2.1 &&
      (neededFeatures q.1 q.2.2.u.transom q.2.1).isEmpty && decide (q.2.2.level < q.1.level q.2.1)) = true ∧
    ctx (here (.nop z)) (fun c => (checkPair ((here (.nop z)).checkCtx c) c.u.transom ⟨.iadd, 0, 1, 2, 3, 0⟩ ⟨.xor, 0, 1, 5, 6, 0⟩).isSome) = true ∧
    ctx (withUnit (here (.nop z)) (fun u => { u with transom := some { pc := 0, kind := .lit, payload := 5 } })) (fun c => c.u.transom.isSome) = true ∧
    ((0 : BitVec 64).extractLsb' 41 7 &&& 0x45 = 0 ∧ (0 : BitVec 64).getLsbD 36 = false) := by decide +kernel
/-- A register that is empty, non-blocking or not, and a poisoned guard. -/
theorem witness_waits :
    (let i : Instr := .iadd { z with dst := 4, a := 2, b := 6, ae := true }
     let s := withUnit (here (.nop z)) (fun u => { u with vEmpty := [2] })
     failing s i == none && (judged s i).any (fun q => (q.1.regs q.2.1 ++ q.1.moreRegs 32 q.2.1).any (fun r => r.rd && r.nb && r.nums.any (fun n => q.2.2.u.isEmpty [0] r.cls n)))) = true ∧
    (let i : Instr := .iadd { z with dst := 4, a := 2, b := 6 }
     let s := withUnit (here (.nop z)) (fun u => { u with vEmpty := [2] })
     failing s i == none && (judged s i).any (fun q => (q.1.regs q.2.1).all (fun r => !(r.rd && r.nb && r.nums.any (fun n => q.2.2.u.isEmpty [0] r.cls n))) &&
       (q.1.regs q.2.1).any (fun r => r.nums.any (fun n => q.2.2.u.isEmpty [0] r.cls n)))) = true ∧
    (let i : Instr := .iadd { z with dst := 4, a := 2, b := 6, guard := 2 }
     let s := withUnit (here (.nop z)) (fun u => { u with pPoison := [128] })
     failing s i == none && (judged s i).any (fun q => (guardPoison q.2.2.fr.width q.2.2.u q.2.2.e (q.1.uniform q.2.1) 2).isSome &&
       !q.2.2.u.isEmpty [0] .prd 2 && (q.1.regs q.2.1).all (fun r => r.nums.all (fun n => !q.2.2.u.isEmpty [0] r.cls n)))) = true := by decide +kernel

/-! ## More witnesses: forms, refusals and late ends of the statements above -/

/-- The bring-up map is walked without a line of a table. -/
def mapped (s : State) : State := s.modBay 0 (fun y => { y with root := bringupRoot })
theorem witness_memory_words_no_walk : memRows.all (fun row => memShapes.any (fun f =>
    let s := mapped (scalar 2 0x100100000010100 (warm (here (row.word f))))
    ctx s (fun c =>
      let ls := s.walkLines c.fr.bay (wordPages (c.issue row.form f) row.elem row.index (row.bytes f) (row.width f) (row.lanes c f))
      decide (s.wordIssues c row.form f) && !s.memWaits c && ls.isEmpty && (s.openLines c.fr.bay ls).isNone &&
      (row.ready s c f).unit? c.fid c.ui == some c.u && (row.ready s c f).nextId == s.nextId && !(row.lanes c f).isEmpty &&
      (match row.accesses s c f with
        | .ok as => as.all (fun a => !a.pane)
        | _ => false)))) = true := by decide +kernel
/-- Loads, stores and atomics of the pane, one lane each. -/
theorem witness_pane_words : memRows.all (fun row => memShapes.any (fun f0 =>
    let f := { f0 with guard := 1, mod := f0.mod ||| 1 }
    let s := oneLane (here (row.word f))
    ctx s (fun c => @decide (row.mayEnter s c f) (by unfold MemRow.mayEnter; infer_instance) && !(row.lanes c f).isEmpty && f.space == 1 && decide (f.order ≤ 1) && s.ops.isEmpty &&
      c.u.observed.isEmpty && (match row.accesses s c f with
        | .ok as => decide (panePlaces as) && as.length == 1
        | _ => false) && decide (row.op f < 9)))) = true := by decide +kernel
/-- ATOM of lane 0 has entered the queue. -/
def queuedAtom : State :=
  let f : SFields := { z with guard := 1, dst := 4, ac := .scl, a := 2, b := 6, mod := 0 }
  { (after (.atom f) (withUnit (scalar 2 0x10100 (warm (here (.atom f)))) (fun u => { u with preds := [(1, 1)] }))).getD State.reset with now := 100 }
/-- R282: an atomic at its home, alone at its bits, whose value returns. -/
theorem witness_home_atomic : queuedAtom.ops.any (fun p =>
    let s := queuedAtom
    (s.l2? 0x202).any (fun l => (s.pieces p.2)[0]? == some (0x202 + 1) && p.2.writes && !(s.mineOf p.2 0x202).isEmpty && s.mayPerform p.1 p.2 &&
      (s.openLine 0x202 true).isNone && l.guest.isNone && l.way != transientWay && !s.homeWriteWaits l && sillSt (s.sill 0x202) != 1 &&
      !s.together p.2 && p.2.kind != .latch && p.2.producer.isSome && decide (p.2.linePlaces (s.mineOf p.2 0x202)))) = true := by decide +kernel
/-- R282: ADD of 0 returns the line's bits, and leaves them. -/
theorem test_home_atomic : ((firstOp queuedAtom).bind (fun p => (after (.homeWrite p.1 0) (marked queuedAtom)).bind (fun t =>
    (after (.longLatencyComplete p.1) t).bind (fun t => (t.unit? 0 0).map (fun u => (u.vec 4 0, (t.l2? 0x202).map (fun l => l.data.extractLsb' 0 8))))))) =
    some (0x81, some 0x81) := by decide +kernel
/-- A store with a second place in package 5, whose line is not at hand. -/
def queuedApart : State :=
  let s := queued true
  { s with ops := s.ops.map (fun p => (p.1, { p.2 with acc := p.2.acc ++ p.2.acc.map (fun a => { a with lane := 1, pkg := 5 }) })) }
theorem witness_home_together : queuedApart.ops.any (fun p =>
    let s := queuedApart
    (s.l2? 0x202).any (fun l => (s.pieces p.2)[0]? == some (0x202 + 1) && p.2.writes && !(s.mineOf p.2 0x202).isEmpty && s.mayPerform p.1 p.2 &&
      (s.openLine 0x202 true).isNone && l.guest.isNone && l.way != transientWay && s.together p.2 &&
      (s.pieces p.2).any (fun k => !s.writeReady p.2 (k - 1)))) = true := by decide +kernel
/-- A load whose producer fills a scalar: its rod has one access. -/
theorem witness_producer_scalar :
    (let f : SFields := { z with dc := .scl, dst := 4, ac := .scl, a := 2, bc := .scl, b := 6, mod := 0x10 }
     match after (.ld f) (scalar 2 0x10100 (warm (here (.ld f)))) with
      | none => false
      | some s1 => match firstOp s1 with
        | none => false
        | some p => match after (.homeRead p.1 0) (marked { s1 with now := 100 }) with
          | none => false
          | some s => match SMap.find s.producers p.1, SMap.find s.ops p.1, s.unit? 0 0 with
            | some q, some o, some u => q.ready && !q.faulted && s.producers.length == 1 && !o.unperformed && o.kind == .load &&
              o.dst == some (.scl, 4) && o.acc.length == 1 && o.acc.all (fun a => decide (rodOfLane 32 a.lane < u.rods.length) && !a.gotPoison) &&
              (after (.longLatencyComplete p.1) s).any (fun t => (t.unit? 0 0).any (fun v => (v.rod 0).scl 4 == 0x81))
            | _, _, _ => false) = true := by decide +kernel
/-- R350: a latch at which a thread has not yet observed refuses; the retry is refused the same way. -/
theorem witness_bar_refused :
    (let f : SFields := { waitFor 0 with bc := .vec }
     let s := latched (.bar f) (aLatch 1 0 0) 0
     atHand s formBar f && ctx s (fun c => c.u.waits.isEmpty && !c.u.halted) && (match (aLatch 1 0 0).update 1 0 with | .refused => true | _ => false) &&
     (match after (.bar f) s with
      | some t => (match t.waiting 0 0 with
        | some c => c.fr.term.isNone && !c.u.halted && !t.latchBusy c 0x100 && !c.fr.panePoisoned 0x100 16 && (match c.u.waits with
          | [w] => w.bar && w.q.isNone && w.latch == 0x100
          | _ => false)
        | none => false)
      | none => false)) = true := by decide +kernel
/-- R349: a wait that a read has found left. -/
theorem witness_lwait_left :
    (let s := withUnit (waiter false (aLatch 1 0 0)) (fun u => { u with waits := u.waits.map (fun w => { w with seen := .left 6 false }) })
     match s.waiting 0 0 with
      | some c => !c.u.halted && c.fr.term.isNone && !s.memBlocked 0 0 c.e.lanes && !s.latchBusy c 0x100 && !c.fr.panePoisoned 0x100 16 &&
        (c.fr.latchAt 0x100).ph == 5 && (latchOf 6).ph == 6 && (latchOf 6).rsv == 0 && (match s.delivery c [0] with | .clear => true | _ => false) &&
        (match c.u.waits with
          | [w] => !w.bar && w.q == some 5 && decide (w.rod < c.u.rods.length) && w.latch == 0x100
          | _ => false)
      | none => false) = true := by decide +kernel
/-- An operation of a kind at the head of core 0's queue, started, and the job it is. -/
def opOf (kind : MatKind) (job : Option Nat) (fr : Frame → Frame) : State :=
  let o : MatOp :=
    { frame := 0, unit := 0, rod := 0, core := 0, side := 0, tile := 3, kind := kind, k := 0, tsc := 0x7F7F, seed := 0, latch := none,
      job := job, pc := 0, started := true }
  let j : Job :=
    { frame := 0, unit := 0, rod := 0, core := 0, side := 0, kind := .matrix, k := 0, reads := [], writes := [], latch := none, seed := 0,
      pc := 0, started := false, finished := false }
  { withFrame (warm (here (.nop z))) fr with matq := [(60, o)], jobs := [(61, j)] }
/-- 32 rows of the pane from byte 0 on. -/
def paneRows : List (List RowRun) := (List.range 32).map (fun r => [{ va := 0, line := 0, key := 0, off := 128 * r, n := 128 }])
def aldOp : State := opOf (.ald true paneRows) (some 61) (fun fr => { fr with paneMem := [(132, 7)] })
/-- 32 rows of line 0x202, of which all bytes but the last 128 are read; a refusal of the line. -/
def lineRows : List (List RowRun) := List.replicate 32 [{ va := 0x10100, line := 0x202, key := 1, off := 0, n := 128 }]
def aldLines (n : Nat) : State :=
  let s := opOf (.ald false lineRows) (some 61) (fun fr => fr)
  { s with matq := s.matq.map (fun p => (p.1, { p.2 with data := List.replicate n (9, false) })) }
def aDrain : DrainCtl := { pane := true, rows := paneRows, fd := .fp32, rm := 0, sat := false, int := false, add := false, scale := 0, capture := none }
def aHold : FetchHold := { core := 0, frame := 0, k := 0, rows := lineRows, performed := false, waiting := [], users := 0, released := false }
theorem witness_matrix_rows :
    headIs aldOp (fun _ _ fr => paneRows.length == 32 && paneRows.zipIdx.all (fun q => match q.1 with
      | [r] => r.n == 128 && r.off == 128 * q.2 && r.off % 16 == 0
      | _ => false) && !memb 33 fr.panePoison) = true ∧
    headIs (aldLines 4096) (fun _ o _ => decide ((aldLines 4096).rowsRead o) && o.data.length == 4096) = true ∧
    headIs (aldLines 3968) (fun _ o fr => let s := aldLines 3968
      (match runsLeft lineRows.flatten o.data.length with
        | [q] => (s.rowsDenied fr.bay false [[q]]).isNone && (s.linesOpen fr.bay o.k false [(q.line, q.key)]).isNone && q.n == 128
        | _ => false)) = true ∧
    headIs (aldLines 0) (fun _ o fr => let s := { aldLines 0 with cache := { (aldLines 0).cache with denied := [{ line := 0x202, bay := 0, key := 1, write := false, cause := 0x28B }] } }
      (match runsLeft lineRows.flatten o.data.length with
        | q :: _ => (s.rowsDenied fr.bay false [[q]]).map (·.1) == some 0x28B && (fr.unit? o.unit).isSome
        | [] => false)) = true ∧
    headIs (opOf (.drain aDrain) (some 61) (fun fr => fr)) (fun _ o _ => o.job == some 61) = true ∧
    (let s := { opOf (.tfetch 70) none (fun fr => fr) with holds := [(70, aHold)] }
     headIs s (fun _ o _ => o.job.isNone && SMap.find s.holds 70 == some aHold)) = true := by decide +kernel
/-- R318: element (1, 1) of the tile is the word at byte 132 of the pane. -/
theorem test_ald : (paneRows[1]?).map (fun row => (elemsOf 32 (aldOp.rowBytes 0 true row) 2)) = some [(0, false), (7, false)] := by decide +kernel

/-- A block of FP32 elements at the start of the pane. -/
def aBlock : BlockRef := { pane := some 0, hold := none, scl := none, koff := false }
theorem decoded_denominator (c : Bool) (p q : Prop) [Decidable p] [Decidable q] (a neg : Bool) (k l n d : Nat) (u v e : Int)
    (h : (if c = true then XVal.nan else if p then .inf a else if q then .fin a k 1 u else .fin a l 1 v) = .fin neg n d e) : 0 < d := by
  cases c
  · simp only [Bool.false_eq_true, if_false] at h
    by_cases hp : p
    · rw [if_pos hp] at h; cases h
    · rw [if_neg hp] at h
      by_cases hq : q
      · rw [if_pos hq] at h; cases h; exact Nat.one_pos
      · rw [if_neg hq] at h; cases h; exact Nat.one_pos
  · cases h
theorem fp32_proper : Binding.fp32.proper := fun _ _ _ _ _ h => decoded_denominator _ _ _ _ _ _ _ _ _ _ _ _ h
/-- The float MMA of 1.5 and −2 with themselves, and SUMS on both paths. -/
def mmaFloat : State := opOf (.mma aBlock aBlock .fp32 .fp32 true) (some 61) (fun fr => { fr with paneMem := [(2, 0xC0), (3, 0x3F), (67, 0xC0)] })
theorem witness_float_products : headIs mmaFloat (fun _ o _ => decide (mmaFloat.rowsRead o) && !intPath .fp32 .fp32 && decide (o.tile < 64)) = true ∧
    [false, true].all (fun col => [Binding.fp32, .int32].all (fun fa =>
      let s := opOf (.sums col aBlock fa 3 false) (some 61) (fun fr => fr)
      headIs s (fun _ o _ => decide (s.rowsRead o) && decide (o.tile < 64) && aBlock.scl.isNone && (intPath fa fa == (fa == .int32))))) = true := by
  decide +kernel
/-- R183, R184: 1.5 · 1.5, 1.5 · −2 and −2 · −2, each one product beside zeros. -/
theorem test_mma_float :
    (let rows := mmaFloat.blockRows 0 aBlock []
     let row (i : Nat) : List XVal := (rowVals .fp32 ((rows[i]?).getD ([], [])).1 [] false (e8m0 127) 16).1
     [(cell false 0 (row 0) (row 0)).1, (cell false 0 (row 0) (row 1)).1, (cell false 0 (row 1) (row 1)).1]) =
    [0x40100000, 0xC0400000, 0x40800000] := by decide +kernel
/-- R184's table: 2^40, −2^40, 1 and 2^−60 sum to 1.0 with WL. -/
theorem test_row_sum : rowSum 0 [.fin false 1 1 40, .fin true 1 1 40, .fin false 1 1 0, .fin false 1 1 (-60)] = (0x3F800000, fWL) := by decide +kernel

/-- A pane window of 4 bytes, or of another length, at some address. -/
def win (base len : Nat) : Window := { pane := true, base := base, rows := 1, len := len, stride := 0 }
/-- A started job of a kind between windows of the pane; two indices stand at 0x3000, 1 and `second`; data at 0x1000. -/
def jobOf (kind : JobKind) (reads writes : List Window) (second : Byte) : State :=
  let j : Job :=
    { frame := 0, unit := 0, rod := 0, core := 0, side := 0, kind := kind, k := 0, reads := reads, writes := writes, latch := none, seed := 0,
      pc := 7, started := true, finished := false }
  { withFrame (here (.nop z)) (fun fr => { fr with paneMem := ([(0x1000, 0x11), (0x1001, 0x22), (0x1002, 0x33), (0x1003, 0x44), (0x3000, 1), (0x3004, second)] : SMap Byte).filter (fun p => p.2 != 0) })
    with jobs := [(61, j)] }
def gathering (second : Byte) : State := jobOf (.gather 0) [win 0x3000 8, win 0x1000 4] [win 0x2000 2] second
def scattering (second : Byte) : State := jobOf (.scatter 0) [win 0x1000 2, win 0x3000 8] [win 0x2000 4] second
def converting : State := jobOf (.copyConvert .fp32 .int32 1 true 0) [win 0x1000 4] [win 0x2000 4] 0
/-- The job of a state, which begins, with its frame. -/
def jobBegins (s : State) (p : Job → Frame → Bool) : Bool := jobIs s (fun _ j => decide j.begins && (s.frame? j.frame).any (p j))
/-- The windows of a job as its statement wants them. -/
def windowsFit (j : Job) (fr : Frame) : Bool :=
  j.reads.all (fun r => decide (fr.readsClean j.side r)) && j.writes.all (fun w => decide (w.writesApart j.side j.reads))
theorem witness_moves :
    [(0, 2), (9, 1)].all (fun q => jobBegins (gathering (BitVec.ofNat 8 q.1)) (fun j fr => windowsFit j fr &&
      fr.windowElem 0 (win 0x3000 8) 32 0 == 1 && fr.windowElem 0 (win 0x3000 8) 32 1 == q.1 && decide (q.1 < 4 ∨ q.2 = 1) && (fr.unit? j.unit).any (fun u =>
        (u.rod 0).jobFault.isNone && decide (0 < u.rods.length)))) = true ∧
    [(1, 2), (9, 1)].all (fun q => jobBegins (scattering (BitVec.ofNat 8 q.1)) (fun j fr => windowsFit j fr &&
      fr.windowElem 0 (win 0x3000 8) 32 0 == 1 && fr.windowElem 0 (win 0x3000 8) 32 1 == q.1)) = true ∧
    jobBegins converting (fun j fr => windowsFit j fr && Binding.fp32.width == 32 && Binding.int32.width == 32) = true := by decide +kernel
/-- The pane's bytes from 0x2000 on after the job, and its fault. -/
def moved (s : State) : Option (List Byte × Option (Nat × BitVec 64)) := (after (.jobComplete 61) s).bind (fun t => (t.frame? 0).map (fun fr =>
  ((List.range 4).map (fun i => SMap.get 0 fr.paneMem (0x2000 + i)), ((fr.unit? 0).bind (fun u => (u.rod 0).jobFault)).map (fun f => (f.inner, f.value)))))
/-- R335, R338: elements 1 and 0 gathered; element 1 alone, before an index beyond the table. -/
theorem test_gather : moved (gathering 0) = some ([0x22, 0x11, 0, 0], none) ∧ moved (gathering 9) = some ([0x22, 0, 0, 0], some (0x386, 1)) := by decide +kernel
/-- R335: the later of two elements for one place stands. -/
theorem test_scatter : moved (scattering 1) = some ([0, 0x22, 0, 0], none) ∧ moved (scattering 3) = some ([0, 0x11, 0, 0x22], none) := by decide +kernel
/-- R334, R63: the FP32 value 0x44332211, 716.53…, is 717 as an integer under round to nearest. -/
theorem test_convert : (moved (jobOf (.copyConvert .fp32 .int32 0 true 0) [win 0x1000 4] [win 0x2000 4] 0)).map (·.1) = some [0xCD, 2, 0, 0] := by
  decide +kernel
/-- R393: IMGSUB, PREEMPT and MOVP reading with no logical rod, behind an unperformed store, and beside an image being loaded for their bay. -/
theorem witness_system_words_more :
    (let d : SFields := { z with dc := .scl, dst := 4 }
     let a : SFields := { d with ac := .scl, a := 2 }
     let b : SFields := { a with bc := .scl, b := 3, imm := 0x100000 }
     [(Instr.imgsub, formSelAB, b), (Instr.preempt, formStewFlag, a), (Instr.movpRead, formMovpRead, d)].all (fun q =>
      [0, 1].all (fun g =>
        let f : SFields := { q.2.2 with guard := g }
        let s := { operands 0 16 (q.1 f) with ops := (queued true).ops.map (fun p => (1, p.2)) }
        ctx s (fun c => let x := c.issue q.2.1 f
          decide (s.wordIssues c q.2.1 f) && (if g == 1 then x.rods.isEmpty else x.rods == [0] && !s.allDone c 2))))) = true ∧
    (let f : SFields := { z with dc := .scl, dst := 4, ac := .scl, a := 2, bc := .scl, b := 3, imm := 0x100000 }
     let s := { operands 0 16 (.imgsub f) with loads := [(9, { bay := 0, bytes := [], poison := false, producer := 9 })] }
     ctx s (fun c => let x := c.issue formSelAB f
      decide (s.wordIssues c formSelAB f) && (poisonedRod formSelAB x).isNone && x.rods == [0] && (namedBay c x).any (s.wordsPending false))) = true ∧
    (let f : SFields := { z with dc := .scl, dst := 4, ac := .scl, a := 2 }
     let s := { operands 0 0 (.preempt f) with loads := [(9, { bay := 0, bytes := [], poison := false, producer := 9 })] }
     ctx s (fun c => let x := c.issue formStewFlag f
      decide (s.wordIssues c formStewFlag f) && (poisonedRod formStewFlag x).isNone && x.rods == [0] && s.wordsPending false (x.opA 0))) = true := by
  decide +kernel

/-- The bay of the bound function 3, with one host queue; the part in recovery; the staging area as the steward leaves it. -/
def boundBay : State := ((withBay 0 reservedBay).modBay 0 (fun y => { y with block := [1, 0, 16, 16 * 2 ^ 48 + 2 ^ 20 + 2 ^ 10, 2, 0, 0, 0] })).modChip
  (fun c => { c with vfbind := [(3, 0)] })
def recovering : State := base.modChip (fun c => { c with boot := { c.boot with recov := true, stage := 0xF0, ready := false } })
def staging (owned : Bool) : State :=
  let s := staged base
  if owned then s.modChip (fun c => { c with owners := (List.range 1024).map (fun i => (0x17FFC00 + i, (0xE000 : BitVec 16))) }) else s
theorem witness_more_registers :
    boundBay.bound 3 = true ∧
    (SMap.find boundBay.chip.vfbind 3 == some 0 && decide (0 < boundBay.bays.length) && boundBay.queueLives 0 1 &&
      ((boundBay.bay 0).queue? (queueOf 1)).isSome) = true ∧
    (recovering.barOpen && recovering.chip.boot.recov && [2, 3, 4, 5, 6].all (fun n => (bar2Size n).isSome)) = true ∧
    [false, true].all (fun owned => let s := staging owned
      s.barOpen && !s.chip.boot.recov && (s.stagingOpen .write 0x1000 == owned) && (s.l2? ((0x17FFC000000 + 0x1000) / 128)).any (fun l =>
        l.way != transientWay && l.guest.isNone && sillSt (s.sill ((0x17FFC000000 + 0x1000) / 128)) != 1)) = true ∧
    base.barOpen = true ∧ SMap.get 0 base.chip.vfBay 3 < 16 ∧ (∀ b, SMap.find base.chip.vfbind 3 = some b → (base.bay b).hostq ≤ 1) := by
  refine ⟨by decide +kernel, by decide +kernel, by decide +kernel, by decide +kernel, by decide +kernel, by decide +kernel, ?_⟩
  intro b h
  have hn : SMap.find base.chip.vfbind 3 = none := by decide +kernel
  rw [hn] at h; cases h
/-- A record taken from the steward queue of bay 0, with or without a verdict. -/
def takenRecord (kind : Nat) (v : Option Verdict) : TakenRecord :=
  { place := 0, words := [BitVec.ofNat 64 (kind * 2 ^ 60), 0, if kind = 0 then 0x1000100010000 else 0], launcher := none, verdict := v }
def takes (r : TakenRecord) : State := (posted 2).modBay 0 (fun y => { y with taken := some r })
/-- A descriptor of one rod at VA 0x10100 of the placed frame's bay, which is RESERVED; its code lies at 0x10000. -/
def describedGrid : State := (warm ((here (.nop z)).pokeBytes 0x10100 ((toBytes 8 0x10004 ++ toBytes 8 0x10002 ++ toBytes 8 0x10000 ++
  toBytes 16 0 ++ toBytes 8 64 ++ toBytes 80 0)))).modBay 0 (fun y => { y with state := .reserved, running := true })
theorem witness_judging :
    -- the next record of the queue, before it is read
    (let s := posted 2
     (s.bay 0).taken.isNone && (s.bay 0).nextPlace 0 == some 0 && (s.recordAt 0 0).2.isNone && ((s.bay 0).queue? (rotationQueue 0)).isSome) = true ∧
    -- refused by R80, no grid, a grid whose descriptor is misaligned, refused or passed
    [(3, some 0x3D8), (2, none), (0, none)].all (fun q => let r := takenRecord q.1 none
      ((takes r).bay 0).taken == some r && recordCause r.words == q.2 && recKind r.words == q.1 && (((takes r).bay 0).state == .reserved)) = true ∧
    (let r := { takenRecord 0 none with words := [0, 8, 0x1000100010000] }
     recordCause r.words == none && (recWord r.words 1).toNat % 128 != 0) = true ∧
    (let r := takenRecord 0 none
     match (takes r).judgeDescriptor 0 (queueLevel 0 (rotationQueue 0)) (recWord r.words 1) with
      | .refuse _ s' => (s'.bay 0).taken.map (fun x => (x.place, x.words, x.launcher)) == some (r.place, r.words, r.launcher) &&
        (s'.bay 0).state == .reserved && decide (0 < s'.bays.length)
      | _ => false) = true ∧
    (let r := { takenRecord 0 none with words := [0, 0x10100, 0x1000100010000] }
     match (describedGrid.modBay 0 (fun y => { y with taken := some r })).judgeDescriptor 0 (queueLevel 0 (rotationQueue 0)) (recWord r.words 1) with
      | .ok (d, _) s' => d.rods == 1 && d.board == 2 && (s'.bay 0).taken.map (fun x => (x.place, x.words, x.launcher)) == some (r.place, r.words, r.launcher) &&
        (s'.bay 0).state == .reserved && decide (0 < s'.bays.length)
      | _ => false) = true := by decide +kernel
/-- A record that has passed, with room and without; refused by R80, and by its descriptor. -/
theorem witness_judged :
    [true, false].all (fun room =>
      let r := takenRecord 2 (some (.passes none []))
      let s := if room then takes r else { takes r with nodes := (List.range 16).map (fun i => (i, aNode .running 1)) }
      (s.bay 0).taken == some r && (s.bay 0).state == .reserved && s.roomForNode 0 (s.predsOf 0 (rotationQueue 0) none r.words).length == room) = true ∧
    [0x3D8, 0x3D1].all (fun k =>
      let r := takenRecord 0 (some (.refused k))
      let s := takes r
      (s.bay 0).taken == some r && decide (0 < s.bays.length) && (k == 0x3D8 || (match s.completion 0 (queueLevel 0 (rotationQueue 0)) r.words (some k) with
        | (s1, ok) => ok && decide (0 < s1.bays.length) && ((s1.bay 0).queue? (rotationQueue 0)).isSome))) = true := by decide +kernel
/-- R80: a refused record is noted and its queue goes on. -/
theorem test_refused_record : (after (.nodeAccept 0 false) (takes (takenRecord 0 (some (.refused 0x3D8))))).map (fun t =>
    ((t.bay 0).steward.head, (t.bay 0).steward.statCause, (t.bay 0).taken.isNone, t.nodes.length)) = some (1, 0x3D8, true, 0) := by decide +kernel
/-- R87: a grid whose frames are being placed stands at the head of the pool. -/
theorem witness_pool_held : ((withNodes [(3, aNode .dispatching 0), (4, aNode .ready 1)]).poolHead 0).map (·.1) = some 3 := by decide +kernel
/-- The copy's one run: both pages and both lines at hand. -/
theorem witness_copy_run :
    (let s := copyingNode true
     let rd : Reader := { acceptReader 0 (queueLevel 0 .steward) with own := false, clm := 256 }
     let r : Window := ⟨false, 0x10000, 1, 4, 0⟩
     let w : Window := ⟨false, 0x10100, 1, 4, 0⟩
     copyNode.copied == 0 && copyRun r w 0 == r.bytes && (match s.places rd .read (lineRuns (r.at 0) 4), s.places rd .write (lineRuns (w.at 0) 4) with
      | .ok [p], .ok [q] => (match s.l2? p.line, s.l2? q.line with
        | some l, some m => let pages := w.at 0 :: rangePages (r.at 0) 4
          (s.openLines 0 (s.walkLines 0 [w.at 0])).isNone && (s.openLines 0 (s.walkLines 0 (rangePages (r.at 0) 4))).isNone &&
          (s.walkLines 0 pages).all (fun n => (s.l2? n).any (fun x => x.way != transientWay)) && rd.who.bay == 0 &&
          (s.linesOpen 0 rd.k false [(p.line, p.key)]).isNone && (s.linesOpen 0 rd.k true [(q.line, q.key)]).isNone &&
          l.way != transientWay && !l.poison && decide (p.off + 4 ≤ 128) && m.way != transientWay && decide (q.off + 4 ≤ 128)
        | _, _ => false)
      | _, _ => false)) = true := by decide +kernel
/-- A frame that was terminated, with nothing of its left; one whose memory word is not done yet. -/
theorem witness_frame_ends :
    (let s := withFrame exitedFrame (fun fr => { fr with term := some 0x3F0 })
     (s.frame? 0).any (fun fr => !fr.exited && fr.term == some 0x3F0 && s.ops.isEmpty && s.matq.isEmpty && s.producers.isEmpty && s.jobs.isEmpty &&
       s.loads.isEmpty && (SMap.find s.nodes fr.node).isSome && !(s.bay fr.bay).saving)) = true ∧
    (let s : State := { exitedFrame with ops := (queued true).ops }
     (s.frame? 0).any (fun fr => !fr.exited && fr.allExited && fr.arrivals.isEmpty && fr.term.isNone && !fr.haltReq && s.paneFree 0 && !s.frameDrained 0 &&
       !(s.bay fr.bay).saving)) = true ∧
    (let s := exitedFrame
     (s.frame? 0).any (fun fr => !fr.haltReq)) = true := by decide +kernel
/-- R267: what a publication writes, and what a resume reads, enters its slices. -/
theorem witness_area_enters :
    (let s := withArea (withUnit pointed (fun u => { u with halted := true }))
     (s.frame? 0).any (fun fr => s.imageEnters fr)) = true ∧
    (let s := resumable
     match (s.bay 0).saved with
      | f :: _ => s.areaEnters ((s.bay 0).region f.frame.regionCore) (128 + (s.bay 0).regionUsed f.frame.regionCore)
      | [] => false) = true := by decide +kernel
/-- R284: an SC FENCE whose turn has come; R367: a write-back that meets an open transaction. -/
theorem witness_late_turns :
    (let s : State := { here (.nop z) with fences := [(5, { frame := 0, unit := 0, lanes := BitVec.allOnes 64, order := 4, scope := 3, ticket := none, word := 5 })] }
     (SMap.find s.ops 5).isNone && !s.ticketBefore 0 0 5 && s.fences.all (fun p => s.earlierDone p.2.frame p.2.unit p.1 p.2.scope p.2.lanes)) = true ∧
    (let s : State := { served with cache := { served.cache with txns := [(0x200, { kind := .rebuild, waits := [3, 4], dirty := none })] } }
     s.otherPkg 3 && isLocalLine 0x200 && (SMap.find s.cache.txns 0x200).isSome) = true := by decide +kernel
/-- R362: an answer for a bay where another's copy stands; R382: a failure for a store that has begun, and for one that has not. -/
theorem witness_answers :
    (let s : State := { guestLine .s with cache := { (guestLine .s).cache with asks := (guestLine .s).cache.asks.map (fun p => (p.1, { p.2 with bay := 2 })) } }
     (s.cache.asks.head?).any (fun p => (s.l2? p.1).any (fun g => g.bay != p.2.bay) && ((s.evict p.1).l2? p.1).isNone &&
       decide ((s.evict p.1).lineRoom p.2.bay p.1))) = true ∧
    [false, true].all (fun b =>
      let s0 := queued true
      let s : State := { s0 with ops := s0.ops.map (fun p => (p.1, { p.2 with acc := p.2.acc.map (fun a => { a with done := b }) })) }
      s.ops.any (fun p => (s.begun p.1 p.2 == b) && p.1 != 0 && p.2.kind != .fetch && (s.unit? p.2.frame p.2.unit).isSome)) = true := by decide +kernel
/-- R285: every hint bit of a FENCE is zero. -/
theorem test_fence_hints : [0x20, 0x10].map (fun h => failing (here (.nop z)) (.fence { z with imm := 0x20000, hints := h })) = [some 0x003, some 0x003] := by
  decide +kernel
/-- R156: a fetch beyond the last word, behind a transom there, is reported where no word is, NXT 1. -/
theorem test_trap_beyond : (withUnit handled (fun u => { u with transom := some { pc := 63, kind := .lit, payload := 5 } }) |>.takeTrap 0 0
    { pc := 64, pri := 0, lanes := 1 } { cause := 0x080 } |>.unit? 0 0).map (fun u => (u.handler.map (·.tpc)).getD 0) = some 0x100000040 := by
  decide +kernel

end Sys2Proof.Tests
end

section
/-! PROOFS. What a step does with the turn it takes, and what an issue opportunity selects (R11, R143, R144). -/

namespace Sys2Proof.Machine

/-! ## The turn that a step takes -/

/-- The turn at the head of the agenda is the one carried out, in the state at the next clock (R11). -/
theorem step_of_agenda {s : State} {t : Turn} {ts : List Turn} (halt : s.chip.boot.halt = false) (ag : s.agenda = t :: ts) :
    step s = runTurn t { s with now := s.now + 1, cur := none, agenda := ts } := by
  simp [step, halt, ag]

/-- With an empty agenda it is the next turn of the round (R11). -/
theorem step_of_round {s : State} {t : Turn} (halt : s.chip.boot.halt = false) (ag : s.agenda = [])
    (next : State.nextTurn { s with now := s.now + 1, cur := none } = some t) :
    step s = runTurn t { s with now := s.now + 1, cur := none, round := s.round + 1 } := by
  rw [ag] at next
  simp [step, halt, ag, next]

/-- An event that no word stands for is its own meaning. -/
theorem runTurn_event {i : Instr} (event : encode i = none) (s : State) : runTurn (.event i) s = exec i s := by
  simp [runTurn, event]

/-- A turn in which a word issues is the meaning of that word. -/
theorem runTurn_issues {s s' : State} {fid ui : Nat} {i : Instr} (turn : s.turnOf fid ui = .issues i s') :
    runTurn (.issue fid ui) s = exec i s' := by
  simp [runTurn, turn]

/-! ## What stands in the way of a word -/

theorem takeLate_of_none_late {c : IssueCtx} (late : c.u.late = []) (s : State) : s.takeLate c = none := by
  simp [State.takeLate, late]

/-- A unit that nobody asks to halt, or that stands where it cannot halt, goes on in the state as it is (R406). -/
theorem tryHalt_goes {c : IssueCtx} (noHalt : c.fr.haltReq = false ∨ c.u.haltWord = none) (s : State) : s.tryHalt c = .goes s := by
  rcases noHalt with noReq | noWord
  · simp [State.tryHalt, noReq]
  · simp only [State.tryHalt, noWord, ite_self]

/-- The check of R132 passes at a unit that is not fresh, and where no transom stands before the entry. -/
theorem entryCheck_clear {s : State} {c : IssueCtx} (first : c.u.fresh = false ∨ s.before c c.e.pc = .clear) :
    s.entryCheck c = .clear := by
  rcases first with stale | clear
  · simp [State.entryCheck, stale]
  · simp only [State.entryCheck, clear, ite_self]

/-- The selected word issues, and its turn is noted, in a unit that may issue and has nothing in its way (R143, R144). -/
theorem turnOf_issues {s s' : State} {fid ui pc : Nat} {c : IssueCtx} {bs rest : List Byte} {i : Instr}
    (stands : s.standing fid ui = some c) (may : mayIssue c = true) (late : c.u.late = [])
    (noHalt : c.fr.haltReq = false ∨ c.u.haltWord = none) (first : c.u.fresh = false ∨ s.before c c.e.pc = .clear)
    (selected : s.select c = .word pc bs s') (decoded : decode bs = .ok (i, rest)) :
    s.turnOf fid ui = .issues i { s' with cur := some { frame := fid, unit := ui, pc := pc } } := by
  simp [State.turnOf, stands, may, takeLate_of_none_late late, tryHalt_goes noHalt, entryCheck_clear first, selected, decoded]

/-! ## The selection -/

/-- With nothing blocked, an entry judged first whose bytes are present is selected (R143). -/
theorem select_head {s : State} {c : IssueCtx} {bs : List Byte} (free : c.u.blocked = none) (hit : s.fetchAt c c.e.pc = .bytes bs) :
    s.select c = .word c.e.pc bs s := by
  simp [State.select, State.blockedWord, free, hit]

theorem firstHit_cons_of_bytes {s : State} {c : IssueCtx} {e : Entry} {es : List Entry} {bs : List Byte}
    (hit : s.fetchAt { c with e := e } e.pc = .bytes bs) : s.firstHit c (e :: es) = some (e.pc, bs) := by
  simp [State.firstHit, hit]

/-- The entry at a word heads the entries at that word: it is the only one there (R141). -/
theorem filter_pc_eq_cons {fr : List Entry} {e : Entry} (one : oneEntryPerWord fr) (mem : e ∈ fr) :
    ∃ es, fr.filter (fun x => x.pc == e.pc) = e :: es := by
  have here : e ∈ fr.filter (fun x => x.pc == e.pc) := by simp [mem]
  cases found : fr.filter (fun x => x.pc == e.pc) with
  | nil => simp [found] at here
  | cons x es =>
    have head : x ∈ fr.filter (fun x => x.pc == e.pc) := by simp [found]
    obtain ⟨memX, samePc⟩ := List.mem_filter.1 head
    exact ⟨es, by rw [only_entry one memX mem (by simpa using samePc)]⟩

/-- A word that was selected and could not issue stays selected where its bytes are present (R143, R160). -/
theorem select_blocked {s : State} {c : IssueCtx} {e : Entry} {bs : List Byte} (one : oneEntryPerWord c.u.frontier)
    (mem : e ∈ c.u.frontier) (blocked : c.u.blocked = some e.pc) (hit : s.fetchAt { c with e := e } e.pc = .bytes bs) :
    s.select c = .word e.pc bs s := by
  obtain ⟨es, atWord⟩ := filter_pc_eq_cons one mem
  have word : s.blockedWord c = some (e.pc, bs) := by
    simp only [State.blockedWord, blocked, atWord, firstHit_cons_of_bytes hit]
  simp [State.select, word]

/-! ## The obligation -/

/-- Settles O49: the step is the turn of the agenda or of the round, and a turn with nothing in its way issues the decoded word. -/
theorem aStepRunsTheDecodedWord : Obligations.a_step_runs_the_decoded_word := by
  refine ⟨?issue, fun _ _ _ => select_head, fun _ _ _ _ => select_blocked, ?event⟩
  case issue =>
    rintro s _ s1 s2 fid ui pc c bs rest i halt rfl turn stands may late noHalt first selected decoded
    have taken : step s = runTurn (.issue fid ui) s1 := by
      rcases turn with ⟨ts, ag, rfl⟩ | ⟨ag, next, rfl⟩
      · exact step_of_agenda halt ag
      · exact step_of_round halt ag next
    rw [taken, runTurn_issues (turnOf_issues stands may late noHalt first selected decoded)]
  case event =>
    intro s i ts halt ag event
    rw [step_of_agenda halt ag, runTurn_event event]

end Sys2Proof.Machine
end
section
/-! PROOFS. IMGSUB and the loader (R66, R67, R396, R399): what the word leaves for the loader, and the loader's verdicts in their order. -/

namespace Sys2Proof.Machine

/-! ## The bay of a "sel" word (R393) -/

theorem sel_eq_getLsbD (f : SFields) : f.sel = f.imm.getLsbD 20 := by
  simp only [SFields.sel, SFields.i, field, BitVec.getLsbD, Nat.testBit, Nat.one_and_eq_mod_two, Nat.reducePow]
  rcases Nat.mod_two_eq_zero_or_one (f.imm.toNat >>> 20) with bit | bit <;> rw [bit] <;> rfl

/-- IMGSUB takes no override, so the bay it acts on is the one its own fields name. -/
theorem sysBay_eq_namedBay {s : State} {c : IssueCtx} {f : SFields} (h : s.wordIssues c formSelAB f) :
    sysBay c f = namedBay c (c.issue formSelAB f) := by
  simp only [sysBay, namedBay, fields_kept h rfl rfl rfl rfl, sel_eq_getLsbD, SFields.selBay]
  by_cases steward : c.level = 2 <;> simp [steward]

/-- A bay whose earlier words are done holds no word back (R394). -/
theorem wordsPending_of_bayWordsDone {s : State} {resets : Bool} {b : Nat} (done : s.bayWordsDone resets b) :
    s.wordsPending resets b = false := by
  obtain ⟨noLoad, noPreempt⟩ := done
  have loads : s.loads.any (fun p => p.2.bay == b) = false := by simpa using noLoad
  cases resets with
  | true => simp [State.wordsPending, loads]
  | false => simp [State.wordsPending, loads, noPreempt rfl]

/-! ## What a system word does around its own effect -/

/-- The acquire of a system word moves clocks of the caches alone. -/
theorem sysSync_eq_modCache (s : State) (c : IssueCtx) : ∃ g, s.sysSync c = s.modCache g := by
  unfold State.sysSync State.syncCore State.raiseCt
  split
  · exact ⟨id, rfl⟩
  · exact ⟨_, rfl⟩

@[simp] theorem sysSync_mem (s : State) (c : IssueCtx) : (s.sysSync c).mem = s.mem := by
  obtain ⟨g, eq⟩ := sysSync_eq_modCache s c
  rw [eq]; rfl

@[simp] theorem sysSync_producers (s : State) (c : IssueCtx) : (s.sysSync c).producers = s.producers := by
  obtain ⟨g, eq⟩ := sysSync_eq_modCache s c
  rw [eq]; rfl

@[simp] theorem sysSync_loads (s : State) (c : IssueCtx) : (s.sysSync c).loads = s.loads := by
  obtain ⟨g, eq⟩ := sysSync_eq_modCache s c
  rw [eq]; rfl

@[simp] theorem unit?_sysSync (s : State) (c : IssueCtx) (k i : Nat) : (s.sysSync c).unit? k i = s.unit? k i := by
  obtain ⟨g, eq⟩ := sysSync_eq_modCache s c
  rw [eq]; rfl

/-- The unit that moves on, in whatever state its word has left. -/
theorem unit?_finish_of_unit? {s : State} {c : IssueCtx} {u : RodUnit} (h : s.unit? c.fid c.ui = some u) (g : RodUnit → RodUnit) :
    (s.finish c g).unit? c.fid c.ui = some (c.passed (g u)) := by
  simp only [State.finish, State.issued, unit?_count, unit?_modUnit_same, h, Option.map_some]
  rfl

/-- Moving on depends on where the lanes stand, and on nothing else of the unit. -/
theorem passed_frontier_congr {c : IssueCtx} {u v : RodUnit} (h : u.frontier = v.frontier) :
    (c.passed u).frontier = (v.advance c.e).frontier := by
  simp [IssueCtx.passed, RodUnit.used, RodUnit.advance, h]

theorem foldl_setRod_frontier (g : LRod → LRod) (rods : List Nat) (u : RodUnit) :
    (rods.foldl (fun v i => v.setRod i g) u).frontier = u.frontier := by
  induction rods generalizing u with
  | nil => rfl
  | cons i is ih => exact ih (u.setRod i g)

@[simp] theorem mark_frontier (u : RodUnit) (empty : Bool) (rods : List Nat) (cls : OpClass) (n : Nat) :
    (u.mark empty rods cls n).frontier = u.frontier := by
  cases cls with
  | vec => rfl
  | imm => rfl
  | scl =>
    simp only [RodUnit.mark]
    split
    · rfl
    · exact foldl_setRod_frontier _ rods u
  | prd =>
    simp only [RodUnit.mark]
    split <;> rfl

@[simp] theorem markAll_frontier (empty : Bool) (rods : List Nat) (ds : List (OpClass × Nat)) (u : RodUnit) :
    (u.markAll empty rods ds).frontier = u.frontier := by
  induction ds generalizing u with
  | nil => rfl
  | cons d ds ih => exact (ih (u.mark empty rods d.1 d.2)).trans (mark_frontier u empty rods d.1 d.2)

/-! ## What IMGSUB leaves for the loader (R399) -/

/-- The state in which a logical rod waits for the loader: a producer without a result holds sD empty, and the load names it. -/
def State.awaitLoad (s : State) (c : IssueCtx) (i dst : Nat) (l : ImageLoad) : State :=
  let s1 := s.produce c [i] [(.scl, dst)] { writes := [.scl i dst 0 false], flags := [] } false
  { s1 with nextId := s1.nextId + 1, loads := s1.loads.put s1.nextId { l with producer := s.nextId } }

section
variable (s : State) (c : IssueCtx) (i dst : Nat) (l : ImageLoad)

/-- Of the unit, sD of the logical rod becomes empty (R165). -/
theorem unit?_awaitLoad {u : RodUnit} (h : s.unit? c.fid c.ui = some u) :
    (s.awaitLoad c i dst l).unit? c.fid c.ui = some (u.markAll true [i] [(.scl, dst)]) := by
  show (s.modUnit c.fid c.ui (·.markAll true [i] [(.scl, dst)])).unit? c.fid c.ui = _
  rw [unit?_modUnit_same, h, Option.map_some]

/-- The state that IMGSUB leaves: the rod waits, the acquire is made, and the unit moves on. -/
def State.leaveToLoader : State := ((s.awaitLoad c i dst l).sysSync c).finish c (fun u => u)

theorem leaveToLoader_mem : (s.leaveToLoader c i dst l).mem = s.mem := sysSync_mem _ c

theorem unit?_leaveToLoader {u : RodUnit} (h : s.unit? c.fid c.ui = some u) :
    (s.leaveToLoader c i dst l).unit? c.fid c.ui = some (c.passed (u.markAll true [i] [(.scl, dst)])) :=
  unit?_finish_of_unit? ((unit?_sysSync _ c _ _).trans (unit?_awaitLoad s c i dst l h)) _

theorem find_leaveToLoader_producers :
    SMap.find (s.leaveToLoader c i dst l).producers s.nextId =
      some { frame := c.fid, unit := c.ui, rods := [i], dests := [(.scl, dst)],
             effect := { writes := [.scl i dst 0 false], flags := [] }, ready := false, faulted := false } :=
  (congrArg (SMap.find · s.nextId) (sysSync_producers _ c)).trans (find_put_same _ _ _)

/-- The load stands under the number behind its producer's. -/
theorem find_leaveToLoader_loads :
    SMap.find (s.leaveToLoader c i dst l).loads (s.nextId + 1) = some { l with producer := s.nextId } :=
  (congrArg (SMap.find · (s.nextId + 1)) (sysSync_loads _ c)).trans (find_put_same _ _ _)

end

/-- One logical rod of IMGSUB reads its bytes, where a bay is named and the length is within bounds. -/
theorem imgsub_read_one {s s1 : State} {c : IssueCtx} {x : Issue} {i b : Nat} {bs : List Byte} {poison : Bool}
    (long : imageMin ≤ x.opB i) (short : x.opB i ≤ imageMax)
    (reads : s.bulkRead (s.unitReader c true) (x.opA i) (x.opB i) = .value bs poison s1) :
    execImgsub.read c x (fun k => decide (imageMin ≤ x.opB k) && decide (x.opB k ≤ imageMax)) false b s [i] =
      .ok (s1, [(i, 0, some { bay := b, bytes := bs, poison := poison, producer := 0 })]) := by
  simp only [execImgsub.read, Bool.false_eq_true, if_false, long, short, decide_true, Bool.and_self, Bool.not_true, reads, Except.map]

/-- IMGSUB in one logical rod, with nothing in its way and a length within bounds: the image is read as the word issues, and sD waits
for the loader. -/
theorem exec_imgsub_reads {s s1 : State} {c : IssueCtx} {f : SFields} {i b : Nat} {bs : List Byte} {poison : Bool}
    (issues : s.wordIssues c formSelAB f) (one : (c.issue formSelAB f).rods = [i]) (done : s.allDone c 2 = true)
    (clean : poisonedRod formSelAB (c.issue formSelAB f) = none)
    (bay : namedBay c (c.issue formSelAB f) = some b) (inRange : b < 12) (bayDone : s.bayWordsDone false b)
    (long : imageMin ≤ (c.issue formSelAB f).opB i) (short : (c.issue formSelAB f).opB i ≤ imageMax)
    (reads : s.bulkRead (s.unitReader c true) ((c.issue formSelAB f).opA i) ((c.issue formSelAB f).opB i) = .value bs poison s1) :
    exec (.imgsub f) s = .next (s1.leaveToLoader c i f.dst.toNat { bay := b, bytes := bs, poison := poison, producer := 0 }) := by
  have free : s.wordsPending false b = false := wordsPending_of_bayWordsDone bayDone
  have named : decide (12 ≤ b) = false := by simpa using inRange
  show execImgsub f s = _
  rw [execImgsub, withWord_issues issues]
  simp only [one, List.isEmpty_cons, Bool.false_eq_true, if_false, done, Bool.not_true, clean, sysBay_eq_namedBay issues, bay,
    Option.any_some, free, named, Option.getD_some, imgsub_read_one long short reads]
  rfl

/-! ## The loader's verdicts (R66, R67, R399) -/

/-- What the signature of an image covers. -/
def signedPart (bs : List Byte) : List Byte := bs.take (bs.length - 3309)

/-- The enrolled key under which an image verifies, where there is one. -/
def Bay.verifyingKey (y : Bay) (bs : List Byte) : Option (BitVec 512 × BitVec 15616) :=
  y.keys.find? (fun k => Config.signatureVerifies k.2 (signedPart bs) (bs.drop (bs.length - 3309)))

/-- The image that submitted bytes become. -/
def submittedImage (bs : List Byte) : Image := imageOf bs (shake256 (signedPart bs))

/-- The store holds another image of the same 64-bit digest (R66). -/
abbrev Bay.clashes (y : Bay) (i : Image) : Prop := ∃ j ∈ y.images, j.digest.setWidth 64 = i.digest.setWidth 64 ∧ j.digest ≠ i.digest

/-- The attestation entry of an image is appended. -/
def State.attested (s : State) (b : Nat) (i : Image) (key : BitVec 512) : State :=
  s.modChip (fun c => { c with attest := c.attest ++ [{ bay := b, seq := BitVec.ofNat 32 c.attest.length, image := i.digest, key := key }] })

/-- An image enters a store, in the place of a withdrawn one that equals it. -/
def Bay.putImage (y : Bay) (i : Image) : Bay :=
  { y with store := y.store.filter (fun j => j.image != i) ++ [{ image := i, withdrawn := false }] }

/-- An image enters the store of a bay that does not hold it. -/
def State.holdImage (s : State) (b : Nat) (i : Image) : State :=
  if i ∈ (s.bay b).images then s else s.modBay b (fun y => y.putImage i)

/-- What the loader leaves of an image that it accepts. -/
def State.acceptImage (s : State) (b : Nat) (i : Image) (key : BitVec 512) : State := (s.attested b i key).holdImage b i

section
variable {s : State} {b : Nat} {bs : List Byte} {poison : Bool}

theorem loadImage_of_misshapen (bad : poison = true ∨ imageShapeOk bs = false) : s.loadImage b bs poison = (0x360, s) := by
  rw [State.loadImage, if_pos (by simpa using bad)]

theorem loadImage_of_no_key (good : ¬(poison = true ∨ imageShapeOk bs = false)) (noKey : (s.bay b).verifyingKey bs = none) :
    s.loadImage b bs poison = (0x361, s) := by
  unfold Bay.verifyingKey signedPart at noKey
  rw [State.loadImage, if_neg (by simpa using good)]
  simp only [noKey]

/-- Bytes that an enrolled key verifies are judged by the store, and then by the log. -/
theorem loadImage_of_key (good : ¬(poison = true ∨ imageShapeOk bs = false)) {key : BitVec 512 × BitVec 15616}
    (verified : (s.bay b).verifyingKey bs = some key) :
    s.loadImage b bs poison =
      if (s.bay b).clashes (submittedImage bs) then (0x362, s)
      else if submittedImage bs ∉ (s.bay b).images ∧ 16 ≤ (s.bay b).images.length then (0x363, s)
      else if 4096 ≤ s.chip.attest.length then (0x365, s)
      else (0, s.acceptImage b (submittedImage bs) key.1) := by
  have held : (s.bay b).images.any (· == submittedImage bs) = decide (submittedImage bs ∈ (s.bay b).images) := by
    rw [Bool.eq_iff_iff]
    simp
  have clash : (s.bay b).images.any (fun j => j.digest.setWidth 64 == (submittedImage bs).digest.setWidth 64 &&
      j.digest != (submittedImage bs).digest) = decide ((s.bay b).clashes (submittedImage bs)) := by
    rw [Bool.eq_iff_iff]
    simp [Bay.clashes]
  unfold Bay.verifyingKey signedPart at verified
  unfold submittedImage signedPart at held clash ⊢
  rw [State.loadImage, if_neg (by simpa using good)]
  simp only [verified, held, clash, decide_eq_true_eq, ← decide_not, Bool.and_eq_true]
  rfl

/-- A refused image leaves the state as it was; an accepted one is attested and held. -/
theorem loadImage_state (s : State) (b : Nat) (bs : List Byte) (poison : Bool) :
    (s.loadImage b bs poison).2 = s ∨ ∃ key, (s.loadImage b bs poison).2 = s.acceptImage b (submittedImage bs) key := by
  by_cases good : poison = true ∨ imageShapeOk bs = false
  · exact .inl (by rw [loadImage_of_misshapen good])
  · cases verified : (s.bay b).verifyingKey bs with
    | none => exact .inl (by rw [loadImage_of_no_key good verified])
    | some key =>
      rw [loadImage_of_key good verified]
      split
      · exact .inl rfl
      · split
        · exact .inl rfl
        · split
          · exact .inl rfl
          · exact .inr ⟨key.1, rfl⟩

end

/-! ## An accepted image -/

theorem bay_modBay_same {s : State} {b : Nat} (inBays : b < s.bays.length) (g : Bay → Bay) : (s.modBay b g).bay b = g (s.bay b) := by
  simp [State.bay, inBays]

theorem mem_images {y : Bay} {j : Image} : j ∈ y.images ↔ ∃ x ∈ y.store, x.withdrawn = false ∧ x.image = j := by
  simp [Bay.images, and_assoc]

theorem mem_images_putImage {y : Bay} {i j : Image} : j ∈ (y.putImage i).images ↔ j = i ∨ j ∈ y.images := by
  simp only [mem_images, Bay.putImage, List.mem_append, List.mem_filter, List.mem_singleton, bne_iff_ne]
  constructor
  · rintro ⟨x, ⟨stored, _⟩ | rfl, stands, rfl⟩
    · exact .inr ⟨x, stored, stands, rfl⟩
    · exact .inl rfl
  · intro h
    by_cases eq : j = i
    · exact ⟨_, .inr rfl, rfl, eq.symm⟩
    · obtain ⟨x, stored, stands, rfl⟩ := h.resolve_left eq
      exact ⟨x, .inl ⟨stored, eq⟩, stands, rfl⟩

theorem mem_images_holdImage {s : State} {b : Nat} {i j : Image} (inBays : b < s.bays.length) :
    j ∈ ((s.holdImage b i).bay b).images ↔ j = i ∨ j ∈ (s.bay b).images := by
  by_cases held : i ∈ (s.bay b).images
  · rw [State.holdImage, if_pos held]
    exact ⟨.inr, fun h => h.elim (fun eq => eq ▸ held) id⟩
  · rw [State.holdImage, if_neg held, bay_modBay_same inBays, mem_images_putImage]

section
variable (s : State) (b : Nat) (i : Image) (key : BitVec 512)

theorem acceptImage_attest :
    (s.acceptImage b i key).chip.attest =
      s.chip.attest ++ [{ bay := b, seq := BitVec.ofNat 32 s.chip.attest.length, image := i.digest, key := key }] := by
  unfold State.acceptImage State.holdImage
  split <;> rfl

/-- Neither memory nor frames nor producers are touched. -/
theorem acceptImage_keeps :
    (s.acceptImage b i key).mem = s.mem ∧ (s.acceptImage b i key).frames = s.frames ∧ (s.acceptImage b i key).producers = s.producers := by
  unfold State.acceptImage State.holdImage
  split <;> exact ⟨rfl, rfl, rfl⟩

/-- The store then holds the image and all that it held (R67). -/
theorem mem_images_acceptImage (inBays : b < s.bays.length) (j : Image) :
    j ∈ ((s.acceptImage b i key).bay b).images ↔ j = i ∨ j ∈ (s.bay b).images :=
  mem_images_holdImage (s := s.attested b i key) inBays

end

/-! ## IMAGE_LOAD_COMPLETE -/

/-- The state after a load has been judged: the load is gone and its producer has the status. -/
def State.loadDone (s : State) (id : Nat) (l : ImageLoad) : State :=
  let v := s.loadImage l.bay l.bytes l.poison
  { v.2 with loads := v.2.loads.drop id }.giveStatus l.producer v.1

theorem exec_imageLoadComplete {s : State} {id : Nat} {l : ImageLoad} (found : SMap.find s.loads id = some l) :
    exec (.imageLoadComplete id) s = .next (s.loadDone id l) := by
  show execImageLoadComplete id s = _
  simp only [execImageLoadComplete, found, State.loadDone]

section
variable (s : State) (id : Nat) (l : ImageLoad)

theorem loadDone_chip : (s.loadDone id l).chip = (s.loadImage l.bay l.bytes l.poison).2.chip := rfl

theorem loadDone_bays : (s.loadDone id l).bays = (s.loadImage l.bay l.bytes l.poison).2.bays := rfl

theorem find_loadDone_loads : SMap.find (s.loadDone id l).loads id = none := by
  show SMap.find (SMap.drop _ id) id = none
  rw [find_drop, if_pos rfl]

theorem loadDone_keeps : (s.loadDone id l).mem = s.mem ∧ (s.loadDone id l).frames = s.frames := by
  show (s.loadImage l.bay l.bytes l.poison).2.mem = _ ∧ (s.loadImage l.bay l.bytes l.poison).2.frames = _
  rcases loadImage_state s l.bay l.bytes l.poison with eq | ⟨key, eq⟩
  · simp [eq]
  · obtain ⟨mem, frames, _⟩ := acceptImage_keeps s l.bay (submittedImage l.bytes) key
    rw [eq]
    exact ⟨mem, frames⟩

theorem loadImage_producers (b : Nat) (bs : List Byte) (poison : Bool) : (s.loadImage b bs poison).2.producers = s.producers := by
  rcases loadImage_state s b bs poison with eq | ⟨key, eq⟩
  · rw [eq]
  · obtain ⟨_, _, producers⟩ := acceptImage_keeps s b (submittedImage bs) key
    rw [eq, producers]

/-- The producer of sD gets the verdict's status. -/
theorem find_loadDone_producer {p : Producer} (waits : SMap.find s.producers l.producer = some p) {rod reg : Nat} {v : BitVec 64}
    (writes : p.effect.writes = [.scl rod reg v false]) :
    ∃ q, SMap.find (s.loadDone id l).producers l.producer = some q ∧ q.ready = true ∧
      q.effect.writes = [.scl rod reg (BitVec.ofNat 64 (s.loadImage l.bay l.bytes l.poison).1) false] := by
  simp only [State.loadDone, State.giveStatus, loadImage_producers, find_modify, waits, if_pos, Option.map_some]
  exact ⟨_, rfl, rfl, by simp [writes]⟩

end

/-! ## The obligation -/

/-- Settles O30: the submitting word runs to the state it leaves to the loader, and the loader's verdicts are taken in the order of R66. -/
theorem imagesAreLoadedAndJudged : Obligations.images_are_loaded_and_judged := by
  refine ⟨?submit, ?judge⟩
  case submit =>
    rintro s c f i bs poison s1 x issues one done clean ⟨b, bay, inRange, bayDone⟩ long short reads issuing
    let load : ImageLoad := { bay := b, bytes := bs, poison := poison, producer := 0 }
    exact ⟨_, _, _, exec_imgsub_reads issues one done clean bay inRange bayDone long short reads,
      unit?_leaveToLoader s1 c i f.dst.toNat load issuing, passed_frontier_congr (markAll_frontier ..),
      leaveToLoader_mem s1 c i f.dst.toNat load, find_leaveToLoader_producers s1 c i f.dst.toNat load, rfl, rfl, rfl, rfl,
      s1.nextId + 1, _, find_leaveToLoader_loads s1 c i f.dst.toNat load, bay.symm, rfl, rfl, rfl⟩
  case judge =>
    intro s id l found inBays y message img key
    obtain ⟨mem, frames⟩ := loadDone_keeps s id l
    refine ⟨s.loadDone id l, exec_imageLoadComplete found, find_loadDone_loads s id l, mem, frames, ?verdict⟩
    intro answered refused
    have answers {st : Nat} {s1 : State} (verdict : s.loadImage l.bay l.bytes l.poison = (st, s1)) : answered st := by
      intro p waits rod reg v writes
      simpa [verdict] using find_loadDone_producer s id l waits writes
    have refuses {st : Nat} (verdict : s.loadImage l.bay l.bytes l.poison = (st, s)) : refused st :=
      ⟨answers verdict, by rw [loadDone_chip, verdict], by rw [loadDone_bays, verdict]⟩
    split
    case isTrue bad => exact refuses (loadImage_of_misshapen bad)
    case isFalse good =>
    split
    case isTrue noKey => exact refuses (loadImage_of_no_key good noKey)
    case isFalse someKey =>
    obtain ⟨k, verified⟩ := Option.ne_none_iff_exists'.mp someKey
    have byKey := loadImage_of_key good verified
    split
    case isTrue clash => exact refuses (byKey.trans (if_pos clash))
    case isFalse clash =>
    split
    case isTrue full => exact refuses (byKey.trans ((if_neg clash).trans (if_pos full)))
    case isFalse full =>
    split
    case isTrue logFull => exact refuses (byKey.trans ((if_neg clash).trans ((if_neg full).trans (if_pos logFull))))
    case isFalse logFull =>
    have accepted := byKey.trans ((if_neg clash).trans ((if_neg full).trans (if_neg logFull)))
    have holds (j : Image) : j ∈ ((s.loadDone id l).bay l.bay).images ↔ j = img ∨ j ∈ y.images := by
      rw [State.bay, loadDone_bays, accepted]
      exact mem_images_acceptImage s l.bay img k.1 inBays j
    refine ⟨answers accepted, (holds img).2 (.inl rfl), fun j stored => (holds j).2 (.inr stored), ?attest⟩
    intro k' sameKey
    obtain rfl : k = k' := Option.some.inj (verified.symm.trans sameKey)
    rw [loadDone_chip, accepted]
    exact acceptImage_attest s l.bay img k.1

end Sys2Proof.Machine
end
section
/-! PROOFS. What reads and walks leave (R244, R247, R252, R262): where their lines are present, the contents of every line, and all on which
another walk rests, stay as they were. -/

namespace Sys2Proof.Machine

/-! ## What reads leave -/

/-- What an access finds of a line: its data, its poison, and the way it stands in. -/
def L2Line.contents (l : L2Line) : BitVec 1024 × Bool × Nat := (l.data, l.poison, l.way)

/-- Frames, nodes and stored bytes are the same, and so are the contents of every line. -/
structure State.SameContents (s t : State) : Prop where
  frames : t.frames = s.frames
  nodes : t.nodes = s.nodes
  cells : t.mem.cells = s.mem.cells
  lines : ∀ k, (t.l2? k).map L2Line.contents = (s.l2? k).map L2Line.contents

/-- What a walk rests on beside the lines and the bay: the registers, the stored bytes, the failures returned and the quarantined sets. -/
def State.stored (s : State) : State :=
  { State.reset with
    chip := s.chip, mem := s.mem, cache := { Caches.blank with denied := s.cache.denied, quarantine := s.cache.quarantine } }

/-- All on which a walk rests is the same too: what may differ is claims, leases, clocks, turns, counters and kept translations, and a
read of lines that are present changes nothing else. -/
structure State.OnlyRead (s t : State) : Prop extends s.SameContents t where
  stored : t.stored = s.stored
  root : ∀ b, (t.bay b).root = (s.bay b).root
  block : ∀ b, (t.bay b).block = (s.bay b).block

/-- A line stands in its slice, and not for one request alone. -/
def State.keepsLine (s : State) (line : Nat) : Prop := ∃ l, s.l2? line = some l ∧ l.way ≠ transientWay

section
variable {s t u : State}

theorem State.SameContents.refl (s : State) : s.SameContents s := ⟨rfl, rfl, rfl, fun _ => rfl⟩

theorem State.SameContents.trans (h : s.SameContents t) (h' : t.SameContents u) : s.SameContents u :=
  ⟨h'.frames.trans h.frames, h'.nodes.trans h.nodes, h'.cells.trans h.cells, fun k => (h'.lines k).trans (h.lines k)⟩

/-- A line that stands in the one state stands in the other, with the same contents. -/
theorem State.SameContents.l2? (h : s.SameContents t) {k : Nat} {l : L2Line} (line : s.l2? k = some l) :
    ∃ l', t.l2? k = some l' ∧ l'.contents = l.contents := by
  simpa [line] using h.lines k

theorem State.SameContents.data (h : s.SameContents t) (k : Nat) : (t.l2? k).map (·.data) = (s.l2? k).map (·.data) := by
  simpa [Function.comp_def, L2Line.contents] using congrArg (Option.map Prod.fst) (h.lines k)

theorem State.SameContents.keepsLine (h : s.SameContents t) {k : Nat} (kept : s.keepsLine k) : t.keepsLine k := by
  obtain ⟨l, line, way⟩ := kept
  obtain ⟨l', line', same⟩ := h.l2? line
  simp only [L2Line.contents, Prod.mk.injEq] at same
  exact ⟨l', line', by rwa [same.2.2]⟩

theorem State.keepsLine.present {k : Nat} (kept : s.keepsLine k) : (s.l2? k).isSome = true := by
  obtain ⟨l, line, _⟩ := kept
  simp [line]

theorem State.OnlyRead.refl (s : State) : s.OnlyRead s := ⟨.refl s, rfl, fun _ => rfl, fun _ => rfl⟩

theorem State.OnlyRead.trans (h : s.OnlyRead t) (h' : t.OnlyRead u) : s.OnlyRead u :=
  ⟨h.toSameContents.trans h'.toSameContents, h'.stored.trans h.stored,
    fun b => (h'.root b).trans (h.root b), fun b => (h'.block b).trans (h.block b)⟩

/-- Steps that each read and no more, one after the other. -/
theorem onlyRead_foldl {α : Type} {g : State → α → State} (xs : List α)
    (step : ∀ t, s.OnlyRead t → ∀ x ∈ xs, t.OnlyRead (g t x)) (h : s.OnlyRead t) : s.OnlyRead (xs.foldl g t) := by
  induction xs generalizing t with
  | nil => exact h
  | cons x xs ih =>
    exact ih (fun u hu y hy => step u hu y (List.mem_cons_of_mem x hy)) (h.trans (step t h x List.mem_cons_self))

end

section
variable (s : State)

@[simp] theorem l2?_putLine (line : Nat) (l : L2Line) (k : Nat) : (s.putLine line l).l2? k = if k = line then some l else s.l2? k := by
  split
  · subst k; exact find_put_same ..
  · exact find_put_other _ ‹_› _

theorem field_bay_modBay {β : Type} (f : Bay → β) {g : Bay → Bay} (keeps : ∀ y, f (g y) = f y) (b k : Nat) :
    f ((s.modBay b g).bay k) = f (s.bay k) := by
  simp only [State.bay, State.modBay_bays, List.getElem?_modify]
  cases s.bays[k]? with
  | none => rfl
  | some y =>
    by_cases here : b = k
    · simp [here, keeps]
    · simp [here]

theorem onlyRead_modBay {g : Bay → Bay} (root : ∀ y, (g y).root = y.root) (block : ∀ y, (g y).block = y.block) (b : Nat) :
    s.OnlyRead (s.modBay b g) :=
  ⟨⟨rfl, rfl, rfl, fun _ => rfl⟩, rfl, field_bay_modBay s (·.root) root b, field_bay_modBay s (·.block) block b⟩

theorem onlyRead_modCache {g : Caches → Caches} (lines : (g s.cache).lines = s.cache.lines) (denied : (g s.cache).denied = s.cache.denied)
    (quarantine : (g s.cache).quarantine = s.cache.quarantine) : s.OnlyRead (s.modCache g) :=
  ⟨⟨rfl, rfl, rfl, fun k => congrArg (fun m => (SMap.find m k).map L2Line.contents) lines⟩,
    by simp only [State.stored, State.modCache, denied, quarantine], fun _ => rfl, fun _ => rfl⟩

theorem onlyRead_putLine {line : Nat} {l l' : L2Line} (stands : s.l2? line = some l) (same : l'.contents = l.contents) :
    s.OnlyRead (s.putLine line l') := by
  refine ⟨⟨rfl, rfl, rfl, fun k => ?_⟩, rfl, fun _ => rfl, fun _ => rfl⟩
  rw [l2?_putLine]
  split
  · subst k; simp [stands, same]
  · rfl

theorem onlyRead_count (b n k : Nat) : s.OnlyRead (s.count b n k) :=
  onlyRead_modBay s (fun y => by split <;> rfl) (fun y => by split <;> rfl) b

theorem onlyRead_settleEpoch (b : Nat) : s.OnlyRead (s.settleEpoch b) := by
  unfold State.settleEpoch
  split
  · exact onlyRead_modBay s (fun _ => by rfl) (fun _ => by rfl) b
  · exact .refl s

theorem onlyRead_countKept (b : Nat) (kept : Bool) : s.OnlyRead (s.countKept b kept) := by
  unfold State.countKept
  split
  · exact ((onlyRead_settleEpoch s b).trans
      (onlyRead_modBay _ (fun y => by split <;> rfl) (fun y => by split <;> rfl) b)).trans (onlyRead_count _ ..)
  · exact .refl s

theorem onlyRead_raiseCt (core n : Nat) : s.OnlyRead (s.raiseCt core n) := by
  unfold State.raiseCt
  split
  · exact .refl s
  · exact onlyRead_modCache s rfl rfl rfl

theorem onlyRead_raiseClk (slice n : Nat) : s.OnlyRead (s.raiseClk slice n) := by
  unfold State.raiseClk
  split
  · exact .refl s
  · exact onlyRead_modCache s rfl rfl rfl

theorem onlyRead_replied (core line : Nat) : s.OnlyRead (s.replied core line) := by
  unfold State.replied
  split
  · split
    · exact onlyRead_raiseCt s ..
    · exact .refl s
  · exact .refl s

theorem onlyRead_turnTaken (line : Nat) (who : Option Nat) : s.OnlyRead (s.turnTaken line who) := by
  unfold State.turnTaken
  split
  · exact onlyRead_modCache s rfl rfl rfl
  · exact .refl s

/-- A line that stands for more than one request stays (R267). -/
theorem dropTransient_of_keepsLine {line : Nat} (kept : s.keepsLine line) : s.dropTransient line = s := by
  obtain ⟨l, stands, way⟩ := kept
  simp [State.dropTransient, stands, way]

theorem tick_contents (l : L2Line) (brc : Nat) : (l.tick brc).1.contents = l.contents := by
  unfold L2Line.tick
  split
  · split <;> rfl
  · split <;> rfl
  · rfl

theorem claim_contents (l : L2Line) (brc x k : Nat) (keepOk : Bool) : (l.claim brc x k keepOk).1.contents = l.contents := by
  simp only [L2Line.claim]
  repeat' split
  all_goals rfl

theorem onlyRead_tickLine (line : Nat) : s.OnlyRead (s.tickLine line) := by
  unfold State.tickLine
  cases stands : s.l2? line with
  | none => exact .refl s
  | some l =>
    have put : s.OnlyRead (if (l.tick (s.brcOf l.bay)).1 = l then s else s.putLine line (l.tick (s.brcOf l.bay)).1) := by
      split
      · exact .refl s
      · exact onlyRead_putLine s stands (tick_contents ..)
    dsimp only
    split
    · exact put.trans (onlyRead_countKept _ ..)
    · exact put

theorem onlyRead_claimLine (line x k : Nat) : s.OnlyRead (s.claimLine line x k) := by
  have ticked := onlyRead_tickLine s line
  unfold State.claimLine
  dsimp only
  cases stands : (s.tickLine line).l2? line with
  | none => exact ticked
  | some l =>
    have put := ticked.trans (onlyRead_putLine _ stands (claim_contents l ((s.tickLine line).brcOf l.bay) x k
      (k == 31 && (s.tickLine line).keepOk line)))
    dsimp only
    split
    · exact put.trans (onlyRead_countKept _ ..)
    · exact put

theorem onlyRead_homeRead (line x k ct b : Nat) : s.OnlyRead (s.homeRead line x k ct b) := by
  have claimed := onlyRead_claimLine s line x k
  unfold State.homeRead
  dsimp only
  cases stands : (s.claimLine line x k).l2? line with
  | none => exact claimed
  | some l =>
    dsimp only
    split
    · exact claimed
    · exact claimed.trans (onlyRead_putLine _ stands rfl)

theorem onlyRead_keepIn (e : TlbEntry) (cap : Nat) (rivals : List TlbEntry) : s.OnlyRead (s.keepIn e cap rivals) := by
  unfold State.keepIn
  split
  · exact .refl s
  · split
    · exact onlyRead_modCache s rfl rfl rfl
    · exact ⟨⟨rfl, rfl, rfl, fun _ => rfl⟩, rfl, fun _ => rfl, fun _ => rfl⟩

theorem onlyRead_keepLeaf (b core page sh : Nat) (e : BitVec 64) : s.OnlyRead (s.keepLeaf b core page sh e) := by
  unfold State.keepLeaf
  dsimp only
  split
  · exact onlyRead_keepIn s ..
  · exact (onlyRead_keepIn s ..).trans (onlyRead_keepIn _ ..)

/-- A read of a line that is present changes no contents (R252). -/
theorem onlyRead_touch (r : Reader) {p : Place} (kept : s.keepsLine p.line) : s.OnlyRead (s.touch r p) := by
  have read := ((onlyRead_homeRead s p.line r.clm r.k (s.timeOf r.core) r.who.bay).trans (onlyRead_replied _ r.core p.line)).trans
    (onlyRead_count _ r.who.bay 4 (if r.who.bay < 12 then 1 else 0))
  simp only [State.touch, if_pos kept.present, dropTransient_of_keepsLine _ (read.keepsLine kept)]
  exact read.trans (onlyRead_turnTaken _ ..)

end

/-! ## Walks -/

/-- A line that no slice holds reads as it is stored. -/
theorem readLocal_of_absent {s : State} {key loc n : Nat} (absent : s.l2? (loc / 128) = none) :
    s.readLocal key loc n = s.stored.readLocal key loc n := by
  simp only [State.readLocal, absent]
  rfl

section
variable {s t : State} (h : s.OnlyRead t)
include h

/-- What rests on no more than the stored part is the same. -/
theorem State.OnlyRead.eq_of_stored {β : Type} (f : State → β) (rests : ∀ u : State, f u.stored = f u) : f t = f s := by
  rw [← rests t, ← rests s, h.stored]

theorem State.OnlyRead.pkgNum : t.pkgNum = s.pkgNum := h.eq_of_stored State.pkgNum (fun _ => rfl)

theorem State.OnlyRead.readLocal (key loc n : Nat) : t.readLocal key loc n = s.readLocal key loc n := by
  cases here : s.l2? (loc / 128) with
  | none =>
    have there : t.l2? (loc / 128) = none := by simpa [here] using h.lines (loc / 128)
    rw [readLocal_of_absent here, readLocal_of_absent there, h.stored]
  | some l =>
    obtain ⟨l', there, contents⟩ := h.l2? here
    simp only [L2Line.contents, Prod.mk.injEq] at contents
    simp only [State.readLocal, here, there, contents]

theorem State.OnlyRead.tableCause (b pkg loc : Nat) : t.tableCause b pkg loc = s.tableCause b pkg loc := by
  have entry : t.ownerEntry loc = s.ownerEntry loc := h.eq_of_stored (State.ownerEntry · loc) (fun _ => rfl)
  have memory : t.hasMemory loc = s.hasMemory loc := h.eq_of_stored (State.hasMemory · loc) (fun _ => rfl)
  have bad : t.chip.ownersBad = s.chip.ownersBad := h.eq_of_stored (·.chip.ownersBad) (fun _ => rfl)
  have keys : (t.bay b).keySet = (s.bay b).keySet := by simp only [Bay.keySet, Bay.c, h.block]
  unfold State.tableCause
  rw [entry, h.pkgNum, memory, bad, keys]

theorem State.OnlyRead.tableEntry (b level : Nat) (va : BitVec 64) (table : Nat) :
    t.tableEntry b level va table = s.tableEntry b level va table := by
  have denied (line key : Nat) : t.deniedTo line b key false = s.deniedTo line b key false :=
    h.eq_of_stored (State.deniedTo · line b key false) (fun _ => rfl)
  have key (line : Nat) : t.granuleKey line = s.granuleKey line := h.eq_of_stored (State.granuleKey · line) (fun _ => rfl)
  simp only [State.tableEntry, denied, key, h.tableCause, h.readLocal]

theorem State.OnlyRead.walkFrom (b : Nat) (va : BitVec 64) (level table : Nat) : t.walkFrom b va level table = s.walkFrom b va level table := by
  induction level generalizing table with
  | zero => simp only [State.walkFrom, h.tableEntry]
  | succ level ih => simp only [State.walkFrom, h.tableEntry, ih]

/-- A walk finds the same in a state that has only been read. -/
theorem State.OnlyRead.walk (b : Nat) (va : BitVec 64) : t.walk b va = s.walk b va := by
  simp only [State.walk, h.root, h.pkgNum, h.walkFrom]

theorem State.OnlyRead.walkLines (b : Nat) (vas : List Nat) : t.walkLines b vas = s.walkLines b vas := by
  simp only [State.walkLines, h.walk]

end

/-- A walk reads the lines of its tables, which are present, and keeps what it found (R247, R262). -/
theorem onlyRead_walked (s : State) {b core : Nat} {va : BitVec 64} (kept : ∀ line ∈ (s.walk b va).lines, s.keepsLine line) :
    s.OnlyRead (s.walked b core va) := by
  unfold State.walked
  split
  · exact .refl s
  · dsimp only
    generalize walked : (s.walk b va).lines.foldl _ s = u
    have lines : s.OnlyRead u := by
      subst walked
      refine onlyRead_foldl _ (fun t only line mem => ?_) (.refl s)
      have here := only.keepsLine (kept line mem)
      have read := (onlyRead_homeRead t line 257 30 (t.ct core) b).trans (onlyRead_count _ b 4 (if b < 12 then 1 else 0))
      simp only [if_pos here.present, dropTransient_of_keepsLine _ (read.keepsLine here)]
      exact read.trans (onlyRead_turnTaken _ ..)
    split
    · exact lines.trans (onlyRead_keepLeaf _ ..)
    · exact lines

/-- The walks of some addresses, where every line that they read is present. -/
theorem onlyRead_walkedAll (s : State) {b core : Nat} {vas : List Nat} (kept : ∀ line ∈ s.walkLines b vas, s.keepsLine line) :
    s.OnlyRead (s.walkedAll b core vas) := by
  have walks : s.OnlyRead (vas.foldl (fun s va => if 2 ^ 57 ≤ va then s else s.walked b core (BitVec.ofNat 64 va)) s) := by
    refine onlyRead_foldl _ (fun t only va mem => ?_) (.refl s)
    split
    · exact .refl t
    · refine onlyRead_walked t (fun line read => only.keepsLine (kept line ?_))
      rw [only.walk] at read
      exact List.mem_flatMap.2 ⟨va, mem, by rwa [if_neg ‹_›]⟩
  exact ⟨⟨walks.frames, walks.nodes, walks.cells, walks.lines⟩, walks.stored, walks.root, walks.block⟩

end Sys2Proof.Machine
end

section
/-! PROOFS. Writes within a line that is present, and a run of bytes that a copy moves (R80, R252, R366). -/

namespace Sys2Proof.Machine

/-! ## Bytes of a line -/

theorem toBytes_length (n x : Nat) : (toBytes n x).length = n := by
  induction n generalizing x with
  | zero => rfl
  | succ n ih => simp [toBytes, ih]

theorem ofBytes_toBytes (n x : Nat) : ofBytes (toBytes n x) = x % 2 ^ (8 * n) := by
  induction n generalizing x with
  | zero => simp [toBytes, ofBytes, Nat.mod_one]
  | succ n ih =>
    have split : 2 ^ (8 * (n + 1)) = 256 * 2 ^ (8 * n) := by rw [Nat.mul_succ, Nat.pow_add, Nat.mul_comm]
    rw [split, Nat.mod_mul, toBytes, ofBytes, ih, BitVec.toNat_ofNat]

/-- A bit of a line into which bytes are put is the bytes' where they stand, and the line's elsewhere. -/
theorem getLsbD_putBytes (d : BitVec 1024) (off : Nat) (bs : List Byte) {i : Nat} (inLine : i < 1024)
    (small : ofBytes bs < 2 ^ (8 * bs.length)) :
    (putBytes d off bs).getLsbD i =
      if 8 * off ≤ i ∧ i < 8 * (off + bs.length) then (ofBytes bs).testBit (i - 8 * off) else d.getLsbD i := by
  simp only [putBytes, BitVec.getLsbD_or, BitVec.getLsbD_and, BitVec.getLsbD_not, BitVec.getLsbD_ofNat, Nat.testBit_mul_two_pow,
    Nat.testBit_two_pow_sub_one, inLine, decide_true, Bool.true_and]
  by_cases below : 8 * off ≤ i
  · by_cases within : i < 8 * (off + bs.length)
    · have inside : i - 8 * off < 8 * bs.length := by omega
      simp [below, within, inside]
    · have outside : ¬ i - 8 * off < 8 * bs.length := by omega
      have none : (ofBytes bs).testBit (i - 8 * off) = false :=
        Nat.testBit_lt_two_pow (Nat.lt_of_lt_of_le small (Nat.pow_le_pow_right (by decide) (by omega)))
      simp [within, outside, none]
  · simp [below]

/-- Bytes moved from a place of one line to a place of another, bit by bit. -/
theorem getLsbD_putBytes_toBytes (d e : BitVec 1024) (off from_ n : Nat) {i : Nat} (inLine : i < 1024) :
    (putBytes d off (toBytes n (lineBytes e from_ n))).getLsbD i =
      if 8 * off ≤ i ∧ i < 8 * (off + n) then e.getLsbD (8 * from_ + (i - 8 * off)) else d.getLsbD i := by
  have small : ofBytes (toBytes n (lineBytes e from_ n)) < 2 ^ (8 * (toBytes n (lineBytes e from_ n)).length) := by
    rw [ofBytes_toBytes, toBytes_length]
    exact Nat.mod_lt _ (Nat.two_pow_pos _)
  rw [getLsbD_putBytes d off _ inLine small, toBytes_length, ofBytes_toBytes]
  split
  · have inside : i - 8 * off < 8 * n := by omega
    simp [lineBytes, field, Nat.testBit_mod_two_pow, inside, BitVec.getLsbD]
  · rfl

/-! ## Writes -/

section
variable {s t : State}

/-- Lines of equal contents, put in the same place. -/
theorem State.SameContents.putLine (h : s.SameContents t) (line : Nat) {l l' : L2Line} (same : l'.contents = l.contents) :
    (s.putLine line l).SameContents (t.putLine line l') := by
  refine ⟨h.frames, h.nodes, h.cells, fun k => ?_⟩
  rw [l2?_putLine, l2?_putLine]
  split
  · simp [same]
  · exact h.lines k

variable (s)

theorem sameContents_modCache {g : Caches → Caches} (lines : (g s.cache).lines = s.cache.lines) : s.SameContents (s.modCache g) :=
  ⟨rfl, rfl, rfl, fun k => congrArg (fun m => (SMap.find m k).map L2Line.contents) lines⟩

theorem sameContents_setSill (line : Nat) (v : BitVec 32) : s.SameContents (s.setSill line v) := ⟨rfl, rfl, rfl, fun _ => rfl⟩

@[simp] theorem sill_setSill (line : Nat) (v : BitVec 32) : (s.setSill line v).sill line = v := get_set_same ..

/-- The check code leaves ST as it is (R363, R364). -/
theorem sillSt_sealSill (v : BitVec 32) : sillSt (sealSill v) = sillSt v := by
  refine congrArg BitVec.toNat (BitVec.eq_of_getLsbD_eq fun i inField => ?_)
  have above : ¬ 29 + i < 8 := by omega
  have within : 29 + i - 8 < 24 := by omega
  have place : 8 + (29 + i - 8) = 29 + i := by omega
  simp only [sealSill, BitVec.getLsbD_extractLsb', BitVec.getLsbD_append, above, within, place, decide_true, Bool.true_and, if_false]

theorem sillSt_mkSill_invalid (pois : Bool) : sillSt (mkSill 0 0 0 pois) = 0 := by
  rw [mkSill, sillSt_sealSill]
  cases pois <;> decide

/-- Messages leave the contents, and the sills. -/
theorem sendAll_keeps (g : Nat → Message) (pkgs : List Nat) : s.SameContents (s.sendAll g pkgs) ∧ (s.sendAll g pkgs).mem = s.mem := by
  induction pkgs generalizing s with
  | nil => exact ⟨.refl s, rfl⟩
  | cons p ps ih =>
    obtain ⟨same, mem⟩ := ih (s.send (g p))
    exact ⟨(sameContents_modCache s rfl).trans same, mem⟩

/-- A write-back of a line that no package owns any more is discarded (R367). -/
theorem takeBack_of_invalid {pkg line : Nat} (dirty : Option (BitVec 1024 × Bool)) (invalid : sillSt (s.sill line) = 0) :
    s.takeBack pkg line dirty = s.send (.ack pkg line (s.channelTo (s.lineBay line) s.pkgNum) none) := by
  simp [State.takeBack, invalid]

theorem sameContents_takeBacks {line : Nat} (invalid : sillSt (s.sill line) = 0) : s.SameContents (s.takeBacks line) := by
  have discards (bs : List HeldBack) (ours : ∀ b ∈ bs, b.line = line) (t : State) (invalid : sillSt (t.sill line) = 0) :
      t.SameContents (bs.foldl (fun s b => s.takeBack b.pkg b.line b.dirty) t) := by
    induction bs generalizing t with
    | nil => exact .refl t
    | cons b bs ih =>
      have here : b.line = line := ours b List.mem_cons_self
      rw [List.foldl_cons, here, takeBack_of_invalid t b.dirty invalid]
      exact (sameContents_modCache t rfl).trans (ih (fun c hc => ours c (List.mem_cons_of_mem b hc)) _ invalid)
  exact (sameContents_modCache s rfl).trans (discards _ (fun b hb => by simpa using (List.mem_filter.1 hb).2) _ invalid)

/-- A transaction that only invalidates: it waits for the acknowledgements, or ends at once (R366). -/
theorem sameContents_startTxn {line : Nat} (pkgs : List Nat) (invalid : sillSt (s.sill line) = 0) :
    s.SameContents (s.startTxn line .sharedWrite pkgs) := by
  unfold State.startTxn
  split
  · have ended := sameContents_modCache s (g := fun c => { c with txns := c.txns.drop line }) rfl
    exact ended.trans (sameContents_takeBacks _ invalid)
  · exact sameContents_modCache s rfl

/-- The invalidations of a home write that finds the line shared (R366, R368). -/
theorem sameContents_sharedWrite (line : Nat) : s.SameContents (s.sharedWrite line) := by
  unfold State.sharedWrite
  dsimp only
  split
  · exact .refl s
  · refine ((sameContents_setSill s line (mkSill 0 0 0 (sillPois (s.sill line)))).trans (sendAll_keeps ..).1).trans
      (sameContents_startTxn _ _ ?_)
    rw [State.sill, (sendAll_keeps ..).2]
    exact (congrArg sillSt (sill_setSill ..)).trans (sillSt_mkSill_invalid _)

variable {s}

/-- A write at a home slice puts the new value, and nothing else changes of the contents (R252). -/
theorem homeWrite_contents {line : Nat} {m : L2Line} (stands : s.l2? line = some m) (x k ct : Nat)
    (g : BitVec 1024 × Bool → BitVec 1024 × Bool) :
    (s.putLine line { m with data := (g (m.data, m.poison)).1, poison := (g (m.data, m.poison)).2 }).SameContents
      (s.homeWrite line x k ct g).1 := by
  have claimed := onlyRead_claimLine s line x k
  obtain ⟨l, there, same⟩ := claimed.l2? stands
  simp only [L2Line.contents, Prod.mk.injEq] at same
  obtain ⟨data, poison, way⟩ := same
  simp only [State.homeWrite, there]
  refine (claimed.toSameContents.putLine line ?_).trans (onlyRead_raiseClk _ ..).toSameContents
  simp only [L2Line.contents, data, poison, way]

/-- A write within a line that is present (R252, R257, R362). -/
theorem putRunWith_contents {r : Reader} {p : Place} {m : L2Line} (stands : s.l2? p.line = some m) (way : m.way ≠ transientWay)
    (g : BitVec 1024 × Bool → BitVec 1024 × Bool) :
    (s.putLine p.line { m with data := (g (m.data, m.poison)).1, poison := (g (m.data, m.poison)).2 }).SameContents
      (s.putRunWith r p g) := by
  have present : (s.l2? p.line).isSome = true := by simp [stands]
  have written := homeWrite_contents stands r.clm r.k (s.timeOf r.core) g
  have kept : (s.putLine p.line { m with data := (g (m.data, m.poison)).1, poison := (g (m.data, m.poison)).2 }).keepsLine p.line :=
    ⟨_, (l2?_putLine ..).trans (if_pos rfl), way⟩
  simp only [State.putRunWith, if_pos present]
  generalize s.homeWrite p.line r.clm r.k (s.timeOf r.core) g = out at written
  obtain ⟨u, wts⟩ := out
  dsimp only at written ⊢
  have ends {v : State} (same : u.SameContents v) :
      u.SameContents (((v.raiseCt r.core wts).dropTransient p.line).turnTaken p.line (some r.who.bay)) := by
    have raised := same.trans (onlyRead_raiseCt v r.core wts).toSameContents
    rw [dropTransient_of_keepsLine _ ((written.trans raised).keepsLine kept)]
    exact raised.trans (onlyRead_turnTaken _ ..).toSameContents
  refine written.trans (ends ?_)
  split
  · exact sameContents_sharedWrite u p.line
  · split
    next l here => exact (onlyRead_putLine u here (by rfl)).toSameContents
    next => exact .refl u

/-- A run of bytes written within a line that is present. -/
theorem putRun_contents {r : Reader} {p : Place} {m : L2Line} (stands : s.l2? p.line = some m) (way : m.way ≠ transientWay)
    (bs : List Byte) (poison : Bool) :
    ∃ poisoned, (s.putLine p.line { m with data := putBytes m.data p.off bs, poison := poisoned }).SameContents (s.putRun r p bs poison) :=
  ⟨_, putRunWith_contents stands way (fun q =>
    (putBytes q.1 p.off bs, if bs.length = 128 ∧ !poison then false else q.2 || poison))⟩

end

/-! ## A run of a copy (R80) -/

section
variable {s : State} {rd : Reader}

/-- Each place has the length of its run. -/
theorem places_n {kind : AccKind} {runs : List (Nat × Nat)} {ps : List Place} (found : s.places rd kind runs = .ok ps) :
    ps.map (·.n) = runs.map (·.2) := by
  induction runs generalizing ps with
  | nil =>
    cases found
    rfl
  | cons run runs ih =>
    simp only [State.places] at found
    split at found
    · cases found
    split at found
    · cases found
    split at found
    · cases found
    split at found
    · cases found
    split at found
    next => cases found
    next rest here =>
      cases found
      simp [ih here]

/-- A range within one line is one run. -/
theorem lineRuns_within {va n : Nat} (some_ : 0 < n) (within : va % 128 + n ≤ 128) : lineRuns va n = [(va, n)] := by
  have one : (va % 128 + n + 127) / 128 = 1 := by omega
  simp only [lineRuns, if_neg (Nat.ne_of_gt some_), one, List.range_one, List.map_cons, List.map_nil, List.cons.injEq, Prod.mk.injEq, and_true]
  omega

/-- The place of a range within one line has the range's length. -/
theorem place_n {kind : AccKind} {va n : Nat} {p : Place} (within : va % 128 + n ≤ 128)
    (found : s.places rd kind (lineRuns va n) = .ok [p]) : p.n = n := by
  have lengths := places_n found
  rcases Nat.eq_zero_or_pos n with rfl | some_
  · simp [lineRuns] at lengths
  · simpa [lineRuns_within some_ within] using lengths

/-- A run stands in one line of each window. -/
theorem copyRun_within (r w : Window) (n : Nat) : r.at n % 128 + copyRun r w n ≤ 128 ∧ w.at n % 128 + copyRun r w n ≤ 128 := by
  have read : copyRun r w n ≤ 128 - r.at n % 128 := Nat.le_trans (Nat.min_le_right _ _) (Nat.min_le_left _ _)
  have write : copyRun r w n ≤ 128 - w.at n % 128 := Nat.le_trans (Nat.min_le_right _ _) (Nat.min_le_right _ _)
  omega

/-- A read within one line that is present gives its bytes. -/
theorem bulkRead_present {va n : Nat} {p : Place} {l : L2Line}
    (open_ : s.openLines rd.who.bay (s.walkLines rd.who.bay (rangePages va n)) = none)
    (place : s.places rd .read (lineRuns va n) = .ok [p]) (ready : s.linesOpen rd.who.bay rd.k false [(p.line, p.key)] = none)
    (stands : s.l2? p.line = some l) :
    s.bulkRead rd va n = .value (toBytes p.n (lineBytes l.data p.off p.n)) l.poison
      ((s.walkedAll rd.who.bay rd.core (rangePages va n)).touch rd p) := by
  simp only [State.bulkRead, open_, place, List.map_cons, List.map_nil, ready, State.lineNow, stands, List.flatMap_cons, List.flatMap_nil,
    List.append_nil, List.any_cons, List.any_nil, Bool.or_false, List.foldl_cons, List.foldl_nil]

theorem walkLines_cons (s : State) (b va : Nat) (vas : List Nat) : s.walkLines b (va :: vas) = s.walkLines b [va] ++ s.walkLines b vas := by
  simp [State.walkLines]

/-- A run of a copy once its bytes are read and both its walks are made. -/
def State.readRun (s : State) (rd : Reader) (r w : Window) (n : Nat) (p : Place) : State :=
  ((s.walkedAll rd.who.bay rd.core (rangePages (r.at n) (copyRun r w n))).touch rd p).walkedAll rd.who.bay rd.core [w.at n]

/-- A run of a copy once its bytes are written too. -/
def State.copyOneRun (s : State) (rd : Reader) (r w : Window) (n : Nat) (p q : Place) (l : L2Line) : State :=
  (s.readRun rd r w n p).putRun rd q (toBytes (copyRun r w n) (lineBytes l.data p.off (copyRun r w n))) false

section
variable {r w : Window} {n : Nat} {p q : Place} {l m : L2Line} (hand : s.runAtHand rd r w n p q l m)
include hand

/-- A run at hand is copied, and the copy goes on behind it. -/
theorem copyFrom_of_runAtHand (f : Nat) :
    s.copyFrom rd r w (f + 1) n = (s.copyOneRun rd r w n p q l).copyFrom rd r w f (n + copyRun r w n) := by
  obtain ⟨more, openW, openR, _, placeR, placeW, readyR, readyW, standsR, _, clean, _⟩ := hand
  have lengthR : p.n = copyRun r w n := place_n (copyRun_within r w n).1 placeR
  have lengthW : q.n = copyRun r w n := place_n (copyRun_within r w n).2 placeW
  simp only [State.copyFrom, if_neg (Nat.not_le.2 more), openW, bulkRead_present openR placeR readyR standsR, placeW, List.map_cons,
    List.map_nil, readyW, clean, State.putRuns, Bool.false_eq_true, if_false, lengthR, lengthW, State.copyOneRun, State.readRun,
    List.take_of_length_le (Nat.le_of_eq (toBytes_length _ _))]

theorem onlyRead_readRun : s.OnlyRead (s.readRun rd r w n p) := by
  obtain ⟨_, _, _, walked, _, _, _, _, standsR, wayR, _⟩ := hand
  rw [walkLines_cons, List.forall_mem_append] at walked
  obtain ⟨keptW, keptR⟩ := walked
  have source : s.OnlyRead (s.walkedAll rd.who.bay rd.core (rangePages (r.at n) (copyRun r w n))) := onlyRead_walkedAll s keptR
  have read := source.trans (onlyRead_touch _ rd (source.keepsLine ⟨l, standsR, wayR⟩))
  refine read.trans (onlyRead_walkedAll _ fun line asked => read.keepsLine (keptW line ?_))
  rwa [read.walkLines] at asked

/-- The bytes of the run stand in the other line; nothing else has changed in any line, in memory or among the nodes. -/
theorem runCopied_copyOneRun : s.runCopied (s.copyOneRun rd r w n p q l) (copyRun r w n) p q l m ∧
    (s.copyOneRun rd r w n p q l).nodes = s.nodes := by
  have read := onlyRead_readRun hand
  obtain ⟨_, _, _, _, _, _, _, _, _, _, _, _, standsW, wayW, within⟩ := hand
  obtain ⟨m1, stands, contents⟩ := read.l2? standsW
  simp only [L2Line.contents, Prod.mk.injEq] at contents
  obtain ⟨data, _, way⟩ := contents
  obtain ⟨poison, written⟩ := putRun_contents (r := rd) stands (way ▸ wayW)
    (toBytes (copyRun r w n) (lineBytes l.data p.off (copyRun r w n))) false
  obtain ⟨m2, there, contents⟩ := written.l2? ((l2?_putLine ..).trans (if_pos rfl))
  have bytes : m2.data = putBytes m.data q.off (toBytes (copyRun r w n) (lineBytes l.data p.off (copyRun r w n))) :=
    data ▸ congrArg Prod.fst contents
  refine ⟨⟨written.cells.trans read.cells, written.frames.trans read.frames, fun j other => ?others, m2, there,
    fun i inRun j inByte => ?copied, fun b inLine outside => ?kept⟩, written.nodes.trans read.nodes⟩
  case others =>
    rw [State.copyOneRun, written.data, l2?_putLine, if_neg other, read.data]
  case copied =>
    rw [bytes, getLsbD_putBytes_toBytes _ _ _ _ _ (by omega), if_pos (by omega)]
    congr 1
    omega
  case kept =>
    rw [bytes, getLsbD_putBytes_toBytes _ _ _ _ _ inLine, if_neg (by omega)]

end
end

end Sys2Proof.Machine
end

section
/-! PROOFS. Nodes on their way from the pool to their retirement (R80, R86, R87, R419). -/

namespace Sys2Proof.Machine

/-! ## The pool (R80, R87, R419) -/

section
variable {s : State} {b id : Nat} {n : Node}

theorem find_modNode_same (g : Node → Node) (found : SMap.find s.nodes id = some n) :
    SMap.find (s.modNode id g).nodes id = some (g n) := by
  simp [found]

theorem find_modNode_other (g : Node → Node) {k : Nat} (other : k ≠ id) : SMap.find (s.modNode id g).nodes k = SMap.find s.nodes k := by
  simp [other]

/-- A node that leaves the pool of a bay other than the steward's takes the bay's next dispatch number, and no other node changes. -/
theorem leavePool_of_bay (bay : b < 12) (inBays : b < s.bays.length) (found : SMap.find s.nodes id = some n) (st : NodeState) :
    (s.leavePool b id st).mem = s.mem ∧
    SMap.find (s.leavePool b id st).nodes id = some { n with state := st, dispatch := some (s.bay b).dseq.toNat } ∧
    ((s.leavePool b id st).bay b).dseq = (s.bay b).dseq + 1 ∧
    ∀ k, k ≠ id → SMap.find (s.leavePool b id st).nodes k = SMap.find s.nodes k := by
  rw [State.leavePool, if_neg (by omega), State.modBay_nodes, find_modNode_same _ found, bay_modBay_same (by exact inBays)]
  exact ⟨rfl, rfl, rfl, fun _ other => find_modNode_other _ other⟩

theorem exec_gridDispatch (head : s.poolHead b = some (id, n)) (free : s.dispatching b = none) (grid : recKind n.words = 0)
    (places : s.placesNow b = true) (saved : (s.bay b).saved = []) :
    exec (.gridDispatch b) s = .next (s.leavePool b id .dispatching) := by
  show execGridDispatch b s = _
  simp [execGridDispatch, head, free, grid, places, saved]

theorem exec_copyNodeStart (head : s.poolHead b = some (id, n)) :
    exec (.copyNodeStart b) s = .next (if n.state = .ready ∧ recKind n.words = 1 ∧ ((s.bayNodes b).filter (fun p => recKind p.2.words == 1 &&
        (p.2.state == .running || p.2.state == .draining))).length < 8
      then s.leavePool b id .running else s) := by
  show execCopyNodeStart b s = _
  simp only [execCopyNodeStart, head]

/-! ## Retirement (R86) -/

/-- A map whose values are all changed alike. -/
theorem find_map {α : Type} (g : α → α) (m : SMap α) (k : Nat) : SMap.find (m.map (fun p => (p.1, g p.2))) k = (SMap.find m k).map g := by
  induction m with
  | nil => rfl
  | cons p m ih =>
    simp only [List.map_cons, SMap.find, ih]
    split <;> rfl

theorem unblock_of_waits {done now : Nat} (waits : done ∈ n.preds) :
    (n.unblock done now).words = n.words ∧ (n.unblock done now).preds = n.preds.filter (fun q => q != done) ∧
    (n.state = .waiting → (n.unblock done now).preds = [] →
      (n.unblock done now).state = if recKind n.words = 2 then .draining else .ready) := by
  have listed : memb done n.preds = true := by simpa using waits
  by_cases ends : n.preds.filter (fun q => q != done) = [] ∧ n.state = .waiting
  · obtain ⟨none, waiting⟩ := ends
    simp [Node.unblock, listed, removeNum, none, waiting, Node.released]
  · have stays : ¬ ((n.preds.filter (fun q => q != done)).isEmpty && n.state == .waiting) = true := by simpa using ends
    have blocked : n.unblock done now = { n with preds := n.preds.filter (fun q => q != done) } := (if_pos listed).trans (if_neg stays)
    rw [blocked]
    exact ⟨rfl, rfl, fun waiting none => absurd ⟨none, waiting⟩ ends⟩

theorem unblock_of_not_waits {done now : Nat} (waits : done ∉ n.preds) : n.unblock done now = n := by
  simp [Node.unblock, waits]

/-- An interrupt changes neither nodes nor frames nor memory. -/
theorem queueIrq_keeps (s : State) (b : Nat) (q : QueueId) (k : Queue) :
    (s.queueIrq b q k).nodes = s.nodes ∧ (s.queueIrq b q k).mem = s.mem ∧ (s.queueIrq b q k).frames = s.frames := by
  unfold State.queueIrq
  split <;> exact ⟨rfl, rfl, rfl⟩

/-- A draining node without frames and without a completion pair goes, and those that waited for it wait no more. -/
theorem exec_nodeRetire (found : SMap.find s.nodes id = some n) (draining : n.state = .draining) (noPair : recWord n.words 4 = 0)
    (noFrame : ∀ p ∈ s.frames, p.2.node ≠ id) :
    ∃ t, exec (.nodeRetire id) s = .next t ∧ t.nodes = (s.nodes.drop id).map (fun p => (p.1, p.2.unblock id s.now)) ∧ t.mem = s.mem ∧
      t.frames = s.frames := by
  have done : s.nodeDone id n = true := by
    simp only [State.nodeDone, noPair, beq_self_eq_true, Bool.true_or, Bool.and_true, Bool.not_eq_true', List.any_eq_false, beq_iff_eq]
    exact noFrame
  show ∃ t, execNodeRetire id s = .next t ∧ _
  simp only [execNodeRetire, found, draining, done, State.completion, noPair, ne_eq, not_true, Bool.not_true, Bool.false_eq_true, or_self,
    if_false, if_true]
  split
  · refine ⟨_, rfl, ?_⟩
    split
    · exact queueIrq_keeps _ _ _ _
    · exact ⟨rfl, rfl, rfl⟩
  · exact ⟨_, rfl, rfl, rfl, rfl⟩

end

/-! ## The end of a copy (R80, R86) -/

/-- Who makes the accesses of a copy node. -/
abbrev Node.copyReader (n : Node) : Reader := { acceptReader n.bay (queueLevel n.bay n.queue) with own := false, clm := 256 }

section
variable {s s' : State} {id k m : Nat} {n : Node} {r w : Window} (found : SMap.find s.nodes id = some n) (running : n.state = .running)
  (copies : recKind n.words = 1) (source : recReads n.words = [r]) (target : recWrites n.words = [w])
include found running copies source target

theorem exec_copyNodeComplete_done (run : s.copyFrom n.copyReader r w r.bytes n.copied = .done s') :
    exec (.copyNodeComplete id) s = .next ((s'.modNode id (fun n => { n with state := .draining })).count n.bay 12
      (if n.bay < 12 then r.bytes - n.copied else 0)) := by
  show execCopyNodeComplete id s = _
  simp only [execCopyNodeComplete, found, running, copies, source, target, ne_eq, not_true, or_self, if_false, run]

theorem exec_copyNodeComplete_stopped (run : s.copyFrom n.copyReader r w r.bytes n.copied = .stopped k m s') :
    exec (.copyNodeComplete id) s =
      .next (((s'.forgetAsked n.bay).modNode id (fun n => { n with state := .draining, cause := some (n.cause.getD k) })).count n.bay 12
        (if n.bay < 12 then m - n.copied else 0)) := by
  show execCopyNodeComplete id s = _
  simp only [execCopyNodeComplete, found, running, copies, source, target, ne_eq, not_true, or_self, if_false, run]

theorem exec_copyNodeComplete_waits (run : s.copyFrom n.copyReader r w r.bytes n.copied = .waits m s') :
    exec (.copyNodeComplete id) s = .next ((s'.modNode id (fun n => { n with copied := m })).count n.bay 12
      (if n.bay < 12 then m - n.copied else 0)) := by
  show execCopyNodeComplete id s = _
  simp only [execCopyNodeComplete, found, running, copies, source, target, ne_eq, not_true, or_self, if_false, run]

end

/-- A copy that has come to the end of its window is done. -/
theorem copyFrom_end {s : State} {rd : Reader} {r w : Window} {n : Nat} (all : r.bytes ≤ n) (f : Nat) : s.copyFrom rd r w f n = .done s := by
  cases f with
  | zero => rfl
  | succ f => simp only [State.copyFrom, if_pos all]

/-- A copy of one run, at hand, is done in one go. -/
theorem copyFrom_of_one_run {s : State} {rd : Reader} {r w : Window} {p q : Place} {l m : L2Line} (one : copyRun r w 0 = r.bytes)
    (hand : s.runAtHand rd r w 0 p q l m) : s.copyFrom rd r w r.bytes 0 = .done (s.copyOneRun rd r w 0 p q l) := by
  have some_ : 0 < r.bytes := hand.1
  obtain ⟨f, fuel⟩ := Nat.exists_eq_succ_of_ne_zero (Nat.ne_of_gt some_)
  calc s.copyFrom rd r w r.bytes 0
    _ = s.copyFrom rd r w (f + 1) 0 := congrArg (s.copyFrom rd r w · 0) fuel
    _ = (s.copyOneRun rd r w 0 p q l).copyFrom rd r w f (0 + copyRun r w 0) := copyFrom_of_runAtHand hand f
    _ = .done (s.copyOneRun rd r w 0 p q l) := copyFrom_end (by omega) f

/-! ## The obligation -/

/-- Settles O37: each happening of the pool runs to the state it leaves, and a copy at hand goes on run by run. -/
theorem nodesLeaveThePoolInOrder : Obligations.nodes_leave_the_pool_in_order := by
  refine ⟨?dispatch, ?held, ?ageing, ?retire, ?run, ?complete⟩
  case dispatch =>
    intro s b id n bay inBays head found ready kind grid copy
    by_cases isGrid : recKind n.words = 0
    · obtain ⟨free, places, saved⟩ := grid isGrid
      simp only [isGrid, if_true]
      exact ⟨_, exec_gridDispatch head free isGrid places saved, leavePool_of_bay bay inBays found _⟩
    · have isCopy : recKind n.words = 1 := by omega
      simp only [isGrid, if_false]
      exact ⟨_, (exec_copyNodeStart head).trans (by rw [if_pos ⟨ready, isCopy, copy isCopy⟩]), leavePool_of_bay bay inBays found _⟩
  case held =>
    intro s b id n head dispatching
    rw [exec_copyNodeStart head, if_neg (by simp [dispatching])]
  case ageing =>
    intro s id n found ready bay ages
    refine ⟨s.modNode id (fun n => { n with cls := n.cls - 1, aged := n.aged + 1 }), ?_, find_modNode_same _ found, rfl,
      fun k other => find_modNode_other _ other⟩
    show execPoolAgeing id s = _
    simp only [execPoolAgeing, found, if_pos (show _ ∧ _ ∧ _ from ⟨ready, ages, bay⟩)]
  case retire =>
    intro s id n found draining noPair noFrame
    obtain ⟨t, runs, nodes, mem, frames⟩ := exec_nodeRetire found draining noPair noFrame
    have after (k : Nat) : SMap.find t.nodes k = if k = id then none else (SMap.find s.nodes k).map (·.unblock id s.now) := by
      rw [nodes, find_map (Node.unblock · id s.now), find_drop]
      split <;> rfl
    refine ⟨t, runs, (after id).trans (if_pos rfl), mem, frames, fun k m other stands => ⟨m.unblock id s.now, ?_, ?_⟩⟩
    · rw [after, if_neg other, stands, Option.map_some]
    · by_cases waits : id ∈ m.preds
      · obtain ⟨words, preds, released⟩ := unblock_of_waits (now := s.now) waits
        exact ⟨words, preds, fun _ => released, absurd waits⟩
      · rw [unblock_of_not_waits waits]
        refine ⟨rfl, (List.filter_eq_self.2 fun q listed => ?_).symm, fun waits' => absurd waits' waits, fun _ => rfl⟩
        exact bne_iff_ne.2 fun same => waits (same ▸ listed)
  case run =>
    intro s rd r w f n p q l m hand
    obtain ⟨copied, nodes⟩ := runCopied_copyOneRun hand
    exact ⟨_, copyFrom_of_runAtHand hand f, nodes, copied⟩
  case complete =>
    intro s id n r w rd found running copies source target
    refine ⟨?oneRun, ?done, ?stopped, ?waits⟩
    case oneRun =>
      intro p q l m fresh one hand
      obtain ⟨copied, nodes⟩ := runCopied_copyOneRun hand
      have run : s.copyFrom n.copyReader r w r.bytes n.copied = .done (s.copyOneRun rd r w 0 p q l) := by
        rw [fresh]
        exact copyFrom_of_one_run one hand
      refine ⟨_, exec_copyNodeComplete_done found running copies source target run, one ▸ copied, ?_⟩
      rw [State.count_nodes, find_modNode_same _ (by rwa [nodes])]
    case done =>
      intro s' run stands
      exact ⟨_, exec_copyNodeComplete_done found running copies source target run, rfl, rfl,
        by rw [State.count_nodes, find_modNode_same _ stands]⟩
    case stopped =>
      intro k m s' run stands
      exact ⟨_, exec_copyNodeComplete_stopped found running copies source target run, rfl, rfl,
        by rw [State.count_nodes, find_modNode_same _ (by exact stands)]⟩
    case waits =>
      intro m s' run stands
      exact ⟨_, exec_copyNodeComplete_waits found running copies source target run, rfl, rfl,
        by rw [State.count_nodes, find_modNode_same _ stands]⟩

end Sys2Proof.Machine
end
